-- ==== Sys2Proof/Word.lean ====
section
/-! DEFINITION. The bit-vector types of the manual: bytes, halves, words, doublewords and lane masks. -/

namespace Sys2Proof

/-- One byte, the smallest addressable unit. -/
abbrev Byte := BitVec 8

/-- A 16-bit half. -/
abbrev Half := BitVec 16

/-- A word is 32 bits (00_scope, Names). -/
abbrev Word := BitVec 32

/-- A doubleword is 64 bits (00_scope, Names). -/
abbrev DWord := BitVec 64

/-- One bit per lane of a warp of 64 lanes; bit l is lane l (R11, R42). -/
abbrev Mask := BitVec 64

end Sys2Proof
end

