-- ==== Sys2Proof/Config.lean ====
section
/-! DEFINITION. What the implementation fixes (PX8-A192) and the free values of the model. -/

namespace Sys2Proof.Config

/-- Cores of the package (R8). -/
def cores : Nat := 192

/-- Quadrants of a core (R8). -/
def quadrants : Nat := 4

/-- Warp slots of a quadrant (R8). -/
def slotsPerQuad : Nat := 16

/-- ASIDs, and entries of the descriptor table (R14, R136). -/
def asids : Nat := 4096

/-- Key slots (R14, R146). -/
def keySlots : Nat := 512

/-- The warp width W (R11). -/
def width : Nat := 64

/-- Register blocks in a quadrant's pool (R19, R31). -/
def poolBlocks : Nat := 64

/-- Bytes of one SRAM slice (R9). -/
def sliceBytes : Nat := 0x100000

/-- Bytes of compute HBM: eight stacks of 64 GB (R9, R132). -/
def hbmBytes : Nat := 512000000000

/-- Bytes of the T2 memory: 4 TB of LPDDR6 (R10, R132). -/
def t2Bytes : Nat := 4000000000000

/-- This package's node number in its domain (R256, entry 15). -/
def node : Nat := 0

/-- Bytes of a Lantern block's place (R217). -/
def blockBytes : Nat := 131072

/-- Bytes of a Lantern die's own HBM, and of its half of the LPDDR6 (R9). -/
def lanternBytes (tier : Nat) : Nat := if tier = 1 then 256000000000 else t2Bytes / 2

/-- Cycles of 1 µs at the core clock in force: 3.0 GHz, or 1.5 GHz at REDUCED (R3, R16). -/
def cyclesPerMicro (reduced : Bool) : Nat := if reduced then 1500 else 3000

/-! FREE VALUES. None has a body, so nothing is known of a value. The first argument of each is the state's counter
`fresh`, which moves on with every cycle and after every choice; the others tell apart the values asked for in between. -/

/-- FREE VALUE (log entry 5). Which lanes of a register whose long-latency write, the operation with this name, is
outstanding read the new value, and which the old one (R52); the register by its number. Every mask is possible. -/
opaque freeLanes : Nat → Nat → Nat → Mask

/-- FREE VALUE (log entry 6). A byte of encrypted memory at a location, read through a key slot other than the one it was
written with (R146). -/
opaque freeByte : Nat → Option (Nat × Nat) → Nat → Byte

/-- FREE VALUE (log entry 6). Byte number `i` of data the manual leaves open: a sector whose data is lost (R146), a context
record's area (R235). -/
opaque freeData : Nat → Nat → Byte

/-- FREE VALUE (log entry 29). The byte of a device register that a load of memory kind MMIO reads (R132), by its location. -/
opaque freeDevice : Nat → Nat → Byte

/-- FREE VALUE (log entry 7). A choice the manual leaves open among outcomes it lists; it is used modulo the number of
outcomes. -/
opaque freeChoice : Nat → Nat → Nat

end Sys2Proof.Config
end

