-- ==== Sys2Proof/Syntax.lean ====
section
/-! DEFINITION. The instructions and events of opcode_table.json, one constructor for each row. -/

namespace Sys2Proof

/-- The engine classes of batches: Kiln, Lantern, NMRED and remote writes (R173). -/
inductive EngineClass where
  | K | A | N | G
deriving DecidableEq, Repr

/-- Element types of the mode's ET field (R54). -/
inductive ElemType where
  | i32 | n32 | f32 | f16x2 | bf16x2 | i16x2 | n16x2 | i8x4 | n8x4
deriving DecidableEq, Repr

/-- Operations of VATOM (R71). -/
inductive AtomOp where
  | add | min | max | and | or | xor | xchg | cas
deriving DecidableEq, Repr

/-- Scopes, from inner to outer (R150). -/
inductive Scope where
  | wg | die | pkg | dom
deriving DecidableEq, Repr

/-- Frame spaces the host driver assigns to tenancies (R147). -/
inductive FrameKind where
  | hbm | t2
deriving DecidableEq, Repr

/-- What an access of the host die reaches (R239): compute HBM and T2 over CXL.mem, and its own memory. -/
inductive HostSpace where
  | hbm | t2 | host
deriving DecidableEq, Repr

/-- Control registers without behaviour of their own (R241, R243). -/
inductive ControlReg where
  | dtbase | tavoid | gidle | thresh (ten : Nat)
deriving DecidableEq, Repr

/-- A command queue of a tenancy as the host driver creates it (R240): its ring of 64-byte packets
lies at `base` of compute HBM or of host memory. -/
structure QueueSpec where
  id : Nat
  inHost : Bool
  base : Nat
  log : Nat
  priority : Nat
  service : Bool
deriving DecidableEq, Repr

/-- What the host driver gives a tenancy it creates (R240). -/
structure TenancySpec where
  id : Nat
  coreSet : List Nat
  asids : List Nat
  keys : List Nat
  queues : List QueueSpec
deriving DecidableEq, Repr

/-- A host-die access to compute HBM or T2 over CXL.mem (R239). -/
structure CxlAccess where
  write : Bool
  space : HostSpace
  addr : Nat
  len : Nat
  data : List Byte
deriving DecidableEq, Repr

/-- What another package asks of this home node (R161, R256). -/
inductive RemoteAct where
  | store (data : List Byte)
  | load (len : Nat)
  | atomic (op : AtomOp) (et : ElemType) (x y : Word)
  | reduce (op : AtomOp) (et : ElemType) (v : Word)
deriving DecidableEq, Repr

/-- A request of another package at this home node: a frame of compute HBM or of T2, and the key slot that travels with it
(R132, R146, R161). -/
structure RemoteRequest where
  ten : Nat
  key : Option Nat
  kind : FrameKind
  addr : Nat
  act : RemoteAct
deriving DecidableEq, Repr

/-- Who fetches a Lantern block of this node: a node of the domain, for one of its tenancies (R218, R225). -/
structure BlockAsker where
  node : Nat
  ten : Nat
deriving DecidableEq, Repr

/-- One constructor for each row of opcode_table.json: 238 instruction words and 78 events. The
fields of a word are kept as the manual's raw fields (R40), so that an illegal value can raise the
trap the manual gives it. -/
inductive Instr where
  /-- NOP (R325). -/
  | nop (d a b : BitVec 7)
  /-- VADD (R357). -/
  | vadd (d a b : BitVec 7)
  /-- VSUB (R357). -/
  | vsub (d a b : BitVec 7)
  /-- VMUL (R357). -/
  | vmul (d a b : BitVec 7)
  /-- VMIN (R357). -/
  | vmin (d a b : BitVec 7)
  /-- VMAX (R357). -/
  | vmax (d a b : BitVec 7)
  /-- VABSD (R357). -/
  | vabsd (d a b : BitVec 7)
  /-- VAND (R359). -/
  | vand (d a b : BitVec 7)
  /-- VOR (R359). -/
  | vor (d a b : BitVec 7)
  /-- VXOR (R359). -/
  | vxor (d a b : BitVec 7)
  /-- VANDN (R359). -/
  | vandn (d a b : BitVec 7)
  /-- VSHL (R377). -/
  | vshl (d a b : BitVec 7)
  /-- VSHR (R377). -/
  | vshr (d a b : BitVec 7)
  /-- VSRA (R377). -/
  | vsra (d a b : BitVec 7)
  /-- VCMP_EQ (R366). -/
  | vcmpEq (d a b : BitVec 7)
  /-- VCMP_NE (R366). -/
  | vcmpNe (d a b : BitVec 7)
  /-- VCMP_LT (R366). -/
  | vcmpLt (d a b : BitVec 7)
  /-- VCMP_LE (R366). -/
  | vcmpLe (d a b : BitVec 7)
  /-- VCMP_GT (R366). -/
  | vcmpGt (d a b : BitVec 7)
  /-- VCMP_GE (R366). -/
  | vcmpGe (d a b : BitVec 7)
  /-- VCMP_UN (R366). -/
  | vcmpUn (d a b : BitVec 7)
  /-- VCMP_ORD (R366). -/
  | vcmpOrd (d a b : BitVec 7)
  /-- VCVT (R367). -/
  | vcvt (d a b : BitVec 7)
  /-- VRCP (R373). -/
  | vrcp (d a b : BitVec 7)
  /-- VRSQ (R373). -/
  | vrsq (d a b : BitVec 7)
  /-- VSQRT (R373). -/
  | vsqrt (d a b : BitVec 7)
  /-- VEX2 (R373). -/
  | vex2 (d a b : BitVec 7)
  /-- VLG2 (R373). -/
  | vlg2 (d a b : BitVec 7)
  /-- VSIN (R373). -/
  | vsin (d a b : BitVec 7)
  /-- VCOS (R373). -/
  | vcos (d a b : BitVec 7)
  /-- VTNH (R373). -/
  | vtnh (d a b : BitVec 7)
  /-- VSHUP (R378). -/
  | vshup (d a b : BitVec 7)
  /-- VSHDN (R378). -/
  | vshdn (d a b : BitVec 7)
  /-- VSHXOR (R378). -/
  | vshxor (d a b : BitVec 7)
  /-- VSHIDX (R378). -/
  | vshidx (d a b : BitVec 7)
  /-- VLRED_ADD (R371). -/
  | vlredAdd (d a b : BitVec 7)
  /-- VLRED_MIN (R371). -/
  | vlredMin (d a b : BitVec 7)
  /-- VLRED_MAX (R371). -/
  | vlredMax (d a b : BitVec 7)
  /-- VLRED_AND (R371). -/
  | vlredAnd (d a b : BitVec 7)
  /-- VLRED_OR (R371). -/
  | vlredOr (d a b : BitVec 7)
  /-- VLRED_XOR (R371). -/
  | vlredXor (d a b : BitVec 7)
  /-- VSCAN_ADD (R376). -/
  | vscanAdd (d a b : BitVec 7)
  /-- VSCAN_MAX (R376). -/
  | vscanMax (d a b : BitVec 7)
  /-- VPOPC (R364). -/
  | vpopc (d a b : BitVec 7)
  /-- VCLZ (R364). -/
  | vclz (d a b : BitVec 7)
  /-- VBREV (R364). -/
  | vbrev (d a b : BitVec 7)
  /-- VPKLO (R372). -/
  | vpklo (d a b : BitVec 7)
  /-- VPKHI (R372). -/
  | vpkhi (d a b : BitVec 7)
  /-- VUNLO (R372). -/
  | vunlo (d a b : BitVec 7)
  /-- VUNHI (R372). -/
  | vunhi (d a b : BitVec 7)
  /-- VLD_B (R368). -/
  | vldB (d a b : BitVec 7)
  /-- VLD_H (R368). -/
  | vldH (d a b : BitVec 7)
  /-- VLD_W (R368). -/
  | vldW (d a b : BitVec 7)
  /-- VLD_D (R368). -/
  | vldD (d a b : BitVec 7)
  /-- VLD_Q (R368). -/
  | vldQ (d a b : BitVec 7)
  /-- VST_B (R379). -/
  | vstB (d a b : BitVec 7)
  /-- VST_H (R379). -/
  | vstH (d a b : BitVec 7)
  /-- VST_W (R379). -/
  | vstW (d a b : BitVec 7)
  /-- VST_D (R379). -/
  | vstD (d a b : BitVec 7)
  /-- VST_Q (R379). -/
  | vstQ (d a b : BitVec 7)
  /-- LDF_A (R179). -/
  | ldfA (d a b : BitVec 7)
  /-- LDF_B (R179). -/
  | ldfB (d a b : BitVec 7)
  /-- LDF_C (R179). -/
  | ldfC (d a b : BitVec 7)
  /-- STF_C (R348). -/
  | stfC (d a b : BitVec 7)
  /-- VLDA_WG (R369). -/
  | vldaWg (d a b : BitVec 7)
  /-- VLDA_DIE (R369). -/
  | vldaDie (d a b : BitVec 7)
  /-- VLDA_PKG (R369). -/
  | vldaPkg (d a b : BitVec 7)
  /-- VLDA_DOM (R369). -/
  | vldaDom (d a b : BitVec 7)
  /-- VSTR_WG (R380). -/
  | vstrWg (d a b : BitVec 7)
  /-- VSTR_DIE (R380). -/
  | vstrDie (d a b : BitVec 7)
  /-- VSTR_PKG (R380). -/
  | vstrPkg (d a b : BitVec 7)
  /-- VSTR_DOM (R380). -/
  | vstrDom (d a b : BitVec 7)
  /-- VATOM_WG_ADD (R362). -/
  | vatomWgAdd (d a b : BitVec 7)
  /-- VATOM_WG_MIN (R362). -/
  | vatomWgMin (d a b : BitVec 7)
  /-- VATOM_WG_MAX (R362). -/
  | vatomWgMax (d a b : BitVec 7)
  /-- VATOM_WG_AND (R362). -/
  | vatomWgAnd (d a b : BitVec 7)
  /-- VATOM_WG_OR (R362). -/
  | vatomWgOr (d a b : BitVec 7)
  /-- VATOM_WG_XOR (R362). -/
  | vatomWgXor (d a b : BitVec 7)
  /-- VATOM_WG_XCHG (R362). -/
  | vatomWgXchg (d a b : BitVec 7)
  /-- VATOM_WG_CAS (R362). -/
  | vatomWgCas (d a b : BitVec 7)
  /-- VATOM_DIE_ADD (R362). -/
  | vatomDieAdd (d a b : BitVec 7)
  /-- VATOM_DIE_MIN (R362). -/
  | vatomDieMin (d a b : BitVec 7)
  /-- VATOM_DIE_MAX (R362). -/
  | vatomDieMax (d a b : BitVec 7)
  /-- VATOM_DIE_AND (R362). -/
  | vatomDieAnd (d a b : BitVec 7)
  /-- VATOM_DIE_OR (R362). -/
  | vatomDieOr (d a b : BitVec 7)
  /-- VATOM_DIE_XOR (R362). -/
  | vatomDieXor (d a b : BitVec 7)
  /-- VATOM_DIE_XCHG (R362). -/
  | vatomDieXchg (d a b : BitVec 7)
  /-- VATOM_DIE_CAS (R362). -/
  | vatomDieCas (d a b : BitVec 7)
  /-- VATOM_PKG_ADD (R362). -/
  | vatomPkgAdd (d a b : BitVec 7)
  /-- VATOM_PKG_MIN (R362). -/
  | vatomPkgMin (d a b : BitVec 7)
  /-- VATOM_PKG_MAX (R362). -/
  | vatomPkgMax (d a b : BitVec 7)
  /-- VATOM_PKG_AND (R362). -/
  | vatomPkgAnd (d a b : BitVec 7)
  /-- VATOM_PKG_OR (R362). -/
  | vatomPkgOr (d a b : BitVec 7)
  /-- VATOM_PKG_XOR (R362). -/
  | vatomPkgXor (d a b : BitVec 7)
  /-- VATOM_PKG_XCHG (R362). -/
  | vatomPkgXchg (d a b : BitVec 7)
  /-- VATOM_PKG_CAS (R362). -/
  | vatomPkgCas (d a b : BitVec 7)
  /-- VATOM_DOM_ADD (R362). -/
  | vatomDomAdd (d a b : BitVec 7)
  /-- VATOM_DOM_MIN (R362). -/
  | vatomDomMin (d a b : BitVec 7)
  /-- VATOM_DOM_MAX (R362). -/
  | vatomDomMax (d a b : BitVec 7)
  /-- VATOM_DOM_AND (R362). -/
  | vatomDomAnd (d a b : BitVec 7)
  /-- VATOM_DOM_OR (R362). -/
  | vatomDomOr (d a b : BitVec 7)
  /-- VATOM_DOM_XOR (R362). -/
  | vatomDomXor (d a b : BitVec 7)
  /-- VATOM_DOM_XCHG (R362). -/
  | vatomDomXchg (d a b : BitVec 7)
  /-- VATOM_DOM_CAS (R362). -/
  | vatomDomCas (d a b : BitVec 7)
  /-- NMRED_ADD (R324). -/
  | nmredAdd (d a b : BitVec 7)
  /-- NMRED_MIN (R324). -/
  | nmredMin (d a b : BitVec 7)
  /-- NMRED_MAX (R324). -/
  | nmredMax (d a b : BitVec 7)
  /-- MMA (R318). -/
  | mma (d a b : BitVec 7)
  /-- MMAC (R318). -/
  | mmac (d a b : BitVec 7)
  /-- MMAZ (R318). -/
  | mmaz (d a b : BitVec 7)
  /-- HCVT (R294). -/
  | hcvt (d a b : BitVec 7)
  /-- HCVTB (R295). -/
  | hcvtb (d a b : BitVec 7)
  /-- HEXP (R298). -/
  | hexp (d a b : BitVec 7)
  /-- HADD (R293). -/
  | hadd (d a b : BitVec 7)
  /-- HSUB (R303). -/
  | hsub (d a b : BitVec 7)
  /-- HNEG (R299). -/
  | hneg (d a b : BitVec 7)
  /-- HSCL (R301). -/
  | hscl (d a b : BitVec 7)
  /-- HDOT (R296). -/
  | hdot (d a b : BitVec 7)
  /-- HDOTN (R297). -/
  | hdotn (d a b : BitVec 7)
  /-- HROT (R300). -/
  | hrot (d a b : BitVec 7)
  /-- SADD (R336). -/
  | sadd (d a b : BitVec 7)
  /-- SSUB (R336). -/
  | ssub (d a b : BitVec 7)
  /-- SMUL (R336). -/
  | smul (d a b : BitVec 7)
  /-- SAND (R336). -/
  | sand (d a b : BitVec 7)
  /-- SOR (R336). -/
  | sor (d a b : BitVec 7)
  /-- SXOR (R336). -/
  | sxor (d a b : BitVec 7)
  /-- SSHL (R336). -/
  | sshl (d a b : BitVec 7)
  /-- SSHR (R336). -/
  | sshr (d a b : BitVec 7)
  /-- SSRA (R336). -/
  | ssra (d a b : BitVec 7)
  /-- SMIN (R336). -/
  | smin (d a b : BitVec 7)
  /-- SMAX (R336). -/
  | smax (d a b : BitVec 7)
  /-- SCMP_EQ (R340). -/
  | scmpEq (d a b : BitVec 7)
  /-- SCMP_NE (R340). -/
  | scmpNe (d a b : BitVec 7)
  /-- SCMP_LT (R340). -/
  | scmpLt (d a b : BitVec 7)
  /-- SCMP_LE (R340). -/
  | scmpLe (d a b : BitVec 7)
  /-- SCMP_GT (R340). -/
  | scmpGt (d a b : BitVec 7)
  /-- SCMP_GE (R340). -/
  | scmpGe (d a b : BitVec 7)
  /-- SCMP_LTU (R340). -/
  | scmpLtu (d a b : BitVec 7)
  /-- SCMP_GEU (R340). -/
  | scmpGeu (d a b : BitVec 7)
  /-- VCALLI (R365). -/
  | vcalli (d a b : BitVec 7)
  /-- PAND (R326). -/
  | pand (d a b : BitVec 7)
  /-- POR (R326). -/
  | por (d a b : BitVec 7)
  /-- PXOR (R326). -/
  | pxor (d a b : BitVec 7)
  /-- PANDN (R326). -/
  | pandn (d a b : BitVec 7)
  /-- FMA (R288). -/
  | fma (d a b c : BitVec 7)
  /-- FMS (R289). -/
  | fms (d a b c : BitVec 7)
  /-- SEL (R341). -/
  | sel (d a b c : BitVec 7)
  /-- IMAD (R304). -/
  | imad (d a b c : BitVec 7)
  /-- SMOVI (R338). -/
  | smovi (s : BitVec 6) (imm : BitVec 16)
  /-- SMOVHI (R338). -/
  | smovhi (s : BitVec 6) (imm : BitVec 16)
  /-- SADDI (R338). -/
  | saddi (s : BitVec 6) (imm : BitVec 16)
  /-- SANDI (R338). -/
  | sandi (s : BitVec 6) (imm : BitVec 16)
  /-- MODE (R320). -/
  | mode (s : BitVec 6) (imm : BitVec 16)
  /-- BR (R267). -/
  | br (s : BitVec 6) (imm : BitVec 16)
  /-- BRZ (R272). -/
  | brz (s : BitVec 6) (imm : BitVec 16)
  /-- BRNZ (R272). -/
  | brnz (s : BitVec 6) (imm : BitVec 16)
  /-- BRANY (R269). -/
  | brany (s : BitVec 6) (imm : BitVec 16)
  /-- BRALL (R268). -/
  | brall (s : BitVec 6) (imm : BitVec 16)
  /-- BRDIV (R82). -/
  | brdiv (s : BitVec 6) (imm : BitVec 16)
  /-- CALL (R273). -/
  | call (s : BitVec 6) (imm : BitVec 16)
  /-- CALLI (R274). -/
  | calli (s : BitVec 6) (imm : BitVec 16)
  /-- RET (R333). -/
  | ret (s : BitVec 6) (imm : BitVec 16)
  /-- RJOIN (R335). -/
  | rjoin (s : BitVec 6) (imm : BitVec 16)
  /-- EXIT (R282). -/
  | exit (s : BitVec 6) (imm : BitVec 16)
  /-- EXITL (R284). -/
  | exitl (s : BitVec 6) (imm : BitVec 16)
  /-- SBAL (R339). -/
  | sbal (s : BitVec 6) (imm : BitVec 16)
  /-- PSET (R328). -/
  | pset (s : BitVec 6) (imm : BitVec 16)
  /-- PCNT (R327). -/
  | pcnt (s : BitVec 6) (imm : BitVec 16)
  /-- SLD (R343). -/
  | sld (s : BitVec 6) (imm : BitVec 16)
  /-- SST (R343). -/
  | sst (s : BitVec 6) (imm : BitVec 16)
  /-- SLDD (R343). -/
  | sldd (s : BitVec 6) (imm : BitVec 16)
  /-- VRGET (R375). -/
  | vrget (s : BitVec 6) (imm : BitVec 16)
  /-- VRSET (R375). -/
  | vrset (s : BitVec 6) (imm : BitVec 16)
  /-- BREW (R92). -/
  | brew (s : BitVec 6) (imm : BitVec 16)
  /-- XREL (R384). -/
  | xrel (s : BitVec 6) (imm : BitVec 16)
  /-- CLAIM (R32). -/
  | claim (s : BitVec 6) (imm : BitVec 16)
  /-- SURR (R349). -/
  | surr (s : BitVec 6) (imm : BitVec 16)
  /-- BARA (R261). -/
  | bara (s : BitVec 6) (imm : BitVec 16)
  /-- BARW (R261). -/
  | barw (s : BitVec 6) (imm : BitVec 16)
  /-- BARAW (R261). -/
  | baraw (s : BitVec 6) (imm : BitVec 16)
  /-- BARQ (R263). -/
  | barq (s : BitVec 6) (imm : BitVec 16)
  /-- BARWG (R264). -/
  | barwg (s : BitVec 6) (imm : BitVec 16)
  /-- FENCE_WG_ACQ (R286). -/
  | fenceWgAcq (s : BitVec 6) (imm : BitVec 16)
  /-- FENCE_WG_REL (R286). -/
  | fenceWgRel (s : BitVec 6) (imm : BitVec 16)
  /-- FENCE_WG_FULL (R286). -/
  | fenceWgFull (s : BitVec 6) (imm : BitVec 16)
  /-- FENCE_DIE_ACQ (R286). -/
  | fenceDieAcq (s : BitVec 6) (imm : BitVec 16)
  /-- FENCE_DIE_REL (R286). -/
  | fenceDieRel (s : BitVec 6) (imm : BitVec 16)
  /-- FENCE_DIE_FULL (R286). -/
  | fenceDieFull (s : BitVec 6) (imm : BitVec 16)
  /-- FENCE_PKG_ACQ (R286). -/
  | fencePkgAcq (s : BitVec 6) (imm : BitVec 16)
  /-- FENCE_PKG_REL (R286). -/
  | fencePkgRel (s : BitVec 6) (imm : BitVec 16)
  /-- FENCE_PKG_FULL (R286). -/
  | fencePkgFull (s : BitVec 6) (imm : BitVec 16)
  /-- FENCE_DOM_ACQ (R286). -/
  | fenceDomAcq (s : BitVec 6) (imm : BitVec 16)
  /-- FENCE_DOM_REL (R286). -/
  | fenceDomRel (s : BitVec 6) (imm : BitVec 16)
  /-- FENCE_DOM_FULL (R286). -/
  | fenceDomFull (s : BitVec 6) (imm : BitVec 16)
  /-- NMFENCE_WG (R323). -/
  | nmfenceWg (s : BitVec 6) (imm : BitVec 16)
  /-- NMFENCE_DIE (R323). -/
  | nmfenceDie (s : BitVec 6) (imm : BitVec 16)
  /-- NMFENCE_PKG (R323). -/
  | nmfencePkg (s : BitVec 6) (imm : BitVec 16)
  /-- NMFENCE_DOM (R323). -/
  | nmfenceDom (s : BitVec 6) (imm : BitVec 16)
  /-- TFENCE_WG (R354). -/
  | tfenceWg (s : BitVec 6) (imm : BitVec 16)
  /-- TFENCE_DIE (R354). -/
  | tfenceDie (s : BitVec 6) (imm : BitVec 16)
  /-- TFENCE_PKG (R354). -/
  | tfencePkg (s : BitVec 6) (imm : BitVec 16)
  /-- TFENCE_DOM (R354). -/
  | tfenceDom (s : BitVec 6) (imm : BitVec 16)
  /-- BATCH_K (R265). -/
  | batchK (s : BitVec 6) (imm : BitVec 16)
  /-- BATCH_A (R265). -/
  | batchA (s : BitVec 6) (imm : BitVec 16)
  /-- BATCH_N (R265). -/
  | batchN (s : BitVec 6) (imm : BitVec 16)
  /-- BATCH_G (R265). -/
  | batchG (s : BitVec 6) (imm : BitVec 16)
  /-- WAITB_K (R381). -/
  | waitbK (s : BitVec 6) (imm : BitVec 16)
  /-- WAITB_A (R381). -/
  | waitbA (s : BitVec 6) (imm : BitVec 16)
  /-- WAITB_N (R381). -/
  | waitbN (s : BitVec 6) (imm : BitVec 16)
  /-- WAITB_G (R381). -/
  | waitbG (s : BitVec 6) (imm : BitVec 16)
  /-- KLD (R305). -/
  | kld (s : BitVec 6) (imm : BitVec 16)
  /-- KST (R309). -/
  | kst (s : BitVec 6) (imm : BitVec 16)
  /-- KLUT (R308). -/
  | klut (s : BitVec 6) (imm : BitVec 16)
  /-- LQRY (R315). -/
  | lqry (s : BitVec 6) (imm : BitVec 16)
  /-- LAPP (R310). -/
  | lapp (s : BitVec 6) (imm : BitVec 16)
  /-- LCTL (R311). -/
  | lctl (s : BitVec 6) (imm : BitVec 16)
  /-- LPF (R314). -/
  | lpf (s : BitVec 6) (imm : BitVec 16)
  /-- QPUSH (R331). -/
  | qpush (s : BitVec 6) (imm : BitVec 16)
  /-- QPOP (R330). -/
  | qpop (s : BitVec 6) (imm : BitVec 16)
  /-- QTRY (R332). -/
  | qtry (s : BitVec 6) (imm : BitVec 16)
  /-- DCSET (R280). -/
  | dcset (s : BitVec 6) (imm : BitVec 16)
  /-- DCDEC (R278). -/
  | dcdec (s : BitVec 6) (imm : BitVec 16)
  /-- DCATT (R277). -/
  | dcatt (s : BitVec 6) (imm : BitVec 16)
  /-- MARK (R317). -/
  | mark (s : BitVec 6) (imm : BitVec 16)
  /-- CUT (R205). -/
  | cut (s : BitVec 6) (imm : BitVec 16)
  /-- GRAFT (R290). -/
  | graft (s : BitVec 6) (imm : BitVec 16)
  /-- UNMARK (R356). -/
  | unmark (s : BitVec 6) (imm : BitVec 16)
  /-- ENTER (R281). -/
  | enter (s : BitVec 6) (imm : BitVec 16)
  /-- SVC (R350). -/
  | svc (s : BitVec 6) (imm : BitVec 16)
  /-- BKPT (R266). -/
  | bkpt (s : BitVec 6) (imm : BitVec 16)
  /-- SRD (R345). -/
  | srd (s : BitVec 6) (imm : BitVec 16)
  /-- SWR (R351). -/
  | swr (s : BitVec 6) (imm : BitVec 16)
  /-- WAKEW_SIGNAL (R382). -/
  | wakewSignal (s : BitVec 6) (imm : BitVec 16)
  /-- WAKEW_WAIT (R382). -/
  | wakewWait (s : BitVec 6)
  /-- YIELD (R385). -/
  | yield (s : BitVec 6) (imm : BitVec 16)
  /-- TRET (R355). -/
  | tret (s : BitVec 6) (imm : BitVec 16)
  /-- SHLN (R342). -/
  | shln (s : BitVec 6) (imm : BitVec 16)
  /-- HSETN (R302). -/
  | hsetn (s : BitVec 6) (imm : BitVec 16)
  /-- UNASSIGNED_OPCODE (R78). -/
  | unassignedOpcode (w : Word)
  /-- UNDEFINED_CLASS_H (R75). -/
  | undefinedClassH (w : Word)
  /-- CLAUSE_START (R46). -/
  | clauseStart
  /-- SHORT_LATENCY_WRITEBACK (R51). -/
  | shortLatencyWriteback (slot seq : Nat)
  /-- MEMORY_ACCESS_COMPLETE (R138). -/
  | memoryAccessComplete (slot op : Nat)
  /-- SFU_COMPLETE (R373). -/
  | sfuComplete (slot op : Nat)
  /-- MMA_RESULT (R185). -/
  | mmaResult (slot op : Nat)
  /-- CHECKSUM_COMPARE (R186). -/
  | checksumCompare (slot op : Nat) (mismatch : Bool)
  /-- CHECKSUM_RERUN_RESULT (R186). -/
  | checksumRerunResult (slot op : Nat) (mismatch : Bool)
  /-- HEADING_COMMIT (R196). -/
  | headingCommit (slot seq : Nat)
  /-- CLAIM_GRANT (R32). -/
  | claimGrant (quad : Nat)
  /-- SURR_RETURN (R349). -/
  | surrReturn (slot : Nat)
  /-- WARP_RETIRE (R282). -/
  | warpRetire (slot : Nat)
  /-- DEFERRED_TRAP (R229). -/
  | deferredTrap (slot : Nat)
  /-- BKPT_DELIVERY (R266). -/
  | bkptDelivery (slot : Nat)
  /-- WORKGROUP_PLACEMENT (R21). -/
  | workgroupPlacement (wg : Nat)
  /-- TEMPERATURE_READING (R23). -/
  | temperatureReading (core quarters : Nat)
  /-- DROOP_EVENT (R23). -/
  | droopEvent (core : Nat)
  /-- STARVATION_PRIORITY (R27). -/
  | starvationPriority (slot split : Nat)
  /-- ITERATION_SPAWN (R93). -/
  | iterationSpawn (core : Nat)
  /-- COUNTER_RELEASE_DEFERRED (R216). -/
  | counterReleaseDeferred (core : Nat)
  /-- CASK_REFILL (R213). -/
  | caskRefill (cask : Nat)
  /-- KILN_EXPAND (R168). -/
  | kilnExpand (core : Nat)
  /-- KILN_PACK (R170). -/
  | kilnPack (core : Nat)
  /-- LATTICE_LOAD (R171). -/
  | latticeLoad (core : Nat)
  /-- BATCH_COMPLETE (R173). -/
  | batchComplete (slot : Nat) (cls : EngineClass)
  /-- COMBINER_APPLY (R160). -/
  | combinerApply (red : Nat)
  /-- LANTERN_APPEND (R223). -/
  | lanternAppend (die cmd : Nat)
  /-- LANTERN_QUERY (R222). -/
  | lanternQuery (die cmd : Nat)
  /-- STAGING_FILL (R226). -/
  | stagingFill (die : Nat)
  /-- LCTL_CREATE (R224). -/
  | lctlCreate (die cmd : Nat)
  /-- LCTL_FREE (R224). -/
  | lctlFree (die cmd : Nat)
  /-- LCTL_TRUNC (R224). -/
  | lctlTrunc (die cmd : Nat)
  /-- LCTL_MAP1 (R311). -/
  | lctlMap1 (die cmd : Nat)
  /-- LCTL_UNMAP1 (R311). -/
  | lctlUnmap1 (die cmd : Nat)
  /-- LCTL_MAP2 (R224). -/
  | lctlMap2 (die cmd : Nat)
  /-- LCTL_POOL (R225). -/
  | lctlPool (die cmd : Nat)
  /-- LCTL_SETTIER (R224). -/
  | lctlSettier (die cmd : Nat)
  /-- LCTL_PFMODE (R224). -/
  | lctlPfmode (die cmd : Nat)
  /-- LANTERN_PREFETCH_HINT (R226). -/
  | lanternPrefetchHint (die cmd : Nat)
  /-- REMOTE_WRITE_ACK (R161). -/
  | remoteWriteAck (slot op : Nat)
  /-- REMOTE_WRITE_TIMEOUT (R161). -/
  | remoteWriteTimeout (slot op : Nat)
  /-- GATE_COMMIT (R258). -/
  | gateCommit (core : Nat)
  /-- WAKE_MESSAGE (R258). -/
  | wakeMessage (core : Nat)
  /-- CORE_UNGATE (R258). -/
  | coreUngate (core : Nat)
  /-- DBELL (R241). -/
  | dbell (ten queue : Nat) (v : DWord)
  /-- REPLAY (R141). -/
  | replay (ten : Nat) (v : Word)
  /-- FRCONS (R247). -/
  | frcons (ten : Nat) (v : Word)
  /-- TRCONS (R247). -/
  | trcons (ten : Nat) (v : Word)
  /-- NRCONS (R247). -/
  | nrcons (ten : Nat) (v : Word)
  /-- CONTROL_REGISTER_WRITE (R243). -/
  | controlRegisterWrite (reg : ControlReg) (v : DWord)
  /-- LAUNCH (R244). -/
  | launch (ten queue : Nat)
  /-- LOAD (R251). -/
  | load (ten queue : Nat)
  /-- UNLOAD (R255). -/
  | unload (ten queue : Nat)
  /-- PREEMPT (R234). -/
  | preempt (ten queue : Nat)
  /-- CONTEXT_SAVE (R235). -/
  | contextSave (wg : Nat)
  /-- RESUME (R236). -/
  | resume (ten queue : Nat)
  /-- SIGNAL (R244). -/
  | signal (ten queue : Nat)
  /-- BARRIER (R249). -/
  | barrier (ten queue : Nat)
  /-- TRAPRES (R245). -/
  | trapres (ten queue : Nat)
  /-- KILL (R245). -/
  | kill (ten queue : Nat)
  /-- CASK (R212). -/
  | cask (ten queue : Nat)
  /-- MIGRATE (R144). -/
  | migrate (ten queue : Nat)
  /-- MIGRATION_COPY (R144). -/
  | migrationCopy (mig : Nat)
  /-- INVAL (R245). -/
  | inval (ten queue : Nat)
  /-- TENCFG (R246). -/
  | tencfg (ten queue : Nat)
  /-- TENANCY_CREATE (R240). -/
  | tenancyCreate (cfg : TenancySpec)
  /-- TENANCY_RESET (R250). -/
  | tenancyReset (ten : Nat)
  /-- FRAME_ASSIGN (R147). -/
  | frameAssign (kind : FrameKind) (frame ten : Nat)
  /-- CORE_SET_JOIN (R147). -/
  | coreSetJoin (core ten : Nat)
  /-- KEY_SLOT_LOAD (R146). -/
  | keySlotLoad (slot ten gen : Nat)
  /-- HOST_CXL_MEM_ACCESS (R239). -/
  | hostCxlMemAccess (acc : CxlAccess)
  /-- PACKAGE_RESET (R257). -/
  | packageReset
  /-- LEVEL_ADVANCE (R257). -/
  | levelAdvance
  /-- UNCORRECTABLE_SOFT_ERROR (R229). -/
  | uncorrectableSoftError (loc len : Nat)
  /-- DROOP_EVENT_EXPIRY (R23). -/
  | droopEventExpiry (core : Nat)
  /-- HOME_NODE_REMOTE_REQUEST (R161). -/
  | homeNodeRemoteRequest (req : RemoteRequest)
  /-- REMOTE_BLOCK_FETCH (R218). -/
  | remoteBlockFetch (who : BlockAsker) (die global : Nat)
deriving DecidableEq, Repr

end Sys2Proof
end

