-- ==== Sys2Proof/Machine/Fields.lean ====
section
/-! DEFINITION. Operand codes, field kinds and the legality of an instruction's fields (R40 to R44, R76, R79). -/

namespace Sys2Proof.Machine

/-- What a 7-bit vector operand code names (R42). -/
inductive VOperand where
  | v (n : Nat) | x (j : Nat) | keg (k : Nat) | zr | ln | it | ww | lit | reserved
deriving DecidableEq, Repr

/-- The operand a 7-bit code names (R42). -/
def vOperand (c : BitVec 7) : VOperand :=
  let n := c.toNat
  if n < 80 then .v n
  else if n < 112 then .x (n - 80)
  else if n < 120 then .keg (n - 112)
  else if n = 120 then .zr
  else if n = 121 then .ln
  else if n = 122 then .it
  else if n = 123 then .ww
  else if n = 127 then .lit
  else .reserved

/-- A legal source code: all but 124 to 126 (R42). -/
def vsrc (c : BitVec 7) : Bool := decide (c.toNat < 124) || decide (c.toNat = 127)

/-- A legal destination code: V, X, K or ZR (R42). -/
def vdst (c : BitVec 7) : Bool := decide (c.toNat ≤ 120)

/-- A legal destination of a long-latency word: a keg is illegal (R37). -/
def vdstLong (c : BitVec 7) : Bool :=
  decide (c.toNat < 112) || decide (c.toNat = 120)

/-- `n` static registers from code `c` on, all within V0 to V79 (R179, R362, R368). -/
def staticRun (c : BitVec 7) (n : Nat) : Bool := decide (c.toNat + n ≤ 80)

/-- A predicate code P0 to P7 (R44). -/
def predCode (c : BitVec 7) : Bool := decide (c.toNat < 8)

/-- A scalar code S0 to S63 (R44). -/
def scalCode (c : BitVec 7) : Bool := decide (c.toNat < 64)

/-- An even scalar code 0 to 62, naming a base pair (R44). -/
def pairCode (c : BitVec 7) : Bool := decide (c.toNat < 64) && decide (c.toNat % 2 = 0)

/-- A heading code H0 to H15 (R44). -/
def headCode (c : BitVec 7) : Bool := decide (c.toNat < 16)

/-- A field that must hold 0 (R193, R87). -/
def zeroCode (c : BitVec 7) : Bool := decide (c.toNat = 0)

/-- Category — of field s: 0 (R76). -/
def catZero (s : BitVec 6) : Bool := decide (s.toNat = 0)

/-- Category S+1: 0 to 62 (R76). -/
def catNext (s : BitVec 6) : Bool := decide (s.toNat ≤ 62)

/-- Category E: even, 0 to 62 (R76). -/
def catEven (s : BitVec 6) : Bool := decide (s.toNat % 2 = 0)

/-- Category E+2: even, 0 to 60 (R76). -/
def catEven2 (s : BitVec 6) : Bool := decide (s.toNat % 2 = 0) && decide (s.toNat ≤ 60)

/-- Category P: 0 to 7 (R76). -/
def catPred (s : BitVec 6) : Bool := decide (s.toNat < 8)

/-- imm16 must be 0. -/
def immZero (imm : Half) : Bool := decide (imm.toNat = 0)

/-- Bits [15:n] of imm16 must be 0. -/
def immBelow (imm : Half) (n : Nat) : Bool := decide (imm.toNat < 2 ^ n)

/-- The GUARD, ET, RM and low bits of a mode word are legal (R54, R320). -/
def modeLegal (m : Half) : Bool :=
  let g := (m.extractLsb' 11 5).toNat
  (decide (g = 0) || decide (8 ≤ g)) && decide ((m.extractLsb' 7 4).toNat < 9)
    && decide ((m.extractLsb' 4 3).toNat < 5) && decide ((m.extractLsb' 0 2).toNat = 0)

/-- PSET's imm16 (R328): a constant, or an even scalar pair. -/
def psetLegal (imm : Half) : Bool :=
  let form := imm.getLsbD 7
  let sreg := (imm.extractLsb' 0 6).toNat
  decide ((imm.extractLsb' 8 8).toNat = 0)
    && (if form then !imm.getLsbD 6 && decide (sreg % 2 = 0) else decide (sreg = 0))

/-- The base pair of a scalar memory word is even (R58). -/
def baseLegal (imm : Half) : Bool := decide ((imm.extractLsb' 10 6).toNat % 2 = 0)

/-- The direct register of VRGET and VRSET is a static code (R374). -/
def vregLegal (imm : Half) : Bool := decide ((imm.extractLsb' 9 7).toNat < 80)

/-- The block count of CLAIM and SURR is 1 to 10 (R32). -/
def blocksLegal (imm : Half) : Bool := decide (1 ≤ imm.toNat) && decide (imm.toNat ≤ 10)

/-- ENTER's size is a multiple of 8 (R201). -/
def enterLegal (imm : Half) : Bool := decide (imm.toNat % 8 = 0)

/-- The status registers of R346. -/
inductive StatusReg where
  | width | clk | cap | stkhi | warpid | tenid | modereg | smasklo | smaskhi
  | keg (n : Nat) | mxchk | tvblo | tvbhi | svsp
deriving DecidableEq, Repr

/-- The status register a number names, if any (R346). -/
def statusReg (imm : Half) : Option StatusReg :=
  let n := imm.toNat
  if n = 0x0001 then some .width
  else if n = 0x0002 then some .clk
  else if n = 0x0003 then some .cap
  else if n = 0x0004 then some .stkhi
  else if n = 0x0005 then some .warpid
  else if n = 0x0006 then some .tenid
  else if n = 0x0007 then some .modereg
  else if n = 0x0008 then some .smasklo
  else if n = 0x0009 then some .smaskhi
  else if 0x0010 ≤ n ∧ n ≤ 0x0017 then some (.keg (n - 0x0010))
  else if n = 0x0020 then some .mxchk
  else if n = 0x0030 then some .tvblo
  else if n = 0x0031 then some .tvbhi
  else if n = 0x0032 then some .svsp
  else none

/-- imm16 names a status register (R345, R351). -/
def statusLegal (imm : Half) : Bool := (statusReg imm).isSome

/-- SRD names a status register, and CLK takes an even register (R345, R39). -/
def srdLegal (s : BitVec 6) (imm : Half) : Bool :=
  statusLegal imm && (decide (imm.toNat ≠ 2) || decide (s.toNat % 2 = 0))

/-- Every field of the word has a legal value (R44, R76, R79). Events and undefined words have no field to check. -/
def legal : Instr → Bool
  | .nop _ _ _ => true
  | .vadd d a b => vdst d && vsrc a && vsrc b
  | .vsub d a b => vdst d && vsrc a && vsrc b
  | .vmul d a b => vdst d && vsrc a && vsrc b
  | .vmin d a b => vdst d && vsrc a && vsrc b
  | .vmax d a b => vdst d && vsrc a && vsrc b
  | .vabsd d a b => vdst d && vsrc a && vsrc b
  | .vand d a b => vdst d && vsrc a && vsrc b
  | .vor d a b => vdst d && vsrc a && vsrc b
  | .vxor d a b => vdst d && vsrc a && vsrc b
  | .vandn d a b => vdst d && vsrc a && vsrc b
  | .vshl d a b => vdst d && vsrc a && vsrc b
  | .vshr d a b => vdst d && vsrc a && vsrc b
  | .vsra d a b => vdst d && vsrc a && vsrc b
  | .vcmpEq d a b => predCode d && vsrc a && vsrc b
  | .vcmpNe d a b => predCode d && vsrc a && vsrc b
  | .vcmpLt d a b => predCode d && vsrc a && vsrc b
  | .vcmpLe d a b => predCode d && vsrc a && vsrc b
  | .vcmpGt d a b => predCode d && vsrc a && vsrc b
  | .vcmpGe d a b => predCode d && vsrc a && vsrc b
  | .vcmpUn d a b => predCode d && vsrc a && vsrc b
  | .vcmpOrd d a b => predCode d && vsrc a && vsrc b
  | .vcvt d a b => vdst d && vsrc a && decide (b.toNat < 9)
  | .vrcp d a b => vdstLong d && vsrc a && vsrc b
  | .vrsq d a b => vdstLong d && vsrc a && vsrc b
  | .vsqrt d a b => vdstLong d && vsrc a && vsrc b
  | .vex2 d a b => vdstLong d && vsrc a && vsrc b
  | .vlg2 d a b => vdstLong d && vsrc a && vsrc b
  | .vsin d a b => vdstLong d && vsrc a && vsrc b
  | .vcos d a b => vdstLong d && vsrc a && vsrc b
  | .vtnh d a b => vdstLong d && vsrc a && vsrc b
  | .vshup d a b => vdst d && vsrc a && decide (b.toNat < 7)
  | .vshdn d a b => vdst d && vsrc a && decide (b.toNat < 7)
  | .vshxor d a b => vdst d && vsrc a && decide (b.toNat < 7)
  | .vshidx d a b => vdst d && vsrc a && vsrc b
  | .vlredAdd d a b => vdst d && vsrc a && vsrc b
  | .vlredMin d a b => vdst d && vsrc a && vsrc b
  | .vlredMax d a b => vdst d && vsrc a && vsrc b
  | .vlredAnd d a b => vdst d && vsrc a && vsrc b
  | .vlredOr d a b => vdst d && vsrc a && vsrc b
  | .vlredXor d a b => vdst d && vsrc a && vsrc b
  | .vscanAdd d a b => vdst d && vsrc a && vsrc b
  | .vscanMax d a b => vdst d && vsrc a && vsrc b
  | .vpopc d a b => vdst d && vsrc a && vsrc b
  | .vclz d a b => vdst d && vsrc a && vsrc b
  | .vbrev d a b => vdst d && vsrc a && vsrc b
  | .vpklo d a b => vdst d && vsrc a && vsrc b
  | .vpkhi d a b => vdst d && vsrc a && vsrc b
  | .vunlo d a b => vdst d && vsrc a && vsrc b
  | .vunhi d a b => vdst d && vsrc a && vsrc b
  | .vldB d a b => vdstLong d && vsrc a && pairCode b
  | .vldH d a b => vdstLong d && vsrc a && pairCode b
  | .vldW d a b => vdstLong d && vsrc a && pairCode b
  | .vldD d a b => staticRun d 2 && vsrc a && pairCode b
  | .vldQ d a b => staticRun d 4 && vsrc a && pairCode b
  | .vstB d a b => vsrc d && vsrc a && pairCode b
  | .vstH d a b => vsrc d && vsrc a && pairCode b
  | .vstW d a b => vsrc d && vsrc a && pairCode b
  | .vstD d a b => staticRun d 2 && vsrc a && pairCode b
  | .vstQ d a b => staticRun d 4 && vsrc a && pairCode b
  | .ldfA d a b => staticRun d 4 && vsrc a && pairCode b
  | .ldfB d a b => staticRun d 1 && vsrc a && pairCode b
  | .ldfC d a b => staticRun d 4 && vsrc a && pairCode b
  | .stfC d a b => staticRun d 4 && vsrc a && pairCode b
  | .vldaWg d a b => vdstLong d && vsrc a && pairCode b
  | .vldaDie d a b => vdstLong d && vsrc a && pairCode b
  | .vldaPkg d a b => vdstLong d && vsrc a && pairCode b
  | .vldaDom d a b => vdstLong d && vsrc a && pairCode b
  | .vstrWg d a b => vsrc d && vsrc a && pairCode b
  | .vstrDie d a b => vsrc d && vsrc a && pairCode b
  | .vstrPkg d a b => vsrc d && vsrc a && pairCode b
  | .vstrDom d a b => vsrc d && vsrc a && pairCode b
  | .vatomWgAdd d a b => staticRun d 1 && vsrc a && pairCode b
  | .vatomWgMin d a b => staticRun d 1 && vsrc a && pairCode b
  | .vatomWgMax d a b => staticRun d 1 && vsrc a && pairCode b
  | .vatomWgAnd d a b => staticRun d 1 && vsrc a && pairCode b
  | .vatomWgOr d a b => staticRun d 1 && vsrc a && pairCode b
  | .vatomWgXor d a b => staticRun d 1 && vsrc a && pairCode b
  | .vatomWgXchg d a b => staticRun d 1 && vsrc a && pairCode b
  | .vatomWgCas d a b => staticRun d 2 && vsrc a && pairCode b
  | .vatomDieAdd d a b => staticRun d 1 && vsrc a && pairCode b
  | .vatomDieMin d a b => staticRun d 1 && vsrc a && pairCode b
  | .vatomDieMax d a b => staticRun d 1 && vsrc a && pairCode b
  | .vatomDieAnd d a b => staticRun d 1 && vsrc a && pairCode b
  | .vatomDieOr d a b => staticRun d 1 && vsrc a && pairCode b
  | .vatomDieXor d a b => staticRun d 1 && vsrc a && pairCode b
  | .vatomDieXchg d a b => staticRun d 1 && vsrc a && pairCode b
  | .vatomDieCas d a b => staticRun d 2 && vsrc a && pairCode b
  | .vatomPkgAdd d a b => staticRun d 1 && vsrc a && pairCode b
  | .vatomPkgMin d a b => staticRun d 1 && vsrc a && pairCode b
  | .vatomPkgMax d a b => staticRun d 1 && vsrc a && pairCode b
  | .vatomPkgAnd d a b => staticRun d 1 && vsrc a && pairCode b
  | .vatomPkgOr d a b => staticRun d 1 && vsrc a && pairCode b
  | .vatomPkgXor d a b => staticRun d 1 && vsrc a && pairCode b
  | .vatomPkgXchg d a b => staticRun d 1 && vsrc a && pairCode b
  | .vatomPkgCas d a b => staticRun d 2 && vsrc a && pairCode b
  | .vatomDomAdd d a b => staticRun d 1 && vsrc a && pairCode b
  | .vatomDomMin d a b => staticRun d 1 && vsrc a && pairCode b
  | .vatomDomMax d a b => staticRun d 1 && vsrc a && pairCode b
  | .vatomDomAnd d a b => staticRun d 1 && vsrc a && pairCode b
  | .vatomDomOr d a b => staticRun d 1 && vsrc a && pairCode b
  | .vatomDomXor d a b => staticRun d 1 && vsrc a && pairCode b
  | .vatomDomXchg d a b => staticRun d 1 && vsrc a && pairCode b
  | .vatomDomCas d a b => staticRun d 2 && vsrc a && pairCode b
  | .nmredAdd d a b => vsrc d && vsrc a && pairCode b
  | .nmredMin d a b => vsrc d && vsrc a && pairCode b
  | .nmredMax d a b => vsrc d && vsrc a && pairCode b
  | .mma d a b => staticRun d 4 && staticRun a 4 && staticRun b 1
  | .mmac d a b => staticRun d 4 && staticRun a 4 && staticRun b 1
  | .mmaz d a b => staticRun d 4 && staticRun a 4 && staticRun b 1
  | .hcvt d a b => headCode d && vsrc a && vsrc b
  | .hcvtb d a b => headCode d && vsrc a && zeroCode b
  | .hexp d a b => staticRun d 2 && headCode a && zeroCode b
  | .hadd d a b => headCode d && headCode a && headCode b
  | .hsub d a b => headCode d && headCode a && headCode b
  | .hneg d a b => headCode d && headCode a && zeroCode b
  | .hscl d a b => headCode d && headCode a && scalCode b
  | .hdot d a b => vdst d && headCode a && headCode b
  | .hdotn d a b => vdst d && headCode a && headCode b
  | .hrot d a b => headCode d && headCode a && vsrc b
  | .sadd d a b => scalCode d && scalCode a && scalCode b
  | .ssub d a b => scalCode d && scalCode a && scalCode b
  | .smul d a b => scalCode d && scalCode a && scalCode b
  | .sand d a b => scalCode d && scalCode a && scalCode b
  | .sor d a b => scalCode d && scalCode a && scalCode b
  | .sxor d a b => scalCode d && scalCode a && scalCode b
  | .sshl d a b => scalCode d && scalCode a && scalCode b
  | .sshr d a b => scalCode d && scalCode a && scalCode b
  | .ssra d a b => scalCode d && scalCode a && scalCode b
  | .smin d a b => scalCode d && scalCode a && scalCode b
  | .smax d a b => scalCode d && scalCode a && scalCode b
  | .scmpEq d a b => predCode d && scalCode a && scalCode b
  | .scmpNe d a b => predCode d && scalCode a && scalCode b
  | .scmpLt d a b => predCode d && scalCode a && scalCode b
  | .scmpLe d a b => predCode d && scalCode a && scalCode b
  | .scmpGt d a b => predCode d && scalCode a && scalCode b
  | .scmpGe d a b => predCode d && scalCode a && scalCode b
  | .scmpLtu d a b => predCode d && scalCode a && scalCode b
  | .scmpGeu d a b => predCode d && scalCode a && scalCode b
  | .vcalli d a b => zeroCode d && vsrc a && pairCode b
  | .pand d a b => predCode d && predCode a && predCode b
  | .por d a b => predCode d && predCode a && predCode b
  | .pxor d a b => predCode d && predCode a && predCode b
  | .pandn d a b => predCode d && predCode a && predCode b
  | .fma d a b c => vdst d && vsrc a && vsrc b && vsrc c
  | .fms d a b c => vdst d && vsrc a && vsrc b && vsrc c
  | .sel d a b c => vdst d && vsrc a && vsrc b && predCode c
  | .imad d a b c => vdst d && vsrc a && vsrc b && vsrc c
  | .smovi _ _ => true
  | .smovhi _ _ => true
  | .saddi _ _ => true
  | .sandi _ _ => true
  | .mode s imm => catZero s && modeLegal imm
  | .br s _ => catZero s
  | .brz _ _ => true
  | .brnz _ _ => true
  | .brany s _ => catPred s
  | .brall s _ => catPred s
  | .brdiv s _ => catPred s
  | .call s _ => catZero s
  | .calli s _ => catEven s
  | .ret s _ => catZero s
  | .rjoin s _ => catZero s
  | .exit s _ => catZero s
  | .exitl s _ => catZero s
  | .sbal _ imm => immBelow imm 4
  | .pset s imm => catPred s && psetLegal imm
  | .pcnt _ imm => immBelow imm 4
  | .sld _ imm => baseLegal imm
  | .sst _ imm => baseLegal imm
  | .sldd s imm => catEven s && baseLegal imm
  | .vrget _ imm => vregLegal imm
  | .vrset _ imm => vregLegal imm
  | .brew _ _ => true
  | .xrel s _ => catZero s
  | .claim s imm => catZero s && blocksLegal imm
  | .surr s imm => catZero s && blocksLegal imm
  | .bara s imm => catZero s && immBelow imm 11
  | .barw s imm => catZero s && immBelow imm 4
  | .baraw s imm => catZero s && immBelow imm 11
  | .barq s _ => catZero s
  | .barwg s _ => catZero s
  | .fenceWgAcq s _ => catZero s
  | .fenceWgRel s _ => catZero s
  | .fenceWgFull s _ => catZero s
  | .fenceDieAcq s _ => catZero s
  | .fenceDieRel s _ => catZero s
  | .fenceDieFull s _ => catZero s
  | .fencePkgAcq s _ => catZero s
  | .fencePkgRel s _ => catZero s
  | .fencePkgFull s _ => catZero s
  | .fenceDomAcq s _ => catZero s
  | .fenceDomRel s _ => catZero s
  | .fenceDomFull s _ => catZero s
  | .nmfenceWg s _ => catZero s
  | .nmfenceDie s _ => catZero s
  | .nmfencePkg s _ => catZero s
  | .nmfenceDom s _ => catZero s
  | .tfenceWg s _ => catZero s
  | .tfenceDie s _ => catZero s
  | .tfencePkg s _ => catZero s
  | .tfenceDom s _ => catZero s
  | .batchK _ _ => true
  | .batchA _ _ => true
  | .batchN _ _ => true
  | .batchG _ _ => true
  | .waitbK _ _ => true
  | .waitbA _ _ => true
  | .waitbN _ _ => true
  | .waitbG _ _ => true
  | .kld s imm => catEven s && immZero imm
  | .kst s imm => catEven s && immZero imm
  | .klut s imm => catEven s && immBelow imm 4
  | .lqry s imm => catEven s && immZero imm
  | .lapp s imm => catEven s && immZero imm
  | .lctl s imm => catEven s && immZero imm
  | .lpf s imm => catEven s && immZero imm
  | .qpush _ imm => immZero imm
  | .qpop _ imm => immZero imm
  | .qtry s imm => catNext s && immZero imm
  | .dcset _ _ => true
  | .dcdec _ imm => immZero imm
  | .dcatt s imm => catNext s && immZero imm
  | .mark _ _ => true
  | .cut s _ => catEven2 s
  | .graft s imm => catEven s && immZero imm
  | .unmark s _ => catZero s
  | .enter s imm => catZero s && enterLegal imm
  | .svc s _ => catZero s
  | .bkpt s _ => catZero s
  | .srd s imm => srdLegal s imm
  | .swr _ imm => statusLegal imm
  | .wakewSignal _ imm => immZero imm
  | .wakewWait s => catZero s
  | .yield s _ => catZero s
  | .tret s imm => catZero s && immZero imm
  | .shln _ imm => immBelow imm 4
  | .hsetn _ imm => immBelow imm 4
  | .unassignedOpcode _ => true
  | .undefinedClassH _ => true
  | .clauseStart => true
  | .shortLatencyWriteback _ _ => true
  | .memoryAccessComplete _ _ => true
  | .sfuComplete _ _ => true
  | .mmaResult _ _ => true
  | .checksumCompare _ _ _ => true
  | .checksumRerunResult _ _ _ => true
  | .headingCommit _ _ => true
  | .claimGrant _ => true
  | .surrReturn _ => true
  | .warpRetire _ => true
  | .deferredTrap _ => true
  | .bkptDelivery _ => true
  | .workgroupPlacement _ => true
  | .temperatureReading _ _ => true
  | .droopEvent _ => true
  | .starvationPriority _ _ => true
  | .iterationSpawn _ => true
  | .counterReleaseDeferred _ => true
  | .caskRefill _ => true
  | .kilnExpand _ => true
  | .kilnPack _ => true
  | .latticeLoad _ => true
  | .batchComplete _ _ => true
  | .combinerApply _ => true
  | .lanternAppend _ _ => true
  | .lanternQuery _ _ => true
  | .stagingFill _ => true
  | .lctlCreate _ _ => true
  | .lctlFree _ _ => true
  | .lctlTrunc _ _ => true
  | .lctlMap1 _ _ => true
  | .lctlUnmap1 _ _ => true
  | .lctlMap2 _ _ => true
  | .lctlPool _ _ => true
  | .lctlSettier _ _ => true
  | .lctlPfmode _ _ => true
  | .lanternPrefetchHint _ _ => true
  | .remoteWriteAck _ _ => true
  | .remoteWriteTimeout _ _ => true
  | .gateCommit _ => true
  | .wakeMessage _ => true
  | .coreUngate _ => true
  | .dbell _ _ _ => true
  | .replay _ _ => true
  | .frcons _ _ => true
  | .trcons _ _ => true
  | .nrcons _ _ => true
  | .controlRegisterWrite _ _ => true
  | .launch _ _ => true
  | .load _ _ => true
  | .unload _ _ => true
  | .preempt _ _ => true
  | .contextSave _ => true
  | .resume _ _ => true
  | .signal _ _ => true
  | .barrier _ _ => true
  | .trapres _ _ => true
  | .kill _ _ => true
  | .cask _ _ => true
  | .migrate _ _ => true
  | .migrationCopy _ => true
  | .inval _ _ => true
  | .tencfg _ _ => true
  | .tenancyCreate _ => true
  | .tenancyReset _ => true
  | .frameAssign _ _ _ => true
  | .coreSetJoin _ _ => true
  | .keySlotLoad _ _ _ => true
  | .hostCxlMemAccess _ => true
  | .packageReset => true
  | .levelAdvance => true
  | .uncorrectableSoftError _ _ => true
  | .droopEventExpiry _ => true
  | .homeNodeRemoteRequest _ => true
  | .remoteBlockFetch _ _ _ => true

/-- The vector source codes of a word in the order in which LIT positions take their literals (R43, R324, R360). -/
def vsrcs : Instr → List (BitVec 7)
  | .nop _ _ _ => []
  | .vadd _ a b => [a, b]
  | .vsub _ a b => [a, b]
  | .vmul _ a b => [a, b]
  | .vmin _ a b => [a, b]
  | .vmax _ a b => [a, b]
  | .vabsd _ a b => [a, b]
  | .vand _ a b => [a, b]
  | .vor _ a b => [a, b]
  | .vxor _ a b => [a, b]
  | .vandn _ a b => [a, b]
  | .vshl _ a b => [a, b]
  | .vshr _ a b => [a, b]
  | .vsra _ a b => [a, b]
  | .vcmpEq _ a b => [a, b]
  | .vcmpNe _ a b => [a, b]
  | .vcmpLt _ a b => [a, b]
  | .vcmpLe _ a b => [a, b]
  | .vcmpGt _ a b => [a, b]
  | .vcmpGe _ a b => [a, b]
  | .vcmpUn _ a b => [a, b]
  | .vcmpOrd _ a b => [a, b]
  | .vcvt _ a _ => [a]
  | .vrcp _ a b => [a, b]
  | .vrsq _ a b => [a, b]
  | .vsqrt _ a b => [a, b]
  | .vex2 _ a b => [a, b]
  | .vlg2 _ a b => [a, b]
  | .vsin _ a b => [a, b]
  | .vcos _ a b => [a, b]
  | .vtnh _ a b => [a, b]
  | .vshup _ a _ => [a]
  | .vshdn _ a _ => [a]
  | .vshxor _ a _ => [a]
  | .vshidx _ a b => [a, b]
  | .vlredAdd _ a b => [a, b]
  | .vlredMin _ a b => [a, b]
  | .vlredMax _ a b => [a, b]
  | .vlredAnd _ a b => [a, b]
  | .vlredOr _ a b => [a, b]
  | .vlredXor _ a b => [a, b]
  | .vscanAdd _ a b => [a, b]
  | .vscanMax _ a b => [a, b]
  | .vpopc _ a b => [a, b]
  | .vclz _ a b => [a, b]
  | .vbrev _ a b => [a, b]
  | .vpklo _ a b => [a, b]
  | .vpkhi _ a b => [a, b]
  | .vunlo _ a b => [a, b]
  | .vunhi _ a b => [a, b]
  | .vldB _ a _ => [a]
  | .vldH _ a _ => [a]
  | .vldW _ a _ => [a]
  | .vldD _ a _ => [a]
  | .vldQ _ a _ => [a]
  | .vstB d a _ => [a, d]
  | .vstH d a _ => [a, d]
  | .vstW d a _ => [a, d]
  | .vstD _ a _ => [a]
  | .vstQ _ a _ => [a]
  | .ldfA _ a _ => [a]
  | .ldfB _ a _ => [a]
  | .ldfC _ a _ => [a]
  | .stfC _ a _ => [a]
  | .vldaWg _ a _ => [a]
  | .vldaDie _ a _ => [a]
  | .vldaPkg _ a _ => [a]
  | .vldaDom _ a _ => [a]
  | .vstrWg d a _ => [a, d]
  | .vstrDie d a _ => [a, d]
  | .vstrPkg d a _ => [a, d]
  | .vstrDom d a _ => [a, d]
  | .vatomWgAdd _ a _ => [a]
  | .vatomWgMin _ a _ => [a]
  | .vatomWgMax _ a _ => [a]
  | .vatomWgAnd _ a _ => [a]
  | .vatomWgOr _ a _ => [a]
  | .vatomWgXor _ a _ => [a]
  | .vatomWgXchg _ a _ => [a]
  | .vatomWgCas _ a _ => [a]
  | .vatomDieAdd _ a _ => [a]
  | .vatomDieMin _ a _ => [a]
  | .vatomDieMax _ a _ => [a]
  | .vatomDieAnd _ a _ => [a]
  | .vatomDieOr _ a _ => [a]
  | .vatomDieXor _ a _ => [a]
  | .vatomDieXchg _ a _ => [a]
  | .vatomDieCas _ a _ => [a]
  | .vatomPkgAdd _ a _ => [a]
  | .vatomPkgMin _ a _ => [a]
  | .vatomPkgMax _ a _ => [a]
  | .vatomPkgAnd _ a _ => [a]
  | .vatomPkgOr _ a _ => [a]
  | .vatomPkgXor _ a _ => [a]
  | .vatomPkgXchg _ a _ => [a]
  | .vatomPkgCas _ a _ => [a]
  | .vatomDomAdd _ a _ => [a]
  | .vatomDomMin _ a _ => [a]
  | .vatomDomMax _ a _ => [a]
  | .vatomDomAnd _ a _ => [a]
  | .vatomDomOr _ a _ => [a]
  | .vatomDomXor _ a _ => [a]
  | .vatomDomXchg _ a _ => [a]
  | .vatomDomCas _ a _ => [a]
  | .nmredAdd d a _ => [a, d]
  | .nmredMin d a _ => [a, d]
  | .nmredMax d a _ => [a, d]
  | .mma _ _ _ => []
  | .mmac _ _ _ => []
  | .mmaz _ _ _ => []
  | .hcvt _ a b => [a, b]
  | .hcvtb _ a _ => [a]
  | .hexp _ _ _ => []
  | .hadd _ _ _ => []
  | .hsub _ _ _ => []
  | .hneg _ _ _ => []
  | .hscl _ _ _ => []
  | .hdot _ _ _ => []
  | .hdotn _ _ _ => []
  | .hrot _ _ b => [b]
  | .sadd _ _ _ => []
  | .ssub _ _ _ => []
  | .smul _ _ _ => []
  | .sand _ _ _ => []
  | .sor _ _ _ => []
  | .sxor _ _ _ => []
  | .sshl _ _ _ => []
  | .sshr _ _ _ => []
  | .ssra _ _ _ => []
  | .smin _ _ _ => []
  | .smax _ _ _ => []
  | .scmpEq _ _ _ => []
  | .scmpNe _ _ _ => []
  | .scmpLt _ _ _ => []
  | .scmpLe _ _ _ => []
  | .scmpGt _ _ _ => []
  | .scmpGe _ _ _ => []
  | .scmpLtu _ _ _ => []
  | .scmpGeu _ _ _ => []
  | .vcalli _ a _ => [a]
  | .pand _ _ _ => []
  | .por _ _ _ => []
  | .pxor _ _ _ => []
  | .pandn _ _ _ => []
  | .fma _ a b c => [a, b, c]
  | .fms _ a b c => [a, b, c]
  | .sel _ a b _ => [a, b]
  | .imad _ a b c => [a, b, c]
  | .smovi _ _ => []
  | .smovhi _ _ => []
  | .saddi _ _ => []
  | .sandi _ _ => []
  | .mode _ _ => []
  | .br _ _ => []
  | .brz _ _ => []
  | .brnz _ _ => []
  | .brany _ _ => []
  | .brall _ _ => []
  | .brdiv _ _ => []
  | .call _ _ => []
  | .calli _ _ => []
  | .ret _ _ => []
  | .rjoin _ _ => []
  | .exit _ _ => []
  | .exitl _ _ => []
  | .sbal _ _ => []
  | .pset _ _ => []
  | .pcnt _ _ => []
  | .sld _ _ => []
  | .sst _ _ => []
  | .sldd _ _ => []
  | .vrget _ _ => []
  | .vrset _ _ => []
  | .brew _ _ => []
  | .xrel _ _ => []
  | .claim _ _ => []
  | .surr _ _ => []
  | .bara _ _ => []
  | .barw _ _ => []
  | .baraw _ _ => []
  | .barq _ _ => []
  | .barwg _ _ => []
  | .fenceWgAcq _ _ => []
  | .fenceWgRel _ _ => []
  | .fenceWgFull _ _ => []
  | .fenceDieAcq _ _ => []
  | .fenceDieRel _ _ => []
  | .fenceDieFull _ _ => []
  | .fencePkgAcq _ _ => []
  | .fencePkgRel _ _ => []
  | .fencePkgFull _ _ => []
  | .fenceDomAcq _ _ => []
  | .fenceDomRel _ _ => []
  | .fenceDomFull _ _ => []
  | .nmfenceWg _ _ => []
  | .nmfenceDie _ _ => []
  | .nmfencePkg _ _ => []
  | .nmfenceDom _ _ => []
  | .tfenceWg _ _ => []
  | .tfenceDie _ _ => []
  | .tfencePkg _ _ => []
  | .tfenceDom _ _ => []
  | .batchK _ _ => []
  | .batchA _ _ => []
  | .batchN _ _ => []
  | .batchG _ _ => []
  | .waitbK _ _ => []
  | .waitbA _ _ => []
  | .waitbN _ _ => []
  | .waitbG _ _ => []
  | .kld _ _ => []
  | .kst _ _ => []
  | .klut _ _ => []
  | .lqry _ _ => []
  | .lapp _ _ => []
  | .lctl _ _ => []
  | .lpf _ _ => []
  | .qpush _ _ => []
  | .qpop _ _ => []
  | .qtry _ _ => []
  | .dcset _ _ => []
  | .dcdec _ _ => []
  | .dcatt _ _ => []
  | .mark _ _ => []
  | .cut _ _ => []
  | .graft _ _ => []
  | .unmark _ _ => []
  | .enter _ _ => []
  | .svc _ _ => []
  | .bkpt _ _ => []
  | .srd _ _ => []
  | .swr _ _ => []
  | .wakewSignal _ _ => []
  | .wakewWait _ => []
  | .yield _ _ => []
  | .tret _ _ => []
  | .shln _ _ => []
  | .hsetn _ _ => []
  | .unassignedOpcode _ => []
  | .undefinedClassH _ => []
  | .clauseStart => []
  | .shortLatencyWriteback _ _ => []
  | .memoryAccessComplete _ _ => []
  | .sfuComplete _ _ => []
  | .mmaResult _ _ => []
  | .checksumCompare _ _ _ => []
  | .checksumRerunResult _ _ _ => []
  | .headingCommit _ _ => []
  | .claimGrant _ => []
  | .surrReturn _ => []
  | .warpRetire _ => []
  | .deferredTrap _ => []
  | .bkptDelivery _ => []
  | .workgroupPlacement _ => []
  | .temperatureReading _ _ => []
  | .droopEvent _ => []
  | .starvationPriority _ _ => []
  | .iterationSpawn _ => []
  | .counterReleaseDeferred _ => []
  | .caskRefill _ => []
  | .kilnExpand _ => []
  | .kilnPack _ => []
  | .latticeLoad _ => []
  | .batchComplete _ _ => []
  | .combinerApply _ => []
  | .lanternAppend _ _ => []
  | .lanternQuery _ _ => []
  | .stagingFill _ => []
  | .lctlCreate _ _ => []
  | .lctlFree _ _ => []
  | .lctlTrunc _ _ => []
  | .lctlMap1 _ _ => []
  | .lctlUnmap1 _ _ => []
  | .lctlMap2 _ _ => []
  | .lctlPool _ _ => []
  | .lctlSettier _ _ => []
  | .lctlPfmode _ _ => []
  | .lanternPrefetchHint _ _ => []
  | .remoteWriteAck _ _ => []
  | .remoteWriteTimeout _ _ => []
  | .gateCommit _ => []
  | .wakeMessage _ => []
  | .coreUngate _ => []
  | .dbell _ _ _ => []
  | .replay _ _ => []
  | .frcons _ _ => []
  | .trcons _ _ => []
  | .nrcons _ _ => []
  | .controlRegisterWrite _ _ => []
  | .launch _ _ => []
  | .load _ _ => []
  | .unload _ _ => []
  | .preempt _ _ => []
  | .contextSave _ => []
  | .resume _ _ => []
  | .signal _ _ => []
  | .barrier _ _ => []
  | .trapres _ _ => []
  | .kill _ _ => []
  | .cask _ _ => []
  | .migrate _ _ => []
  | .migrationCopy _ => []
  | .inval _ _ => []
  | .tencfg _ _ => []
  | .tenancyCreate _ => []
  | .tenancyReset _ => []
  | .frameAssign _ _ _ => []
  | .coreSetJoin _ _ => []
  | .keySlotLoad _ _ _ => []
  | .hostCxlMemAccess _ => []
  | .packageReset => []
  | .levelAdvance => []
  | .uncorrectableSoftError _ _ => []
  | .droopEventExpiry _ => []
  | .homeNodeRemoteRequest _ => []
  | .remoteBlockFetch _ _ _ => []

/-- The further vector-code positions of a word, its destination or data field, where 127 is illegal and yet counts as a literal
(R41, R44). -/
def vdests : Instr → List (BitVec 7)
  | .nop _ _ _ => []
  | .vadd d _ _ => [d]
  | .vsub d _ _ => [d]
  | .vmul d _ _ => [d]
  | .vmin d _ _ => [d]
  | .vmax d _ _ => [d]
  | .vabsd d _ _ => [d]
  | .vand d _ _ => [d]
  | .vor d _ _ => [d]
  | .vxor d _ _ => [d]
  | .vandn d _ _ => [d]
  | .vshl d _ _ => [d]
  | .vshr d _ _ => [d]
  | .vsra d _ _ => [d]
  | .vcmpEq _ _ _ => []
  | .vcmpNe _ _ _ => []
  | .vcmpLt _ _ _ => []
  | .vcmpLe _ _ _ => []
  | .vcmpGt _ _ _ => []
  | .vcmpGe _ _ _ => []
  | .vcmpUn _ _ _ => []
  | .vcmpOrd _ _ _ => []
  | .vcvt d _ _ => [d]
  | .vrcp d _ _ => [d]
  | .vrsq d _ _ => [d]
  | .vsqrt d _ _ => [d]
  | .vex2 d _ _ => [d]
  | .vlg2 d _ _ => [d]
  | .vsin d _ _ => [d]
  | .vcos d _ _ => [d]
  | .vtnh d _ _ => [d]
  | .vshup d _ _ => [d]
  | .vshdn d _ _ => [d]
  | .vshxor d _ _ => [d]
  | .vshidx d _ _ => [d]
  | .vlredAdd d _ _ => [d]
  | .vlredMin d _ _ => [d]
  | .vlredMax d _ _ => [d]
  | .vlredAnd d _ _ => [d]
  | .vlredOr d _ _ => [d]
  | .vlredXor d _ _ => [d]
  | .vscanAdd d _ _ => [d]
  | .vscanMax d _ _ => [d]
  | .vpopc d _ _ => [d]
  | .vclz d _ _ => [d]
  | .vbrev d _ _ => [d]
  | .vpklo d _ _ => [d]
  | .vpkhi d _ _ => [d]
  | .vunlo d _ _ => [d]
  | .vunhi d _ _ => [d]
  | .vldB d _ _ => [d]
  | .vldH d _ _ => [d]
  | .vldW d _ _ => [d]
  | .vldD d _ _ => [d]
  | .vldQ d _ _ => [d]
  | .vstB _ _ _ => []
  | .vstH _ _ _ => []
  | .vstW _ _ _ => []
  | .vstD d _ _ => [d]
  | .vstQ d _ _ => [d]
  | .ldfA d _ _ => [d]
  | .ldfB d _ _ => [d]
  | .ldfC d _ _ => [d]
  | .stfC d _ _ => [d]
  | .vldaWg d _ _ => [d]
  | .vldaDie d _ _ => [d]
  | .vldaPkg d _ _ => [d]
  | .vldaDom d _ _ => [d]
  | .vstrWg _ _ _ => []
  | .vstrDie _ _ _ => []
  | .vstrPkg _ _ _ => []
  | .vstrDom _ _ _ => []
  | .vatomWgAdd _ _ _ => []
  | .vatomWgMin _ _ _ => []
  | .vatomWgMax _ _ _ => []
  | .vatomWgAnd _ _ _ => []
  | .vatomWgOr _ _ _ => []
  | .vatomWgXor _ _ _ => []
  | .vatomWgXchg _ _ _ => []
  | .vatomWgCas _ _ _ => []
  | .vatomDieAdd _ _ _ => []
  | .vatomDieMin _ _ _ => []
  | .vatomDieMax _ _ _ => []
  | .vatomDieAnd _ _ _ => []
  | .vatomDieOr _ _ _ => []
  | .vatomDieXor _ _ _ => []
  | .vatomDieXchg _ _ _ => []
  | .vatomDieCas _ _ _ => []
  | .vatomPkgAdd _ _ _ => []
  | .vatomPkgMin _ _ _ => []
  | .vatomPkgMax _ _ _ => []
  | .vatomPkgAnd _ _ _ => []
  | .vatomPkgOr _ _ _ => []
  | .vatomPkgXor _ _ _ => []
  | .vatomPkgXchg _ _ _ => []
  | .vatomPkgCas _ _ _ => []
  | .vatomDomAdd _ _ _ => []
  | .vatomDomMin _ _ _ => []
  | .vatomDomMax _ _ _ => []
  | .vatomDomAnd _ _ _ => []
  | .vatomDomOr _ _ _ => []
  | .vatomDomXor _ _ _ => []
  | .vatomDomXchg _ _ _ => []
  | .vatomDomCas _ _ _ => []
  | .nmredAdd _ _ _ => []
  | .nmredMin _ _ _ => []
  | .nmredMax _ _ _ => []
  | .mma _ _ _ => []
  | .mmac _ _ _ => []
  | .mmaz _ _ _ => []
  | .hcvt _ _ _ => []
  | .hcvtb _ _ _ => []
  | .hexp _ _ _ => []
  | .hadd _ _ _ => []
  | .hsub _ _ _ => []
  | .hneg _ _ _ => []
  | .hscl _ _ _ => []
  | .hdot d _ _ => [d]
  | .hdotn d _ _ => [d]
  | .hrot _ _ _ => []
  | .sadd _ _ _ => []
  | .ssub _ _ _ => []
  | .smul _ _ _ => []
  | .sand _ _ _ => []
  | .sor _ _ _ => []
  | .sxor _ _ _ => []
  | .sshl _ _ _ => []
  | .sshr _ _ _ => []
  | .ssra _ _ _ => []
  | .smin _ _ _ => []
  | .smax _ _ _ => []
  | .scmpEq _ _ _ => []
  | .scmpNe _ _ _ => []
  | .scmpLt _ _ _ => []
  | .scmpLe _ _ _ => []
  | .scmpGt _ _ _ => []
  | .scmpGe _ _ _ => []
  | .scmpLtu _ _ _ => []
  | .scmpGeu _ _ _ => []
  | .vcalli _ _ _ => []
  | .pand _ _ _ => []
  | .por _ _ _ => []
  | .pxor _ _ _ => []
  | .pandn _ _ _ => []
  | .fma d _ _ _ => [d]
  | .fms d _ _ _ => [d]
  | .sel d _ _ _ => [d]
  | .imad d _ _ _ => [d]
  | .smovi _ _ => []
  | .smovhi _ _ => []
  | .saddi _ _ => []
  | .sandi _ _ => []
  | .mode _ _ => []
  | .br _ _ => []
  | .brz _ _ => []
  | .brnz _ _ => []
  | .brany _ _ => []
  | .brall _ _ => []
  | .brdiv _ _ => []
  | .call _ _ => []
  | .calli _ _ => []
  | .ret _ _ => []
  | .rjoin _ _ => []
  | .exit _ _ => []
  | .exitl _ _ => []
  | .sbal _ _ => []
  | .pset _ _ => []
  | .pcnt _ _ => []
  | .sld _ _ => []
  | .sst _ _ => []
  | .sldd _ _ => []
  | .vrget _ _ => []
  | .vrset _ _ => []
  | .brew _ _ => []
  | .xrel _ _ => []
  | .claim _ _ => []
  | .surr _ _ => []
  | .bara _ _ => []
  | .barw _ _ => []
  | .baraw _ _ => []
  | .barq _ _ => []
  | .barwg _ _ => []
  | .fenceWgAcq _ _ => []
  | .fenceWgRel _ _ => []
  | .fenceWgFull _ _ => []
  | .fenceDieAcq _ _ => []
  | .fenceDieRel _ _ => []
  | .fenceDieFull _ _ => []
  | .fencePkgAcq _ _ => []
  | .fencePkgRel _ _ => []
  | .fencePkgFull _ _ => []
  | .fenceDomAcq _ _ => []
  | .fenceDomRel _ _ => []
  | .fenceDomFull _ _ => []
  | .nmfenceWg _ _ => []
  | .nmfenceDie _ _ => []
  | .nmfencePkg _ _ => []
  | .nmfenceDom _ _ => []
  | .tfenceWg _ _ => []
  | .tfenceDie _ _ => []
  | .tfencePkg _ _ => []
  | .tfenceDom _ _ => []
  | .batchK _ _ => []
  | .batchA _ _ => []
  | .batchN _ _ => []
  | .batchG _ _ => []
  | .waitbK _ _ => []
  | .waitbA _ _ => []
  | .waitbN _ _ => []
  | .waitbG _ _ => []
  | .kld _ _ => []
  | .kst _ _ => []
  | .klut _ _ => []
  | .lqry _ _ => []
  | .lapp _ _ => []
  | .lctl _ _ => []
  | .lpf _ _ => []
  | .qpush _ _ => []
  | .qpop _ _ => []
  | .qtry _ _ => []
  | .dcset _ _ => []
  | .dcdec _ _ => []
  | .dcatt _ _ => []
  | .mark _ _ => []
  | .cut _ _ => []
  | .graft _ _ => []
  | .unmark _ _ => []
  | .enter _ _ => []
  | .svc _ _ => []
  | .bkpt _ _ => []
  | .srd _ _ => []
  | .swr _ _ => []
  | .wakewSignal _ _ => []
  | .wakewWait _ => []
  | .yield _ _ => []
  | .tret _ _ => []
  | .shln _ _ => []
  | .hsetn _ _ => []
  | .unassignedOpcode _ => []
  | .undefinedClassH _ => []
  | .clauseStart => []
  | .shortLatencyWriteback _ _ => []
  | .memoryAccessComplete _ _ => []
  | .sfuComplete _ _ => []
  | .mmaResult _ _ => []
  | .checksumCompare _ _ _ => []
  | .checksumRerunResult _ _ _ => []
  | .headingCommit _ _ => []
  | .claimGrant _ => []
  | .surrReturn _ => []
  | .warpRetire _ => []
  | .deferredTrap _ => []
  | .bkptDelivery _ => []
  | .workgroupPlacement _ => []
  | .temperatureReading _ _ => []
  | .droopEvent _ => []
  | .starvationPriority _ _ => []
  | .iterationSpawn _ => []
  | .counterReleaseDeferred _ => []
  | .caskRefill _ => []
  | .kilnExpand _ => []
  | .kilnPack _ => []
  | .latticeLoad _ => []
  | .batchComplete _ _ => []
  | .combinerApply _ => []
  | .lanternAppend _ _ => []
  | .lanternQuery _ _ => []
  | .stagingFill _ => []
  | .lctlCreate _ _ => []
  | .lctlFree _ _ => []
  | .lctlTrunc _ _ => []
  | .lctlMap1 _ _ => []
  | .lctlUnmap1 _ _ => []
  | .lctlMap2 _ _ => []
  | .lctlPool _ _ => []
  | .lctlSettier _ _ => []
  | .lctlPfmode _ _ => []
  | .lanternPrefetchHint _ _ => []
  | .remoteWriteAck _ _ => []
  | .remoteWriteTimeout _ _ => []
  | .gateCommit _ => []
  | .wakeMessage _ => []
  | .coreUngate _ => []
  | .dbell _ _ _ => []
  | .replay _ _ => []
  | .frcons _ _ => []
  | .trcons _ _ => []
  | .nrcons _ _ => []
  | .controlRegisterWrite _ _ => []
  | .launch _ _ => []
  | .load _ _ => []
  | .unload _ _ => []
  | .preempt _ _ => []
  | .contextSave _ => []
  | .resume _ _ => []
  | .signal _ _ => []
  | .barrier _ _ => []
  | .trapres _ _ => []
  | .kill _ _ => []
  | .cask _ _ => []
  | .migrate _ _ => []
  | .migrationCopy _ => []
  | .inval _ _ => []
  | .tencfg _ _ => []
  | .tenancyCreate _ => []
  | .tenancyReset _ => []
  | .frameAssign _ _ _ => []
  | .coreSetJoin _ _ => []
  | .keySlotLoad _ _ _ => []
  | .hostCxlMemAccess _ => []
  | .packageReset => []
  | .levelAdvance => []
  | .uncorrectableSoftError _ _ => []
  | .droopEventExpiry _ => []
  | .homeNodeRemoteRequest _ => []
  | .remoteBlockFetch _ _ _ => []

/-- How many of the codes are LIT (R43). -/
def litsOf (codes : List (BitVec 7)) : Nat := codes.countP (fun c => c.toNat = 127)

/-- How many literal words follow a word (R41, R43). -/
def litCount (i : Instr) : Nat := litsOf (vsrcs i) + litsOf (vdests i)

end Sys2Proof.Machine
end

