-- ==== Sys2Proof/WellFormed.lean ====
section
/-! DEFINITION. Which instructions are well formed: every field has a legal value (R44, R76, R79), and
a word kept whole is one the decoder leaves without an opcode (R75, R77). -/

namespace Sys2Proof

/-- The unassigned class V opcodes of R77, as ranges. -/
def unassignedV : List (Nat × Nat) :=
  [(0x007, 0x007), (0x00F, 0x00F), (0x019, 0x01F), (0x02C, 0x02F), (0x03B, 0x03B), (0x045, 0x047),
   (0x04D, 0x04F), (0x054, 0x057), (0x083, 0x087), (0x08B, 0x08F), (0x09A, 0x09F), (0x0AB, 0x0AF),
   (0x0B8, 0x0BF), (0x0C1, 0x0C7), (0x0CC, 0x1FF)]

/-- The unassigned class S opcodes of R77, as ranges. -/
def unassignedS : List (Nat × Nat) :=
  [(0x05, 0x07), (0x14, 0x17), (0x1B, 0x1F), (0x23, 0x27), (0x2A, 0x2F), (0x34, 0x37), (0x3D, 0x3F),
   (0x54, 0x57), (0x63, 0x67), (0x6C, 0x6F), (0x76, 0x77), (0x7D, 0x7F), (0x87, 0x87), (0x8A, 0xFF)]

/-- A number lies in one of the ranges. -/
def inRanges (n : Nat) (rs : List (Nat × Nat)) : Bool :=
  rs.any (fun r => decide (r.1 ≤ n) && decide (n ≤ r.2))

/-- A word whose class V or class S opcode is unassigned (R77). -/
def unassignedWord (w : Word) : Bool :=
  let cls := (w.extractLsb' 30 2).toNat
  (decide (cls = 0) && inRanges (w.extractLsb' 21 9).toNat unassignedV)
    || (decide (cls = 2) && inRanges (w.extractLsb' 22 8).toNat unassignedS)

/-- A class H word (R40). -/
def classHWord (w : Word) : Bool := decide ((w.extractLsb' 30 2).toNat = 3)

/-- An instruction with legal fields; a word kept whole must be of its own kind. -/
def Instr.wellFormed (i : Instr) : Bool :=
  Machine.legal i &&
    match i with
    | .unassignedOpcode w => unassignedWord w
    | .undefinedClassH w => classHWord w
    | _ => true

end Sys2Proof
end

