-- ==== Sys2Proof/Decode.lean ====
section
/-! DEFINITION. The decoder, total on every word, and the encoder (R40, R70 to R78). -/

namespace Sys2Proof

/-- Why bytes give no instruction: fewer than the four bytes of a word. -/
inductive DecodeError where
  | short
deriving DecidableEq, Repr

/-- Class V, by opcode9 (R70, R71); an unassigned value is its own row (R77, R78). -/
def decodeV (op : Nat) (d a b : BitVec 7) (w : Word) : Instr :=
  match op with
  | 0x000 => .nop d a b
  | 0x001 => .vadd d a b
  | 0x002 => .vsub d a b
  | 0x003 => .vmul d a b
  | 0x004 => .vmin d a b
  | 0x005 => .vmax d a b
  | 0x006 => .vabsd d a b
  | 0x008 => .vand d a b
  | 0x009 => .vor d a b
  | 0x00A => .vxor d a b
  | 0x00B => .vandn d a b
  | 0x00C => .vshl d a b
  | 0x00D => .vshr d a b
  | 0x00E => .vsra d a b
  | 0x010 => .vcmpEq d a b
  | 0x011 => .vcmpNe d a b
  | 0x012 => .vcmpLt d a b
  | 0x013 => .vcmpLe d a b
  | 0x014 => .vcmpGt d a b
  | 0x015 => .vcmpGe d a b
  | 0x016 => .vcmpUn d a b
  | 0x017 => .vcmpOrd d a b
  | 0x018 => .vcvt d a b
  | 0x020 => .vrcp d a b
  | 0x021 => .vrsq d a b
  | 0x022 => .vsqrt d a b
  | 0x023 => .vex2 d a b
  | 0x024 => .vlg2 d a b
  | 0x025 => .vsin d a b
  | 0x026 => .vcos d a b
  | 0x027 => .vtnh d a b
  | 0x028 => .vshup d a b
  | 0x029 => .vshdn d a b
  | 0x02A => .vshxor d a b
  | 0x02B => .vshidx d a b
  | 0x030 => .vlredAdd d a b
  | 0x031 => .vlredMin d a b
  | 0x032 => .vlredMax d a b
  | 0x033 => .vlredAnd d a b
  | 0x034 => .vlredOr d a b
  | 0x035 => .vlredXor d a b
  | 0x036 => .vscanAdd d a b
  | 0x037 => .vscanMax d a b
  | 0x038 => .vpopc d a b
  | 0x039 => .vclz d a b
  | 0x03A => .vbrev d a b
  | 0x03C => .vpklo d a b
  | 0x03D => .vpkhi d a b
  | 0x03E => .vunlo d a b
  | 0x03F => .vunhi d a b
  | 0x040 => .vldB d a b
  | 0x041 => .vldH d a b
  | 0x042 => .vldW d a b
  | 0x043 => .vldD d a b
  | 0x044 => .vldQ d a b
  | 0x048 => .vstB d a b
  | 0x049 => .vstH d a b
  | 0x04A => .vstW d a b
  | 0x04B => .vstD d a b
  | 0x04C => .vstQ d a b
  | 0x050 => .ldfA d a b
  | 0x051 => .ldfB d a b
  | 0x052 => .ldfC d a b
  | 0x053 => .stfC d a b
  | 0x058 => .vldaWg d a b
  | 0x059 => .vldaDie d a b
  | 0x05A => .vldaPkg d a b
  | 0x05B => .vldaDom d a b
  | 0x05C => .vstrWg d a b
  | 0x05D => .vstrDie d a b
  | 0x05E => .vstrPkg d a b
  | 0x05F => .vstrDom d a b
  | 0x060 => .vatomWgAdd d a b
  | 0x061 => .vatomWgMin d a b
  | 0x062 => .vatomWgMax d a b
  | 0x063 => .vatomWgAnd d a b
  | 0x064 => .vatomWgOr d a b
  | 0x065 => .vatomWgXor d a b
  | 0x066 => .vatomWgXchg d a b
  | 0x067 => .vatomWgCas d a b
  | 0x068 => .vatomDieAdd d a b
  | 0x069 => .vatomDieMin d a b
  | 0x06A => .vatomDieMax d a b
  | 0x06B => .vatomDieAnd d a b
  | 0x06C => .vatomDieOr d a b
  | 0x06D => .vatomDieXor d a b
  | 0x06E => .vatomDieXchg d a b
  | 0x06F => .vatomDieCas d a b
  | 0x070 => .vatomPkgAdd d a b
  | 0x071 => .vatomPkgMin d a b
  | 0x072 => .vatomPkgMax d a b
  | 0x073 => .vatomPkgAnd d a b
  | 0x074 => .vatomPkgOr d a b
  | 0x075 => .vatomPkgXor d a b
  | 0x076 => .vatomPkgXchg d a b
  | 0x077 => .vatomPkgCas d a b
  | 0x078 => .vatomDomAdd d a b
  | 0x079 => .vatomDomMin d a b
  | 0x07A => .vatomDomMax d a b
  | 0x07B => .vatomDomAnd d a b
  | 0x07C => .vatomDomOr d a b
  | 0x07D => .vatomDomXor d a b
  | 0x07E => .vatomDomXchg d a b
  | 0x07F => .vatomDomCas d a b
  | 0x080 => .nmredAdd d a b
  | 0x081 => .nmredMin d a b
  | 0x082 => .nmredMax d a b
  | 0x088 => .mma d a b
  | 0x089 => .mmac d a b
  | 0x08A => .mmaz d a b
  | 0x090 => .hcvt d a b
  | 0x091 => .hcvtb d a b
  | 0x092 => .hexp d a b
  | 0x093 => .hadd d a b
  | 0x094 => .hsub d a b
  | 0x095 => .hneg d a b
  | 0x096 => .hscl d a b
  | 0x097 => .hdot d a b
  | 0x098 => .hdotn d a b
  | 0x099 => .hrot d a b
  | 0x0A0 => .sadd d a b
  | 0x0A1 => .ssub d a b
  | 0x0A2 => .smul d a b
  | 0x0A3 => .sand d a b
  | 0x0A4 => .sor d a b
  | 0x0A5 => .sxor d a b
  | 0x0A6 => .sshl d a b
  | 0x0A7 => .sshr d a b
  | 0x0A8 => .ssra d a b
  | 0x0A9 => .smin d a b
  | 0x0AA => .smax d a b
  | 0x0B0 => .scmpEq d a b
  | 0x0B1 => .scmpNe d a b
  | 0x0B2 => .scmpLt d a b
  | 0x0B3 => .scmpLe d a b
  | 0x0B4 => .scmpGt d a b
  | 0x0B5 => .scmpGe d a b
  | 0x0B6 => .scmpLtu d a b
  | 0x0B7 => .scmpGeu d a b
  | 0x0C0 => .vcalli d a b
  | 0x0C8 => .pand d a b
  | 0x0C9 => .por d a b
  | 0x0CA => .pxor d a b
  | 0x0CB => .pandn d a b
  | _ => .unassignedOpcode w

/-- Class Q, by op2 (R74). -/
def decodeQ (op : Nat) (d a b c : BitVec 7) : Instr :=
  match op with
  | 0 => .fma d a b c
  | 1 => .fms d a b c
  | 2 => .sel d a b c
  | _ => .imad d a b c

/-- Class S, by opcode8 (R76). The two forms of WAKEW are told apart by imm16 (R382). -/
def decodeS (op : Nat) (s : BitVec 6) (imm : BitVec 16) (w : Word) : Instr :=
  match op with
  | 0x00 => .smovi s imm
  | 0x01 => .smovhi s imm
  | 0x02 => .saddi s imm
  | 0x03 => .sandi s imm
  | 0x04 => .mode s imm
  | 0x08 => .br s imm
  | 0x09 => .brz s imm
  | 0x0A => .brnz s imm
  | 0x0B => .brany s imm
  | 0x0C => .brall s imm
  | 0x0D => .brdiv s imm
  | 0x0E => .call s imm
  | 0x0F => .calli s imm
  | 0x10 => .ret s imm
  | 0x11 => .rjoin s imm
  | 0x12 => .exit s imm
  | 0x13 => .exitl s imm
  | 0x18 => .sbal s imm
  | 0x19 => .pset s imm
  | 0x1A => .pcnt s imm
  | 0x20 => .sld s imm
  | 0x21 => .sst s imm
  | 0x22 => .sldd s imm
  | 0x28 => .vrget s imm
  | 0x29 => .vrset s imm
  | 0x30 => .brew s imm
  | 0x31 => .xrel s imm
  | 0x32 => .claim s imm
  | 0x33 => .surr s imm
  | 0x38 => .bara s imm
  | 0x39 => .barw s imm
  | 0x3A => .baraw s imm
  | 0x3B => .barq s imm
  | 0x3C => .barwg s imm
  | 0x40 => .fenceWgAcq s imm
  | 0x41 => .fenceWgRel s imm
  | 0x42 => .fenceWgFull s imm
  | 0x43 => .fenceDieAcq s imm
  | 0x44 => .fenceDieRel s imm
  | 0x45 => .fenceDieFull s imm
  | 0x46 => .fencePkgAcq s imm
  | 0x47 => .fencePkgRel s imm
  | 0x48 => .fencePkgFull s imm
  | 0x49 => .fenceDomAcq s imm
  | 0x4A => .fenceDomRel s imm
  | 0x4B => .fenceDomFull s imm
  | 0x4C => .nmfenceWg s imm
  | 0x4D => .nmfenceDie s imm
  | 0x4E => .nmfencePkg s imm
  | 0x4F => .nmfenceDom s imm
  | 0x50 => .tfenceWg s imm
  | 0x51 => .tfenceDie s imm
  | 0x52 => .tfencePkg s imm
  | 0x53 => .tfenceDom s imm
  | 0x58 => .batchK s imm
  | 0x59 => .batchA s imm
  | 0x5A => .batchN s imm
  | 0x5B => .batchG s imm
  | 0x5C => .waitbK s imm
  | 0x5D => .waitbA s imm
  | 0x5E => .waitbN s imm
  | 0x5F => .waitbG s imm
  | 0x60 => .kld s imm
  | 0x61 => .kst s imm
  | 0x62 => .klut s imm
  | 0x68 => .lqry s imm
  | 0x69 => .lapp s imm
  | 0x6A => .lctl s imm
  | 0x6B => .lpf s imm
  | 0x70 => .qpush s imm
  | 0x71 => .qpop s imm
  | 0x72 => .qtry s imm
  | 0x73 => .dcset s imm
  | 0x74 => .dcdec s imm
  | 0x75 => .dcatt s imm
  | 0x78 => .mark s imm
  | 0x79 => .cut s imm
  | 0x7A => .graft s imm
  | 0x7B => .unmark s imm
  | 0x7C => .enter s imm
  | 0x80 => .svc s imm
  | 0x81 => .bkpt s imm
  | 0x82 => .srd s imm
  | 0x83 => .swr s imm
  | 0x85 => .yield s imm
  | 0x86 => .tret s imm
  | 0x88 => .shln s imm
  | 0x89 => .hsetn s imm
  | 0x84 => if imm = 1 then .wakewWait s else .wakewSignal s imm
  | _ => .unassignedOpcode w

/-- The instruction a 32-bit word stands for in a body position (R40, R46, R75). -/
def decodeWord (w : Word) : Instr :=
  let cls := (w.extractLsb' 30 2).toNat
  if cls = 0 then
    decodeV (w.extractLsb' 21 9).toNat (w.extractLsb' 14 7) (w.extractLsb' 7 7) (w.extractLsb' 0 7) w
  else if cls = 1 then
    decodeQ (w.extractLsb' 28 2).toNat (w.extractLsb' 21 7) (w.extractLsb' 14 7) (w.extractLsb' 7 7)
      (w.extractLsb' 0 7)
  else if cls = 2 then
    decodeS (w.extractLsb' 22 8).toNat (w.extractLsb' 16 6) (w.extractLsb' 0 16) w
  else .undefinedClassH w

/-- A word from its four bytes, the first at the lowest address (R4). -/
def wordOfBytes (b0 b1 b2 b3 : Byte) : Word := b3 ++ b2 ++ b1 ++ b0

/-- The instruction at the head of a list of bytes and the bytes after its word (R40, R4). Literal
words stay in the list: a word names how many follow it (R43). -/
def decode : List Byte → Except DecodeError (Instr × List Byte)
  | b0 :: b1 :: b2 :: b3 :: rest => .ok (decodeWord (wordOfBytes b0 b1 b2 b3), rest)
  | _ => .error .short

/-- A class V word from its fields (R40). -/
def wordV (op : BitVec 9) (d a b : BitVec 7) : Word := 0b00#2 ++ op ++ d ++ a ++ b

/-- A class Q word from its fields (R40). -/
def wordQ (op : BitVec 2) (d a b c : BitVec 7) : Word := 0b01#2 ++ op ++ d ++ a ++ b ++ c

/-- A class S word from its fields (R40). -/
def wordS (op : BitVec 8) (s : BitVec 6) (imm : BitVec 16) : Word := 0b10#2 ++ op ++ s ++ imm

/-- The word of an instruction (R40, R70 to R78); an event has none. -/
def encodeWord : Instr → Option Word
  | .nop d a b => some (wordV 0x000 d a b)
  | .vadd d a b => some (wordV 0x001 d a b)
  | .vsub d a b => some (wordV 0x002 d a b)
  | .vmul d a b => some (wordV 0x003 d a b)
  | .vmin d a b => some (wordV 0x004 d a b)
  | .vmax d a b => some (wordV 0x005 d a b)
  | .vabsd d a b => some (wordV 0x006 d a b)
  | .vand d a b => some (wordV 0x008 d a b)
  | .vor d a b => some (wordV 0x009 d a b)
  | .vxor d a b => some (wordV 0x00A d a b)
  | .vandn d a b => some (wordV 0x00B d a b)
  | .vshl d a b => some (wordV 0x00C d a b)
  | .vshr d a b => some (wordV 0x00D d a b)
  | .vsra d a b => some (wordV 0x00E d a b)
  | .vcmpEq d a b => some (wordV 0x010 d a b)
  | .vcmpNe d a b => some (wordV 0x011 d a b)
  | .vcmpLt d a b => some (wordV 0x012 d a b)
  | .vcmpLe d a b => some (wordV 0x013 d a b)
  | .vcmpGt d a b => some (wordV 0x014 d a b)
  | .vcmpGe d a b => some (wordV 0x015 d a b)
  | .vcmpUn d a b => some (wordV 0x016 d a b)
  | .vcmpOrd d a b => some (wordV 0x017 d a b)
  | .vcvt d a b => some (wordV 0x018 d a b)
  | .vrcp d a b => some (wordV 0x020 d a b)
  | .vrsq d a b => some (wordV 0x021 d a b)
  | .vsqrt d a b => some (wordV 0x022 d a b)
  | .vex2 d a b => some (wordV 0x023 d a b)
  | .vlg2 d a b => some (wordV 0x024 d a b)
  | .vsin d a b => some (wordV 0x025 d a b)
  | .vcos d a b => some (wordV 0x026 d a b)
  | .vtnh d a b => some (wordV 0x027 d a b)
  | .vshup d a b => some (wordV 0x028 d a b)
  | .vshdn d a b => some (wordV 0x029 d a b)
  | .vshxor d a b => some (wordV 0x02A d a b)
  | .vshidx d a b => some (wordV 0x02B d a b)
  | .vlredAdd d a b => some (wordV 0x030 d a b)
  | .vlredMin d a b => some (wordV 0x031 d a b)
  | .vlredMax d a b => some (wordV 0x032 d a b)
  | .vlredAnd d a b => some (wordV 0x033 d a b)
  | .vlredOr d a b => some (wordV 0x034 d a b)
  | .vlredXor d a b => some (wordV 0x035 d a b)
  | .vscanAdd d a b => some (wordV 0x036 d a b)
  | .vscanMax d a b => some (wordV 0x037 d a b)
  | .vpopc d a b => some (wordV 0x038 d a b)
  | .vclz d a b => some (wordV 0x039 d a b)
  | .vbrev d a b => some (wordV 0x03A d a b)
  | .vpklo d a b => some (wordV 0x03C d a b)
  | .vpkhi d a b => some (wordV 0x03D d a b)
  | .vunlo d a b => some (wordV 0x03E d a b)
  | .vunhi d a b => some (wordV 0x03F d a b)
  | .vldB d a b => some (wordV 0x040 d a b)
  | .vldH d a b => some (wordV 0x041 d a b)
  | .vldW d a b => some (wordV 0x042 d a b)
  | .vldD d a b => some (wordV 0x043 d a b)
  | .vldQ d a b => some (wordV 0x044 d a b)
  | .vstB d a b => some (wordV 0x048 d a b)
  | .vstH d a b => some (wordV 0x049 d a b)
  | .vstW d a b => some (wordV 0x04A d a b)
  | .vstD d a b => some (wordV 0x04B d a b)
  | .vstQ d a b => some (wordV 0x04C d a b)
  | .ldfA d a b => some (wordV 0x050 d a b)
  | .ldfB d a b => some (wordV 0x051 d a b)
  | .ldfC d a b => some (wordV 0x052 d a b)
  | .stfC d a b => some (wordV 0x053 d a b)
  | .vldaWg d a b => some (wordV 0x058 d a b)
  | .vldaDie d a b => some (wordV 0x059 d a b)
  | .vldaPkg d a b => some (wordV 0x05A d a b)
  | .vldaDom d a b => some (wordV 0x05B d a b)
  | .vstrWg d a b => some (wordV 0x05C d a b)
  | .vstrDie d a b => some (wordV 0x05D d a b)
  | .vstrPkg d a b => some (wordV 0x05E d a b)
  | .vstrDom d a b => some (wordV 0x05F d a b)
  | .vatomWgAdd d a b => some (wordV 0x060 d a b)
  | .vatomWgMin d a b => some (wordV 0x061 d a b)
  | .vatomWgMax d a b => some (wordV 0x062 d a b)
  | .vatomWgAnd d a b => some (wordV 0x063 d a b)
  | .vatomWgOr d a b => some (wordV 0x064 d a b)
  | .vatomWgXor d a b => some (wordV 0x065 d a b)
  | .vatomWgXchg d a b => some (wordV 0x066 d a b)
  | .vatomWgCas d a b => some (wordV 0x067 d a b)
  | .vatomDieAdd d a b => some (wordV 0x068 d a b)
  | .vatomDieMin d a b => some (wordV 0x069 d a b)
  | .vatomDieMax d a b => some (wordV 0x06A d a b)
  | .vatomDieAnd d a b => some (wordV 0x06B d a b)
  | .vatomDieOr d a b => some (wordV 0x06C d a b)
  | .vatomDieXor d a b => some (wordV 0x06D d a b)
  | .vatomDieXchg d a b => some (wordV 0x06E d a b)
  | .vatomDieCas d a b => some (wordV 0x06F d a b)
  | .vatomPkgAdd d a b => some (wordV 0x070 d a b)
  | .vatomPkgMin d a b => some (wordV 0x071 d a b)
  | .vatomPkgMax d a b => some (wordV 0x072 d a b)
  | .vatomPkgAnd d a b => some (wordV 0x073 d a b)
  | .vatomPkgOr d a b => some (wordV 0x074 d a b)
  | .vatomPkgXor d a b => some (wordV 0x075 d a b)
  | .vatomPkgXchg d a b => some (wordV 0x076 d a b)
  | .vatomPkgCas d a b => some (wordV 0x077 d a b)
  | .vatomDomAdd d a b => some (wordV 0x078 d a b)
  | .vatomDomMin d a b => some (wordV 0x079 d a b)
  | .vatomDomMax d a b => some (wordV 0x07A d a b)
  | .vatomDomAnd d a b => some (wordV 0x07B d a b)
  | .vatomDomOr d a b => some (wordV 0x07C d a b)
  | .vatomDomXor d a b => some (wordV 0x07D d a b)
  | .vatomDomXchg d a b => some (wordV 0x07E d a b)
  | .vatomDomCas d a b => some (wordV 0x07F d a b)
  | .nmredAdd d a b => some (wordV 0x080 d a b)
  | .nmredMin d a b => some (wordV 0x081 d a b)
  | .nmredMax d a b => some (wordV 0x082 d a b)
  | .mma d a b => some (wordV 0x088 d a b)
  | .mmac d a b => some (wordV 0x089 d a b)
  | .mmaz d a b => some (wordV 0x08A d a b)
  | .hcvt d a b => some (wordV 0x090 d a b)
  | .hcvtb d a b => some (wordV 0x091 d a b)
  | .hexp d a b => some (wordV 0x092 d a b)
  | .hadd d a b => some (wordV 0x093 d a b)
  | .hsub d a b => some (wordV 0x094 d a b)
  | .hneg d a b => some (wordV 0x095 d a b)
  | .hscl d a b => some (wordV 0x096 d a b)
  | .hdot d a b => some (wordV 0x097 d a b)
  | .hdotn d a b => some (wordV 0x098 d a b)
  | .hrot d a b => some (wordV 0x099 d a b)
  | .sadd d a b => some (wordV 0x0A0 d a b)
  | .ssub d a b => some (wordV 0x0A1 d a b)
  | .smul d a b => some (wordV 0x0A2 d a b)
  | .sand d a b => some (wordV 0x0A3 d a b)
  | .sor d a b => some (wordV 0x0A4 d a b)
  | .sxor d a b => some (wordV 0x0A5 d a b)
  | .sshl d a b => some (wordV 0x0A6 d a b)
  | .sshr d a b => some (wordV 0x0A7 d a b)
  | .ssra d a b => some (wordV 0x0A8 d a b)
  | .smin d a b => some (wordV 0x0A9 d a b)
  | .smax d a b => some (wordV 0x0AA d a b)
  | .scmpEq d a b => some (wordV 0x0B0 d a b)
  | .scmpNe d a b => some (wordV 0x0B1 d a b)
  | .scmpLt d a b => some (wordV 0x0B2 d a b)
  | .scmpLe d a b => some (wordV 0x0B3 d a b)
  | .scmpGt d a b => some (wordV 0x0B4 d a b)
  | .scmpGe d a b => some (wordV 0x0B5 d a b)
  | .scmpLtu d a b => some (wordV 0x0B6 d a b)
  | .scmpGeu d a b => some (wordV 0x0B7 d a b)
  | .vcalli d a b => some (wordV 0x0C0 d a b)
  | .pand d a b => some (wordV 0x0C8 d a b)
  | .por d a b => some (wordV 0x0C9 d a b)
  | .pxor d a b => some (wordV 0x0CA d a b)
  | .pandn d a b => some (wordV 0x0CB d a b)
  | .fma d a b c => some (wordQ 0 d a b c)
  | .fms d a b c => some (wordQ 1 d a b c)
  | .sel d a b c => some (wordQ 2 d a b c)
  | .imad d a b c => some (wordQ 3 d a b c)
  | .smovi s imm => some (wordS 0x00 s imm)
  | .smovhi s imm => some (wordS 0x01 s imm)
  | .saddi s imm => some (wordS 0x02 s imm)
  | .sandi s imm => some (wordS 0x03 s imm)
  | .mode s imm => some (wordS 0x04 s imm)
  | .br s imm => some (wordS 0x08 s imm)
  | .brz s imm => some (wordS 0x09 s imm)
  | .brnz s imm => some (wordS 0x0A s imm)
  | .brany s imm => some (wordS 0x0B s imm)
  | .brall s imm => some (wordS 0x0C s imm)
  | .brdiv s imm => some (wordS 0x0D s imm)
  | .call s imm => some (wordS 0x0E s imm)
  | .calli s imm => some (wordS 0x0F s imm)
  | .ret s imm => some (wordS 0x10 s imm)
  | .rjoin s imm => some (wordS 0x11 s imm)
  | .exit s imm => some (wordS 0x12 s imm)
  | .exitl s imm => some (wordS 0x13 s imm)
  | .sbal s imm => some (wordS 0x18 s imm)
  | .pset s imm => some (wordS 0x19 s imm)
  | .pcnt s imm => some (wordS 0x1A s imm)
  | .sld s imm => some (wordS 0x20 s imm)
  | .sst s imm => some (wordS 0x21 s imm)
  | .sldd s imm => some (wordS 0x22 s imm)
  | .vrget s imm => some (wordS 0x28 s imm)
  | .vrset s imm => some (wordS 0x29 s imm)
  | .brew s imm => some (wordS 0x30 s imm)
  | .xrel s imm => some (wordS 0x31 s imm)
  | .claim s imm => some (wordS 0x32 s imm)
  | .surr s imm => some (wordS 0x33 s imm)
  | .bara s imm => some (wordS 0x38 s imm)
  | .barw s imm => some (wordS 0x39 s imm)
  | .baraw s imm => some (wordS 0x3A s imm)
  | .barq s imm => some (wordS 0x3B s imm)
  | .barwg s imm => some (wordS 0x3C s imm)
  | .fenceWgAcq s imm => some (wordS 0x40 s imm)
  | .fenceWgRel s imm => some (wordS 0x41 s imm)
  | .fenceWgFull s imm => some (wordS 0x42 s imm)
  | .fenceDieAcq s imm => some (wordS 0x43 s imm)
  | .fenceDieRel s imm => some (wordS 0x44 s imm)
  | .fenceDieFull s imm => some (wordS 0x45 s imm)
  | .fencePkgAcq s imm => some (wordS 0x46 s imm)
  | .fencePkgRel s imm => some (wordS 0x47 s imm)
  | .fencePkgFull s imm => some (wordS 0x48 s imm)
  | .fenceDomAcq s imm => some (wordS 0x49 s imm)
  | .fenceDomRel s imm => some (wordS 0x4A s imm)
  | .fenceDomFull s imm => some (wordS 0x4B s imm)
  | .nmfenceWg s imm => some (wordS 0x4C s imm)
  | .nmfenceDie s imm => some (wordS 0x4D s imm)
  | .nmfencePkg s imm => some (wordS 0x4E s imm)
  | .nmfenceDom s imm => some (wordS 0x4F s imm)
  | .tfenceWg s imm => some (wordS 0x50 s imm)
  | .tfenceDie s imm => some (wordS 0x51 s imm)
  | .tfencePkg s imm => some (wordS 0x52 s imm)
  | .tfenceDom s imm => some (wordS 0x53 s imm)
  | .batchK s imm => some (wordS 0x58 s imm)
  | .batchA s imm => some (wordS 0x59 s imm)
  | .batchN s imm => some (wordS 0x5A s imm)
  | .batchG s imm => some (wordS 0x5B s imm)
  | .waitbK s imm => some (wordS 0x5C s imm)
  | .waitbA s imm => some (wordS 0x5D s imm)
  | .waitbN s imm => some (wordS 0x5E s imm)
  | .waitbG s imm => some (wordS 0x5F s imm)
  | .kld s imm => some (wordS 0x60 s imm)
  | .kst s imm => some (wordS 0x61 s imm)
  | .klut s imm => some (wordS 0x62 s imm)
  | .lqry s imm => some (wordS 0x68 s imm)
  | .lapp s imm => some (wordS 0x69 s imm)
  | .lctl s imm => some (wordS 0x6A s imm)
  | .lpf s imm => some (wordS 0x6B s imm)
  | .qpush s imm => some (wordS 0x70 s imm)
  | .qpop s imm => some (wordS 0x71 s imm)
  | .qtry s imm => some (wordS 0x72 s imm)
  | .dcset s imm => some (wordS 0x73 s imm)
  | .dcdec s imm => some (wordS 0x74 s imm)
  | .dcatt s imm => some (wordS 0x75 s imm)
  | .mark s imm => some (wordS 0x78 s imm)
  | .cut s imm => some (wordS 0x79 s imm)
  | .graft s imm => some (wordS 0x7A s imm)
  | .unmark s imm => some (wordS 0x7B s imm)
  | .enter s imm => some (wordS 0x7C s imm)
  | .svc s imm => some (wordS 0x80 s imm)
  | .bkpt s imm => some (wordS 0x81 s imm)
  | .srd s imm => some (wordS 0x82 s imm)
  | .swr s imm => some (wordS 0x83 s imm)
  | .wakewSignal s imm => some (wordS 0x84 s imm)
  | .wakewWait s => some (wordS 0x84 s 1)
  | .yield s imm => some (wordS 0x85 s imm)
  | .tret s imm => some (wordS 0x86 s imm)
  | .shln s imm => some (wordS 0x88 s imm)
  | .hsetn s imm => some (wordS 0x89 s imm)
  | .unassignedOpcode w => some w
  | .undefinedClassH w => some w
  | .clauseStart => none
  | .shortLatencyWriteback _ _ => none
  | .memoryAccessComplete _ _ => none
  | .sfuComplete _ _ => none
  | .mmaResult _ _ => none
  | .checksumCompare _ _ _ => none
  | .checksumRerunResult _ _ _ => none
  | .headingCommit _ _ => none
  | .claimGrant _ => none
  | .surrReturn _ => none
  | .warpRetire _ => none
  | .deferredTrap _ => none
  | .bkptDelivery _ => none
  | .workgroupPlacement _ => none
  | .temperatureReading _ _ => none
  | .droopEvent _ => none
  | .starvationPriority _ _ => none
  | .iterationSpawn _ => none
  | .counterReleaseDeferred _ => none
  | .caskRefill _ => none
  | .kilnExpand _ => none
  | .kilnPack _ => none
  | .latticeLoad _ => none
  | .batchComplete _ _ => none
  | .combinerApply _ => none
  | .lanternAppend _ _ => none
  | .lanternQuery _ _ => none
  | .stagingFill _ => none
  | .lctlCreate _ _ => none
  | .lctlFree _ _ => none
  | .lctlTrunc _ _ => none
  | .lctlMap1 _ _ => none
  | .lctlUnmap1 _ _ => none
  | .lctlMap2 _ _ => none
  | .lctlPool _ _ => none
  | .lctlSettier _ _ => none
  | .lctlPfmode _ _ => none
  | .lanternPrefetchHint _ _ => none
  | .remoteWriteAck _ _ => none
  | .remoteWriteTimeout _ _ => none
  | .gateCommit _ => none
  | .wakeMessage _ => none
  | .coreUngate _ => none
  | .dbell _ _ _ => none
  | .replay _ _ => none
  | .frcons _ _ => none
  | .trcons _ _ => none
  | .nrcons _ _ => none
  | .controlRegisterWrite _ _ => none
  | .launch _ _ => none
  | .load _ _ => none
  | .unload _ _ => none
  | .preempt _ _ => none
  | .contextSave _ => none
  | .resume _ _ => none
  | .signal _ _ => none
  | .barrier _ _ => none
  | .trapres _ _ => none
  | .kill _ _ => none
  | .cask _ _ => none
  | .migrate _ _ => none
  | .migrationCopy _ => none
  | .inval _ _ => none
  | .tencfg _ _ => none
  | .tenancyCreate _ => none
  | .tenancyReset _ => none
  | .frameAssign _ _ _ => none
  | .coreSetJoin _ _ => none
  | .keySlotLoad _ _ _ => none
  | .hostCxlMemAccess _ => none
  | .packageReset => none
  | .levelAdvance => none
  | .uncorrectableSoftError _ _ => none
  | .droopEventExpiry _ => none
  | .homeNodeRemoteRequest _ => none
  | .remoteBlockFetch _ _ _ => none

/-- The four bytes of a word, the first at the lowest address (R4). -/
def bytesOfWord (w : Word) : List Byte :=
  [w.extractLsb' 0 8, w.extractLsb' 8 8, w.extractLsb' 16 8, w.extractLsb' 24 8]

/-- The bytes of an instruction's word; none for an event. -/
def encode (i : Instr) : List Byte :=
  match encodeWord i with
  | some w => bytesOfWord w
  | none => []

/-- The instruction the decoder reads from bits numbered as opcode_table.json numbers them. -/
def decodeTableWord (nbits w : Nat) : Option Instr :=
  if nbits ≤ 32 then
    match decode (bytesOfWord (BitVec.ofNat 32 (w % 2 ^ nbits))) with
    | .ok (i, _) => some i
    | .error _ => none
  else none

/-- The fields of a clause header (R45). -/
structure Header where
  wm : BitVec 12
  sa : BitVec 4
  sb : BitVec 4
  sp : BitVec 2
  len : BitVec 6
deriving DecidableEq, Repr

/-- The header a word is, when it is class 11 with sub 00 (R45, R75). -/
def decodeHeader (w : Word) : Option Header :=
  if (w.extractLsb' 28 4).toNat = 0b1100 then
    some { wm := w.extractLsb' 16 12, sa := w.extractLsb' 12 4, sb := w.extractLsb' 8 4,
           sp := w.extractLsb' 6 2, len := w.extractLsb' 0 6 }
  else none

/-- The word of a clause header (R45). -/
def encodeHeader (h : Header) : Word := 0b1100#4 ++ h.wm ++ h.sa ++ h.sb ++ h.sp ++ h.len

end Sys2Proof
end

