-- ==== Sys2Proof/Machine/Float.lean ====
section
/-! DEFINITION. Number formats, exact values, rounding, float and integer element arithmetic (R108 to R129). -/

namespace Sys2Proof.Machine

/-- A floating-point format (R110): exponent and mantissa bits, bias, the codes of its largest finite value and
its canonical NaN without sign, and whether it has infinities. -/
structure Fmt where
  ebits : Nat
  mbits : Nat
  bias : Nat
  maxCode : Nat
  nanCode : Nat
  hasInf : Bool
deriving DecidableEq, Repr

/-- binary32 (R110). -/
def fF32 : Fmt := { ebits := 8, mbits := 23, bias := 127, maxCode := 0x7F7FFFFF, nanCode := 0x7FC00000, hasInf := true }
/-- binary16 (R110). -/
def fF16 : Fmt := { ebits := 5, mbits := 10, bias := 15, maxCode := 0x7BFF, nanCode := 0x7E00, hasInf := true }
/-- BF16 (R110). -/
def fBF16 : Fmt := { ebits := 8, mbits := 7, bias := 127, maxCode := 0x7F7F, nanCode := 0x7FC0, hasInf := true }
/-- E4M3 (R110): no infinity, one NaN code. -/
def fE4M3 : Fmt := { ebits := 4, mbits := 3, bias := 7, maxCode := 0x7E, nanCode := 0x7F, hasInf := false }
/-- E5M2 (R110). -/
def fE5M2 : Fmt := { ebits := 5, mbits := 2, bias := 15, maxCode := 0x7B, nanCode := 0x7E, hasInf := true }
/-- E2M1 (R110): no infinity, no NaN. -/
def fE2M1 : Fmt := { ebits := 2, mbits := 1, bias := 1, maxCode := 0x7, nanCode := 0x8, hasInf := false }

/-- Bits of the format, sign included. -/
def Fmt.bits (f : Fmt) : Nat := 1 + f.ebits + f.mbits

/-- An exact value: NaN, an infinity, or (−1)^neg × m × 2^e. A zero keeps its sign. -/
inductive FVal where
  | nan
  | inf (neg : Bool)
  | fin (neg : Bool) (m : Nat) (e : Int)
deriving DecidableEq, Repr

/-- The value of a code (R110). -/
def decodeF (f : Fmt) (x : Nat) : FVal :=
  let neg := x.testBit (f.ebits + f.mbits)
  let c := x % 2 ^ (f.ebits + f.mbits)
  let e := c / 2 ^ f.mbits
  let m := c % 2 ^ f.mbits
  if f.hasInf ∧ e = 2 ^ f.ebits - 1 then (if m = 0 then .inf neg else .nan)
  else if !f.hasInf ∧ c = f.nanCode then .nan
  else if e = 0 then .fin neg m (1 - (f.bias : Int) - f.mbits)
  else .fin neg (2 ^ f.mbits + m) ((e : Int) - f.bias - f.mbits)

/-- Rounding modes of R54 and R112. -/
inductive RMode where
  | rne | rtz | rdn | rup | rna
deriving DecidableEq, Repr

/-- The rounding mode of a mode word (R54). DESIGN CHOICE (entry 31): a reserved code, 5 to 7, which only a saved mode that a program has
changed can hold, rounds as RNE. -/
def rmOf (mode : Half) : RMode :=
  match (mode.extractLsb' 4 3).toNat with
  | 1 => .rtz
  | 2 => .rdn
  | 3 => .rup
  | 4 => .rna
  | _ => .rne

/-- SAT of a mode word (R54). -/
def satOf (mode : Half) : Bool := mode.getLsbD 3

/-- DNZ of a mode word (R54). -/
def dnzOf (mode : Half) : Bool := mode.getLsbD 2

/-- The element type of a mode word (R54). DESIGN CHOICE (entry 31): a reserved code, 9 to 15, which only a saved mode that a program has
changed can hold, counts as N8x4. -/
def etOf (mode : Half) : ElemType :=
  match (mode.extractLsb' 7 4).toNat with
  | 0 => .i32
  | 1 => .n32
  | 2 => .f32
  | 3 => .f16x2
  | 4 => .bf16x2
  | 5 => .i16x2
  | 6 => .n16x2
  | 7 => .i8x4
  | _ => .n8x4

/-- Whether a discarded part rounds the magnitude up: `r` of `2^sh` with quotient `q` (R112). -/
def roundUp (rm : RMode) (neg : Bool) (q r half : Nat) : Bool :=
  match rm with
  | .rne => decide (r > half) || (decide (r = half) && decide (q % 2 = 1))
  | .rtz => false
  | .rdn => neg && decide (r ≠ 0)
  | .rup => !neg && decide (r ≠ 0)
  | .rna => decide (r ≥ half)

/-- m × 2^e brought to a multiple of 2^q: the rounded multiple (R112). -/
def roundGrid (rm : RMode) (neg : Bool) (m : Nat) (e q : Int) : Nat :=
  if q ≤ e then m * 2 ^ (e - q).toNat
  else
    let sh := (q - e).toNat
    let k := m / 2 ^ sh
    if roundUp rm neg k (m % 2 ^ sh) (2 ^ (sh - 1)) then k + 1 else k

/-- The exponent of the least mantissa bit of subnormals of a format. -/
def Fmt.emin (f : Fmt) : Int := 1 - (f.bias : Int) - f.mbits

/-- The sign bit of a format. -/
def Fmt.signed (f : Fmt) (neg : Bool) (c : Nat) : Nat := if neg then 2 ^ (f.ebits + f.mbits) + c else c

/-- The code of infinity of a format that has one. -/
def Fmt.infCode (f : Fmt) : Nat := (2 ^ f.ebits - 1) * 2 ^ f.mbits

/-- Overflow of R112. -/
def overflowCode (f : Fmt) (rm : RMode) (neg sat : Bool) : Nat :=
  let toInf := match rm with
    | .rne => true
    | .rna => true
    | .rtz => false
    | .rdn => neg
    | .rup => !neg
  if toInf && !sat && f.hasInf then f.infCode else f.maxCode

/-- Round of R112. A zero has the sign its value carries (R113). -/
def roundF (f : Fmt) (rm : RMode) (sat dnz : Bool) : FVal → Nat
  | .nan => f.nanCode
  | .inf neg => f.signed neg (if f.hasInf then f.infCode else f.maxCode)
  | .fin neg m e =>
    if m = 0 then f.signed neg 0
    else
      let q := max (e + (Nat.log2 m : Int) - f.mbits) f.emin
      let k := roundGrid rm neg m e q
      let c := k + (q - f.emin).toNat * 2 ^ f.mbits
      if c > f.maxCode then f.signed neg (overflowCode f rm neg sat)
      else if dnz && decide (c < 2 ^ f.mbits) then f.signed neg 0
      else f.signed neg c

/-- RoundNE of R112. -/
def roundNE (f : Fmt) (x : FVal) : Nat := roundF f .rne false false x

/-- The arithmetic part of a mode (R54). -/
structure FMode where
  rm : RMode
  sat : Bool
  dnz : Bool
deriving DecidableEq, Repr

/-- RM, SAT and DNZ of a mode word. -/
def fmodeOf (mode : Half) : FMode := { rm := rmOf mode, sat := satOf mode, dnz := dnzOf mode }

/-- An operand as it is read: a subnormal is a zero under DNZ (R115). -/
def readF (f : Fmt) (dnz : Bool) (x : Nat) : FVal :=
  match decodeF f x with
  | .fin neg m e => if dnz && decide (m < 2 ^ f.mbits) then .fin neg 0 e else .fin neg m e
  | v => v

/-- The sign of a sum of two zeros, or of an exact zero sum (R113). -/
def zeroSum (rm : RMode) (a b : Bool) (bothZero : Bool) : Bool :=
  if bothZero && decide (a = b) then a else decide (rm = .rdn)

/-- A signed integer times 2^e as a value, with the given sign for zero. -/
def ofInt (x e : Int) (zneg : Bool) : FVal := if x = 0 then .fin zneg 0 e else .fin (decide (x < 0)) x.natAbs e

/-- The signed mantissa of a finite value at exponent `q ≤ e`. -/
def scaleTo (neg : Bool) (m : Nat) (e q : Int) : Int :=
  let v : Int := (m : Int) * 2 ^ (e - q).toNat
  if neg then -v else v

/-- The exact sum (R113, R114). -/
def addF (rm : RMode) : FVal → FVal → FVal
  | .nan, _ => .nan
  | _, .nan => .nan
  | .inf a, .inf b => if a = b then .inf a else .nan
  | .inf a, _ => .inf a
  | _, .inf b => .inf b
  | .fin a m e, .fin b n g =>
    let q := min e g
    ofInt (scaleTo a m e q + scaleTo b n g q) q (zeroSum rm a b (decide (m = 0) && decide (n = 0)))

/-- The exact negation. -/
def negF : FVal → FVal
  | .nan => .nan
  | .inf a => .inf (!a)
  | .fin a m e => .fin (!a) m e

/-- The exact product (R113, R114). -/
def mulF : FVal → FVal → FVal
  | .nan, _ => .nan
  | _, .nan => .nan
  | .inf a, .inf b => .inf (a != b)
  | .inf a, .fin b n _ => if n = 0 then .nan else .inf (a != b)
  | .fin a m _, .inf b => if m = 0 then .nan else .inf (a != b)
  | .fin a m e, .fin b n g => .fin (a != b) (m * n) (e + g)

/-- The absolute value; an exact zero is +0 (R116). -/
def absF : FVal → FVal
  | .nan => .nan
  | .inf _ => .inf false
  | .fin _ m e => .fin false m e

/-- Exact order of finite values and infinities, −0 equal to +0: −1, 0 or 1. NaN does not reach it. -/
def cmpF : FVal → FVal → Int
  | .inf a, .inf b => if a = b then 0 else if a then -1 else 1
  | .inf a, _ => if a then -1 else 1
  | _, .inf b => if b then 1 else -1
  | .fin a m e, .fin b n g =>
    let q := min e g
    let d := scaleTo a m e q - scaleTo b n g q
    if d < 0 then -1 else if d = 0 then 0 else 1
  | _, _ => 0

/-- The value is NaN. -/
def FVal.isNan : FVal → Bool
  | .nan => true
  | _ => false

/-- The value's sign is negative. -/
def FVal.isNeg : FVal → Bool
  | .nan => false
  | .inf a => a
  | .fin a _ _ => a

/-- `x` is below `y` in the order of minimumNumber, −0 below +0 (R116). -/
def belowF (x y : FVal) : Bool :=
  decide (cmpF x y < 0) || (decide (cmpF x y = 0) && x.isNeg && !y.isNeg)

/-- minimumNumber or maximumNumber of two codes, after the DNZ flush (R116). -/
def minmaxF (f : Fmt) (dnz mx : Bool) (x y : Nat) : Nat :=
  let flush (c : Nat) := match readF f dnz c with
    | .fin neg 0 _ => f.signed neg 0
    | _ => c
  let a := readF f dnz x
  let b := readF f dnz y
  if a.isNan && b.isNan then f.nanCode
  else if a.isNan then flush y
  else if b.isNan then flush x
  else if belowF a b == mx then flush y
  else flush x

/-! Elements (R108). -/

/-- Elements of a type in a word. -/
def etCount : ElemType → Nat
  | .i32 => 1
  | .n32 => 1
  | .f32 => 1
  | .f16x2 => 2
  | .bf16x2 => 2
  | .i16x2 => 2
  | .n16x2 => 2
  | .i8x4 => 4
  | .n8x4 => 4

/-- Width of an element in bits. -/
def etWidth (t : ElemType) : Nat := 32 / (etCount t)

/-- The float format of a type, none for integers. -/
def etFmt : ElemType → Option Fmt
  | .f32 => some fF32
  | .f16x2 => some fF16
  | .bf16x2 => some fBF16
  | _ => none

/-- Signed integer types. -/
def etSigned : ElemType → Bool
  | .i32 => true
  | .i16x2 => true
  | .i8x4 => true
  | _ => false

/-- Element `i` of a word, as its bits. -/
def elemAt (t : ElemType) (x : Word) (i : Nat) : Nat := x.toNat / 2 ^ ((etWidth t) * i) % 2 ^ (etWidth t)

/-- A word from the bits of its elements, beyond the list zero. -/
def packElems (t : ElemType) : List Nat → Nat
  | [] => 0
  | x :: xs => x % 2 ^ (etWidth t) + 2 ^ (etWidth t) * packElems t xs

/-- The integer an element stands for (R108). -/
def elemInt (t : ElemType) (x : Nat) : Int :=
  if (etSigned t) && decide (2 ^ ((etWidth t) - 1) ≤ x) then (x : Int) - 2 ^ (etWidth t) else x

/-- MinOf (R109). -/
def minOf (t : ElemType) : Int := if (etSigned t) then -(2 ^ ((etWidth t) - 1)) else 0

/-- MaxOf (R109). -/
def maxOf (t : ElemType) : Int := if (etSigned t) then 2 ^ ((etWidth t) - 1) - 1 else 2 ^ (etWidth t) - 1

/-- The bits of an integer modulo the width of its type. -/
def intBits (t : ElemType) (x : Int) : Nat := (x % 2 ^ (etWidth t)).toNat

/-- IntResult (R109). -/
def intResult (t : ElemType) (sat : Bool) (x : Int) : Nat :=
  if sat then intBits t (min (max x (minOf t)) (maxOf t)) else intBits t x

/-- Applies a function to each element of one word. -/
def mapElems (t : ElemType) (f : Nat → Nat) (x : Word) : Word :=
  BitVec.ofNat 32 (packElems t ((List.range (etCount t)).map fun i => f (elemAt t x i)))

/-- Applies a function to the elements of two words. -/
def mapElems2 (t : ElemType) (f : Nat → Nat → Nat) (x y : Word) : Word :=
  BitVec.ofNat 32 (packElems t ((List.range (etCount t)).map fun i => f (elemAt t x i) (elemAt t y i)))

/-- Applies a function to the elements of three words. -/
def mapElems3 (t : ElemType) (f : Nat → Nat → Nat → Nat) (x y z : Word) : Word :=
  BitVec.ofNat 32 (packElems t ((List.range (etCount t)).map fun i => f (elemAt t x i) (elemAt t y i) (elemAt t z i)))

/-- The arithmetic of VADD, VSUB, VMUL, VMIN, VMAX and VABSD. -/
inductive ArithOp where
  | add | sub | mul | min | max | absd
deriving DecidableEq, Repr

/-- The exact integer result of an operation (R109, R357). -/
def intArith (op : ArithOp) (x y : Int) : Int :=
  match op with
  | .add => x + y
  | .sub => x - y
  | .mul => x * y
  | .min => Min.min x y
  | .max => Max.max x y
  | .absd => (x - y).natAbs

/-- The float result of an operation on two element codes (R112 to R116). -/
def floatArith (f : Fmt) (m : FMode) (op : ArithOp) (x y : Nat) : Nat :=
  let a := readF f m.dnz x
  let b := readF f m.dnz y
  match op with
  | .add => roundF f m.rm m.sat m.dnz (addF m.rm a b)
  | .sub => roundF f m.rm m.sat m.dnz (addF m.rm a (negF b))
  | .mul => roundF f m.rm m.sat m.dnz (mulF a b)
  | .min => minmaxF f m.dnz false x y
  | .max => minmaxF f m.dnz true x y
  | .absd => roundF f m.rm m.sat m.dnz (absF (addF m.rm a (negF b)))

/-- An operation on two elements of a type (R357). -/
def arithElem (t : ElemType) (m : FMode) (op : ArithOp) (x y : Nat) : Nat :=
  match (etFmt t) with
  | some f => floatArith f m op x y
  | none => intResult t m.sat (intArith op (elemInt t x) (elemInt t y))

/-- FMA and FMS on float elements: one rounding (R288, R289). -/
def fmaElem (f : Fmt) (m : FMode) (sub : Bool) (x y z : Nat) : Nat :=
  let p := mulF (readF f m.dnz x) (readF f m.dnz y)
  let c := readF f m.dnz z
  roundF f m.rm m.sat m.dnz (addF m.rm p (if sub then negF c else c))

/-- Compare conditions of VCMP (R366). -/
inductive CmpOp where
  | eq | ne | lt | le | gt | ge | un | ord
deriving DecidableEq, Repr

/-- A condition on an exact order −1, 0, 1. -/
def cmpHolds (op : CmpOp) (d : Int) : Bool :=
  match op with
  | .eq => decide (d = 0)
  | .ne => decide (d ≠ 0)
  | .lt => decide (d < 0)
  | .le => decide (d ≤ 0)
  | .gt => decide (d > 0)
  | .ge => decide (d ≥ 0)
  | .un => false
  | .ord => true

/-- A compare of two elements (R117). -/
def cmpElem (t : ElemType) (dnz : Bool) (op : CmpOp) (x y : Nat) : Bool :=
  match (etFmt t) with
  | some f =>
    let a := readF f dnz x
    let b := readF f dnz y
    if a.isNan || b.isNan then decide (op = CmpOp.ne) || decide (op = CmpOp.un) else cmpHolds op (cmpF a b)
  | none => cmpHolds op (elemInt t x - elemInt t y)

/-- A finite value rounded to an integer (R120). -/
def roundInt (rm : RMode) (neg : Bool) (m : Nat) (e : Int) : Int :=
  let k : Int := roundGrid rm neg m e 0
  if neg then -k else k

/-- FloatToInt (R120). -/
def floatToInt (t : ElemType) (rm : RMode) : FVal → Nat
  | .nan => 0
  | .inf neg => intBits t (if neg then minOf t else maxOf t)
  | .fin neg m e =>
    let e' := if e > 200 then 200 else e
    intBits t (min (max (roundInt rm neg m e') (minOf t)) (maxOf t))

/-- VCVT of one element (R119). DESIGN CHOICE (entry 56): integer 0 converted to a float type is +0 under every rounding mode, a sign that
R113 does not list. -/
def cvtElem (src dst : ElemType) (m : FMode) (x : Nat) : Nat :=
  match (etFmt src), (etFmt dst) with
  | some f, some g => roundF g m.rm m.sat m.dnz (readF f m.dnz x)
  | none, some g => roundF g m.rm m.sat m.dnz (ofInt (elemInt src x) 0 false)
  | some f, none => floatToInt dst m.rm (readF f m.dnz x)
  | none, none => intResult dst m.sat (elemInt src x)

/-- VCVT of a word: the common elements are converted, the rest are zero (R119). -/
def cvtWord (src dst : ElemType) (m : FMode) (x : Word) : Word :=
  BitVec.ofNat 32 (packElems dst ((List.range (Min.min (etCount src) (etCount dst))).map fun i => cvtElem src dst m (elemAt src x i)))

/-- The element type of a code 0 to 8 (R54). -/
def etCode (n : Nat) : ElemType :=
  match n with
  | 0 => .i32
  | 1 => .n32
  | 2 => .f32
  | 3 => .f16x2
  | 4 => .bf16x2
  | 5 => .i16x2
  | 6 => .n16x2
  | 7 => .i8x4
  | _ => .n8x4

/-! Window sums (R128). -/

/-- floor(log2 |t|) of a finite nonzero value. -/
def floorLog (m : Nat) (e : Int) : Int := e + (Nat.log2 m : Int)

/-- Truncation of a term to the granule 2^q, toward zero (R128). -/
def truncTo (neg : Bool) (m : Nat) (e q : Int) : Int :=
  let k : Int := if q ≤ e then (m : Int) * 2 ^ (e - q).toNat else ((m / 2 ^ (q - e).toNat : Nat) : Int)
  if neg then -k else k

/-- The largest floor(log2) among nonzero finite terms. -/
def maxLog : List FVal → Option Int
  | [] => none
  | .fin _ m e :: r =>
    if m = 0 then maxLog r
    else match maxLog r with
      | none => some (floorLog m e)
      | some x => some (Max.max x (floorLog m e))
  | _ :: r => maxLog r

/-- WindowSum (R128), as an F32 code. -/
def windowSum (ts : List FVal) : Nat :=
  if ts.any FVal.isNan then 0x7FC00000
  else
    let pos := ts.any fun t => decide (t = .inf false)
    let neg := ts.any fun t => decide (t = .inf true)
    if pos && neg then 0x7FC00000
    else if pos then 0x7F800000
    else if neg then 0xFF800000
    else
      match maxLog ts with
      | none => if ts.all FVal.isNeg then 0x80000000 else 0
      | some x =>
        let q := x - 27
        let sum : Int := ts.foldl (fun a t =>
          match t with
          | .fin n m e => if m = 0 then a else a + truncTo n m e q
          | _ => a) 0
        if sum = 0 then 0 else roundNE fF32 (ofInt sum q false)

/-! Microscaling and the codebook (R121 to R125). -/

/-- The value of an E8M0 code other than 0xFF, as an exponent (R110). -/
def e8m0Exp (c : Nat) : Int := (c : Int) - 127

/-- emax of R121. -/
def Fmt.emax (f : Fmt) : Int := if f = fE2M1 then 2 else if f = fE4M3 then 8 else 15

/-- MXScale (R121). -/
def mxScale (f : Fmt) (xs : List FVal) : Nat :=
  if xs.any fun x => match x with
      | .fin _ _ _ => false
      | _ => true then 0xFF
  else
    match maxLog xs with
    | none => 0
    | some l => (min (max (l - f.emax) (-127)) 127 + 127).toNat

/-- MXElement (R122). -/
def mxElement (f : Fmt) (code : Nat) (x : FVal) : Nat :=
  if code = 0xFF then (if f = fE2M1 then 0 else f.nanCode)
  else
    match x with
    | .fin neg m e =>
      let v := FVal.fin neg m (e - e8m0Exp code)
      let lim := match decodeF f f.maxCode with
        | .fin _ n g => FVal.fin neg n g
        | y => y
      if m ≠ 0 ∧ cmpF (absF v) (absF lim) > 0 then roundNE f lim else roundNE f v
    | _ => f.nanCode

/-- An MX element scaled (R123); code 0xFF of the scale makes every element NaN. -/
def mxValue (f : Fmt) (code x : Nat) : FVal :=
  if code = 0xFF then .nan
  else
    match decodeF f x with
    | .fin neg m e => .fin neg m (e + e8m0Exp code)
    | v => v

/-- Coordinate `i` of a codebook index is negative (R124). -/
def cbkNeg (index i : Nat) : Bool :=
  if i < 7 then index.testBit (1 + i)
  else decide (((List.range 7).filter fun j => index.testBit (1 + j)).length % 2 = 1)

/-- Weight `i` of an index, before its scale (R125): in units of 1/4. -/
def cbkValue (table : List Word) (index i : Nat) : FVal :=
  let c := (table.getD (index / 256) 0).toNat / 2 ^ (4 * i) % 16
  .fin (cbkNeg index i) (2 * c + index % 2) (-2)

/-- One word of a read-modify-write (R175, R362). -/
def atomWord (op : AtomOp) (et : ElemType) (v x y : Word) : Word :=
  match op with
  | .add => if et = .f32 then BitVec.ofNat 32 (arithElem .f32 { rm := .rne, sat := false, dnz := false } .add v.toNat x.toNat) else v + x
  | .min => BitVec.ofNat 32 (arithElem et { rm := .rne, sat := false, dnz := false } .min v.toNat x.toNat)
  | .max => BitVec.ofNat 32 (arithElem et { rm := .rne, sat := false, dnz := false } .max v.toNat x.toNat)
  | .and => v &&& x
  | .or => v ||| x
  | .xor => v ^^^ x
  | .xchg => x
  | .cas => if v = x then y else v

end Sys2Proof.Machine
end

