-- ==== Sys2Proof/Machine/State.lean ====
section
/-! DEFINITION. The state of the package, as plain data: everything the spec gives the machine. -/

namespace Sys2Proof.Machine

/-- A sparse table: keys rise strictly, and an absent key stands for a default. -/
abbrev Table (α : Type) := List (Nat × α)

/-- A vector register: one word per lane, 64 lanes (R11). -/
abbrev Row := List Word

/-- The class a heading's direction part holds beside its codes (R292). -/
inductive HeadClass where
  | normal | zero | nan
deriving DecidableEq, Repr

/-- The direction part of a heading: its class and 2W codes in Q1.14 (R126, R292). -/
structure Direction where
  cls : HeadClass
  codes : List Half
deriving DecidableEq, Repr

/-- Where a result goes. -/
inductive Dest where
  /-- ZR: the result is discarded (R42). -/
  | none
  /-- Static register Vn. -/
  | v (n : Nat)
  /-- A slot of the core's brew file (R97). -/
  | brew (slot : Nat)
  /-- The reserved entry `id` of keg Kk (R37). -/
  | keg (k id : Nat)
  | s (n : Nat)
  | p (n : Nat)
  /-- The direction part of a heading. -/
  | dir (n : Nat)
  /-- The norm-file entry of a heading. -/
  | norm (n : Nat)
deriving DecidableEq, Repr

/-- What a result holds. -/
inductive Payload where
  | row (r : Row)
  | word (w : Word)
  | mask (m : Mask)
  | dir (d : Direction)
deriving DecidableEq, Repr

/-- A short-latency result that is not yet visible (R51): it is written in `lanes` from cycle `due` on.
`first` is the cycle of its word's first pass and `split` the split that issued it, `present` says that its visibility sets the
presence of its brew register (R99). -/
structure PendWrite where
  dest : Dest
  payload : Payload
  lanes : Mask
  first : Nat
  split : Nat
  due : Nat
  seq : Nat
  present : Bool
deriving DecidableEq, Repr

/-- The trap classes of R227. -/
inductive TrapClass where
  | und | illop | clause | converge | regbound | priv | align | page | prot | memkind | array
  | slice | dangle | counter | queue | link | svc | bkpt | poison | lantern | fabric | stack
deriving DecidableEq, Repr

/-- The causes of replayable faults (R140). -/
inductive FaultCause where
  | notValid | noRead | noWrite | noExec | migrating | malformed | link | lantern
deriving DecidableEq, Repr

/-- A record in the fault ring that a parked access waits for (R140, R141). -/
structure FaultRef where
  ten : Nat
  seq : Word
  cause : FaultCause
  asid : Nat
  va : DWord
  lanes : Mask
deriving DecidableEq, Repr

/-- A translated address: physical location, memory kind (R132; 255 for an SRAM window), the
encryption key slot and its generation, and the access counter it counts in (R142). -/
structure Xlat where
  loc : Nat
  kind : Nat
  key : Option (Nat × Nat)
  counter : Option Nat
deriving DecidableEq, Repr

/-- One lane's part of a memory access within one 8-byte location (R149): `len` bytes at `va`, which
are the bytes from `off` on of the lane's data. A part whose translation faults is the lane's whole access, with the record
of each faulting page that it waits for (R140). -/
structure Piece where
  lane : Nat
  off : Nat
  len : Nat
  va : DWord
  at? : Option Xlat
  data : List Byte
  done : Bool
  faults : List FaultRef
deriving DecidableEq, Repr

/-- What an access does at memory. -/
inductive AccessKind where
  | load | store
  | atomic (op : AtomOp) (et : ElemType)
  | reduce (op : AtomOp) (et : ElemType)
deriving DecidableEq, Repr

/-- Where loaded data goes: `n` static registers from `d` on, or one brew or keg destination, or
scalars, with `width` bytes of data per lane. -/
inductive LoadDest where
  | rows (d n : Nat)
  | one (d : Dest)
  | scalars (s n : Nat)
  | nowhere
deriving DecidableEq, Repr

/-- An outstanding memory access (R47, R138, R151 to R153). `engine` is the code of R140, `tile` the tile address of
an LDF or STF, `remote` says that its remote parts have been sent, `sext` that loaded data is sign-extended, `buffered` that
it holds an entry of the fault buffer until it completes (R139), `late` that it issued behind an acquire load still to be
performed and is translated when it is performed (R153, R162). -/
structure Access where
  kind : AccessKind
  dest : LoadDest
  lanes : Mask
  pieces : List Piece
  acq : Option Scope
  rel : Option Scope
  engine : Nat
  tile : Option DWord
  performed : Bool
  remote : Bool
  sext : Bool
  buffered : Bool
  late : Bool
deriving DecidableEq, Repr

/-- A matrix instruction in the array (R182, R183, R186). `bs` holds for each quarter the rows the
register of the partner held at issue and from each write completing while B is read. -/
structure MatrixOp where
  complex : Bool
  d : Nat
  a : List Row
  c : List Row
  bs : List (List Row)
  partners : List (Option Nat)
  b : Nat
  start : Nat
  compared : Bool
  rerun : Bool
deriving DecidableEq, Repr

/-- What an outstanding long-latency operation still has to do. -/
inductive OpKind where
  | access (a : Access)
  /-- Results known at issue that become visible on completion (R52, R373, R375). -/
  | write (outs : List (Dest × Payload)) (lanes : Mask)
  | matrix (m : MatrixOp)
  /-- Only time passes: the command is accepted or the copy is made (R165, R205, R214). -/
  | hold
  /-- A SURR waits to return the `n` blocks from block `lo` on (R349). -/
  | surr (lo n : Nat)
  /-- The word waits for the replay of a fault of its own reads, and is then made again; it holds its flag meanwhile (R47,
  R165). -/
  | retry
deriving DecidableEq, Repr

/-- An outstanding operation attached to a flag (R47). `blocks` says that the split issues nothing
until the flag clears. `split` is the split that takes its traps, `order` the splits whose later words it precedes in program
order: the issuing one, and those made from it since (R148). -/
structure Op where
  id : Nat
  seq : Nat
  split : Nat
  order : List Nat
  flag : Option Nat
  pc : DWord
  due : Nat
  blocks : Bool
  present : Bool
  kind : OpKind
deriving DecidableEq, Repr

/-- A division a split descends from: its id, whether it was serialised, and the exclusive groups that were open when it
was made (R82, R85, R86). -/
structure Division where
  id : Word
  serial : Bool
  group : Nat
deriving DecidableEq, Repr

/-- The clause a split stands in (R45, R46): the header's address and word, how many words of the body are left, and those of
them that the instruction buffer holds, from the next one on (R198). -/
structure Clause where
  addr : DWord
  word : Word
  left : Nat
  held : List Word
deriving DecidableEq, Repr

/-- Why one split issues nothing (R29). -/
inductive Park where
  | running
  /-- A brew register read is not yet present (R98). -/
  | presence
  /-- Replayable faults: the word or fetch is made again after REPLAY (R138). -/
  | fault (recs : List FaultRef)
  /-- The access `op` has faulting lanes (R138). -/
  | access (op : Nat)
  /-- Arrived at the RJOIN at `addr` (R84). -/
  | rjoin (addr : DWord)
  /-- As `rjoin`, with a fault met on the spill record (R389). -/
  | record (addr : DWord) (recs : List FaultRef)
  | claim
  /-- A fence, or a VSTR.DOM, waits for its conditions (R153, R160, R161); what it waits for was issued before the name `since` was
  given (R323). -/
  | fence (since : Nat)
deriving DecidableEq, Repr

/-- A live split (R81). `lastIssue` is the cycle it issued in, or, while it is `unissued`, the one it was made or resumed in (R27). -/
structure Split where
  mask : Mask
  pc : DWord
  clause : Option Clause
  resumeAt : Option DWord
  path : List Division
  latches : List (Option Nat)
  park : Park
  lastPass : Option Nat
  lastIssue : Nat
  unissued : Bool
  wakeAt : Nat
  losses : Nat
  yielded : Bool
  starving : Bool
  group : Nat
  /-- An EXIT of its warp has stopped it: it issues only a word that is to be made again (R282). -/
  stopped : Bool
deriving DecidableEq, Repr

/-- A live divergence spill record as the core keeps it (R85): the header of the BRDIV's clause, the BRDIV, the mask of the
dividing split, and, once its taken side is parked, the clause that side stands in and the name under which what it has outstanding goes
on. -/
structure SpillRec where
  hdr : DWord
  hdrWord : Word
  brdiv : DWord
  mask : Mask
  id : Word
  joinAt : Option Clause
  owner : Nat
deriving DecidableEq, Repr

/-- Why a whole warp issues nothing (R29, R231, R282). `seq` is the trap-ring sequence; `record` is the record of a QPUSH,
empty for a QPOP. -/
inductive WarpPark where
  | keg (k : Nat)
  | cask (c : Nat) (record : List Word)
  | barrier (b : Nat) (phase : Nat)
  /-- A second arrival in one phase, made again in the next (R261). -/
  | arrival (b : Nat) (phase : Nat)
  | quadBarrier
  | batches (cls : EngineClass) (n : Word)
  | wake
  | brew
  | exiting
  | trapRing (seq : Word)
deriving DecidableEq, Repr

/-- A trap: class, INFO, faulting lanes (R227, R232). -/
structure Trap where
  cls : TrapClass
  info : Word
  lanes : Mask
deriving DecidableEq, Repr

/-- A trap waiting for its split's next instruction boundary; `late` marks those of R229. -/
structure DeferredTrap where
  trap : Trap
  pc : DWord
  split : Nat
  late : Bool
  /-- NPC and HDR, where they are not those of the boundary at which it is taken. -/
  back : Option (DWord × DWord)
deriving DecidableEq, Repr

/-- A batch that failed (R174). -/
structure FailedBatch where
  batch : Word
  trap : Trap
deriving DecidableEq, Repr

/-- The batches of one engine class (R173): open number, outstanding commands with their batch,
batches that failed and are not yet taken. -/
structure Batches where
  opened : Word
  cmds : List (Nat × Word)
  failed : List FailedBatch
deriving DecidableEq, Repr

/-- A resident warp or iteration warp. -/
structure Warp where
  wg : Nat
  ten : Nat
  asid : Nat
  index : Nat
  iter : Option Nat
  born : Nat
  s : List Word
  v : List Row
  p : List Mask
  dirs : List Direction
  norms : List Word
  mode : Half
  allot : Nat
  splits : Table Split
  divCtr : Word
  spills : List SpillRec
  groups : List Word
  exited : Mask
  pend : List PendWrite
  ops : List Op
  bK : Batches
  bA : Batches
  bN : Batches
  bG : Batches
  waking : Bool
  svsp : Word
  sbase : Word
  stkhi : Word
  frame : List Byte
  service : Bool
  handler : Option Nat
  deferred : List DeferredTrap
  bkpt : Option (Nat × Trap)
  park : Option WarpPark
  parkSplit : Nat
  parkOrder : Nat
  arrivals : Table Nat
  deferPresence : List Nat
  deferXrel : Bool
deriving DecidableEq, Repr

/-- A keg entry: its number, its place among the keg's `cap` places, and whether it has been written (R37). Its words lie in
the workgroup's SRAM. -/
structure KegEntry where
  id : Nat
  place : Nat
  written : Bool
deriving DecidableEq, Repr

/-- A keg descriptor and its entries, oldest first (R36): `base` in 256-byte units of the workgroup's SRAM, `next` the place of the next
push. -/
structure Keg where
  base : Nat
  cap : Nat
  next : Nat
  entries : List KegEntry
deriving DecidableEq, Repr

/-- A workgroup barrier: phase number, count of the open phase, warps arrived (R261). -/
structure Barrier where
  phase : Nat
  count : Nat
  arrived : List Nat
deriving DecidableEq, Repr

/-- A workgroup on a core. `warps` are the slots of its live warps by warp index. -/
structure Workgroup where
  launch : Nat
  ten : Nat
  linear : Nat
  grid : Nat
  core : Nat
  asid : Nat
  sram : Nat
  sramBytes : Nat
  n : Nat
  allot : Nat
  brewSlots : Nat
  entry : DWord
  block : DWord
  ssz : Nat
  slen : Nat
  kegs : List Keg
  barriers : List Barrier
  quads : List (List Nat)
  warps : Table Nat
  slots : List Nat
  freeBrew : List Nat
  relocatable : Bool
  bound : Bool
  draining : Bool
  killed : Bool
deriving DecidableEq, Repr

/-- The active brew of a core (R92, R93, R105). -/
structure Brew where
  wg : Nat
  host : Nat
  n : Nat
  stages : Nat
  fresh : Nat
  ages : Nat
  blocks : Nat
  depth : Nat
  resume : DWord
  start : DWord
  next : Nat
  regs : List Word
  mode : Half
  lastSpawn : Option Nat
  requested : Bool
deriving DecidableEq, Repr

/-- A BREW parked until no brew is active, and its place in the order of arrival (R92, R105). -/
structure BrewWait where
  brew : Brew
  order : Nat
deriving DecidableEq, Repr

/-- One vector pass booked in a quadrant's slot: cycle, warp slot, split, the cycle of its word's first pass, lanes of its half,
banks its pass reads, brew banks it reads in this very cycle, and engine port (R25, R26, R83, R98). `solo` forbids pairing. -/
structure Pass where
  cycle : Nat
  slot : Nat
  split : Nat
  first : Nat
  word : BitVec 32
  banks : List Nat
  reads : List Nat
  port : Option Nat
  solo : Bool
deriving DecidableEq, Repr

/-- A request in a quadrant's claim queue (R32): a split of a warp, or the next iteration warp. -/
structure ClaimReq where
  slot : Option Nat
  split : Nat
  n : Nat
deriving DecidableEq, Repr

/-- A quadrant of a core. -/
structure Quad where
  pool : Nat
  claims : List ClaimReq
  passes : List Pass
  scalarAt : Option Nat
  arrayFree : Nat
  rerunCount : Nat
  failCount : Nat
deriving DecidableEq, Repr

/-- A cached translation (R137): ASID, first VA of the page, size of the page as a power of two, PTE and the PTE's place. -/
structure TlbEntry where
  asid : Nat
  base : Nat
  log : Nat
  pte : DWord
  loc : Nat
deriving DecidableEq, Repr

/-- A cached walk entry (R137): ASID, first VA that the non-leaf entry covers, size of what it covers as a power of two, the
entry. -/
structure WalkEntry where
  asid : Nat
  base : Nat
  log : Nat
  pte : DWord
deriving DecidableEq, Repr

/-- A Kiln command (R165, R172). An expansion holds the lattice table that the commands accepted before it leave. -/
inductive KilnJob where
  | expand (record : List Byte) (table : List Word)
  | pack (record : List Byte)
  | lattice (t : Nat) (words : List Word)
deriving DecidableEq, Repr

/-- A command in a Kiln queue, and the fault it is parked on (R174). -/
structure KilnCmd where
  id : Nat
  slot : Nat
  ten : Nat
  asid : Nat
  service : Bool
  lanes : Mask
  warp : Word
  job : KilnJob
  due : Nat
  faults : List FaultRef
deriving DecidableEq, Repr

/-- A record that a counter at zero has released and that has not reached its cask (R215, R216): the cycle and the
counter order it. -/
structure Release where
  words : List Word
  cask : Nat
  counter : Nat
  cycle : Nat
  faults : List FaultRef
deriving DecidableEq, Repr

/-- A core. -/
structure Core where
  ten : Option Nat
  clkLost : Nat
  gatedAt : Option Nat
  /-- Cycle in which the core became idle, and the idle time in µs that was set then (R243, R258). -/
  idleSince : Option (Nat × Nat)
  wakeAt : Option Nat
  temp : Nat
  droops : List Nat
  hot : Bool
  tlb : List TlbEntry
  walks : List WalkEntry
  lattice : Table (List Word)
  kiln : List KilnCmd
  brew : Option Brew
  brewWait : List BrewWait
  brewFile : Table Row
  presence : BitVec 256
  blocks : Table Nat
  releases : List Release
  quads : List Quad
deriving DecidableEq, Repr

/-- A cask (R212, R213): the spill ring holds `spilled` records from position `head` on. -/
structure Cask where
  en : Bool
  pri : Bool
  spill : DWord
  scap : Nat
  asid : Nat
  ten : Nat
  recs : List (List Word)
  head : Nat
  spilled : Nat
  faults : List FaultRef
deriving DecidableEq, Repr

/-- A dependency counter (R215). -/
structure Counter where
  value : Half
  att : Option (List Word × Nat)
deriving DecidableEq, Repr

/-- A reduction accepted by a combiner (R160, R175). `seq` is that of its NMRED. `applied` says that the combiner has applied it; it then
stands outside the coherence order of its location until its warp's NMFENCE. -/
structure Reduction where
  id : Nat
  slot : Nat
  cmd : Nat
  op : AtomOp
  et : ElemType
  val : Word
  seq : Nat
  va : DWord
  xl : Xlat
  asid : Nat
  ten : Nat
  due : Nat
  applied : Bool
deriving DecidableEq, Repr

/-- A store, atomic or reduction sent to another package and not yet acknowledged (R160, R161). `seq` is that of its word. -/
structure RemoteWrite where
  id : Nat
  seq : Nat
  slot : Nat
  op : Nat
  cmd : Nat
  pc : DWord
  split : Nat
  va : DWord
  lanes : Mask
  sent : Nat
  due : Nat
  reduction : Bool
deriving DecidableEq, Repr

/-- A record ring of a tenancy (R247): indexes, and records waiting while it is full. -/
structure Ring where
  base : DWord
  log : Nat
  asid : Nat
  prod : Word
  cons : Word
  waiting : List (List Byte)
deriving DecidableEq, Repr

/-- The packet a queue is held by because one of its accesses faulted (R388). -/
structure Held where
  recs : List FaultRef
deriving DecidableEq, Repr

/-- A command queue of a tenancy (R240, R241, R249). `live` are the taken packets not yet completed, `unloads` the UNLOADs
among them whose effect waits: index, handle, CPL. -/
structure Queue where
  spec : QueueSpec
  wr : Nat
  rd : Nat
  live : List Nat
  unloads : List (Nat × Nat × DWord)
  held : Option Held
  served : Nat
deriving DecidableEq, Repr

/-- A tenancy (R240). -/
structure Tenancy where
  coreSet : List Nat
  asids : List Nat
  keys : List Nat
  tvb : DWord
  fseq : Word
  tseq : Word
  thresh : Nat
  fault : Ring
  trap : Ring
  notif : Ring
  queues : Table Queue
  stopped : Bool
  /-- A reset waits for the gated cores of the core set to run (R258). -/
  resetting : Bool
deriving DecidableEq, Repr

/-- A completion word still to be written (R244, R388). -/
structure Completion where
  ten : Nat
  queue : Nat
  index : Nat
  va : DWord
  status : Nat
  result : Word
  faults : List FaultRef
deriving DecidableEq, Repr

/-- A kernel of a loaded image (R254). -/
structure Kernel where
  entry : Nat
  warps : Nat
  allot : Nat
  brew : Nat
  sram : Nat
  kegs : List Word
deriving DecidableEq, Repr

/-- A loaded code object (R251 to R255). `refs` names the queue of each reference, as tenancy × 16 + queue. -/
structure Handle where
  ten : Nat
  cb : DWord
  size : Nat
  t1 : Bool
  kernels : Table Kernel
  binds : List Nat
  refs : List Nat
deriving DecidableEq, Repr

/-- A launch whose workgroups have not all retired (R244, R249). -/
structure Launch where
  ten : Nat
  queue : Nat
  index : Nat
  cpl : DWord
  handle : Nat
  kernel : Kernel
  entry : DWord
  dims : Nat × Nat × Nat
  asid : Nat
  args : List Byte
  stack : DWord
  ssz : Nat
  slen : Nat
  relocatable : Bool
  needFull : Bool
  t1 : Bool
  next : Nat
  retired : Nat
  killed : Bool
  /-- The gated core that its next workgroup is to be placed on once it runs (R258). -/
  target : Option Nat
deriving DecidableEq, Repr

/-- A pre-emption under way (R234): that of a packet, or, with no queue, of work from a higher-priority queue. -/
structure Preemption where
  wg : Nat
  ten : Nat
  queue : Option Nat
  index : Nat
  cpl : DWord
  area : DWord
  size : Nat
  faults : List FaultRef
deriving DecidableEq, Repr

/-- What made parked accesses go on: a REPLAY write of a tenancy (R141), or a migrated page (R145). -/
inductive Again where
  | upTo (ten : Nat) (n : Word)
  | page (asid va log : Nat)
deriving DecidableEq, Repr

/-- A saved context record (R235). Its layout is not architectural, so it is kept as data; `warps` are keyed by warp
index. `gid` is the workgroup's number, `claims` are its requests (warp index, split,
blocks), `waiting` says that the distributor itself restores it, `replays` what has covered its replay records since the save (R234). -/
structure Context where
  va : DWord
  ten : Nat
  gid : Nat
  wg : Workgroup
  warps : List (Nat × Warp)
  sram : List Byte
  /-- The bytes of `sram` that are marked uncorrectable (R229). -/
  marks : List Nat
  brew : Option Brew
  waits : List BrewWait
  brewFile : Table Row
  presence : BitVec 256
  blocks : Table Nat
  claims : List (Nat × Nat × Nat)
  waiting : Bool
  replays : List Again
  /-- The gated core that it is to return to once it runs (R258). -/
  target : Option Nat
deriving DecidableEq, Repr

/-- A command of the migration engine (R144). -/
structure Migration where
  ten : Nat
  queue : Nat
  index : Nat
  cpl : DWord
  asid : Nat
  va : DWord
  expected : DWord
  newPte : DWord
  scope : Nat
  pteLoc : Nat
  log : Nat
deriving DecidableEq, Repr

/-- A sequence on a Lantern die (R217). Lengths are by layer × 128 + KV head. -/
structure LanternSeq where
  ten : Nat
  id : Nat
  layers : Nat
  heads : Nat
  e4m3 : Bool
  home : Nat
  sK : List Word
  sV : List Word
  lens : Table Nat
deriving DecidableEq, Repr

/-- A stage-1 entry (R218). -/
structure Stage1 where
  ten : Nat
  seq : Nat
  layer : Nat
  head : Nat
  block : Nat
  node : Nat
  tier : Nat
  global : Nat
deriving DecidableEq, Repr

/-- A stage-2 entry and the tenancy that owns the global block (R218, R225). -/
structure Stage2 where
  global : Nat
  tier : Nat
  phys : Nat
  ten : Nat
deriving DecidableEq, Repr

/-- A free physical block of a tenancy's pool (R225). -/
structure PoolBlock where
  ten : Nat
  tier : Nat
  phys : Nat
deriving DecidableEq, Repr

/-- The operation of a Lantern command. -/
inductive LanternOp where
  | query | append | control | hint
deriving DecidableEq, Repr

/-- A command at a Lantern die (R219): `start` is the length of its sequence, layer and head at acceptance (R220, R223). -/
structure LanternCmd where
  id : Nat
  op : LanternOp
  slot : Nat
  ten : Nat
  asid : Nat
  service : Bool
  record : List Byte
  recVa : DWord
  lanes : Mask
  warp : Word
  start : Nat
  due : Nat
  faults : List FaultRef
deriving DecidableEq, Repr

/-- A Lantern die (R217 to R226). `mode` is the prefetch mode: 0 automatic, 1 hints only, 2 off. `seen` holds tenancy, sequence and
layer of the LQRYs accepted since the staging buffers last swapped, `hints` those of LPF; `staged` and `filling` are the
blocks in the two buffers, as node × 2^32 + global number. -/
structure LanternDie where
  seqs : List LanternSeq
  stage1 : List Stage1
  stage2 : List Stage2
  pool : List PoolBlock
  cmds : List LanternCmd
  mode : Nat
  seen : List (Nat × Nat × Nat)
  hints : List (Nat × Nat × Nat)
  staged : List Nat
  filling : List Nat
deriving DecidableEq, Repr

/-- A key slot: the tenancy it is owned to and the generation of its key (R146). -/
structure KeySlot where
  ten : Nat
  gen : Nat
deriving DecidableEq, Repr

/-- The answer to an outside access: data, data that memory marks uncorrectable, or an error (R161, R229, R239). -/
inductive Response where
  | data (bytes : List Byte)
  | poison
  | done
  | error
deriving DecidableEq, Repr

/-- The package. -/
structure State where
  /-- Bring-up level: 0 FIRMWARE, 1 REDUCED, 2 FULL (R242, R257). -/
  level : Nat
  /-- Cycles of the core clock since package reset (R3). -/
  now : Nat
  dtbase : DWord
  tavoid : Nat
  gidle : Nat
  mem : List Host.Cell
  /-- Locations whose data memory marks uncorrectable (R229). -/
  poison : List Nat
  /-- Place and length of the rows that this package has stored in blocks of other nodes (R218). -/
  farRows : List (Nat × Nat)
  /-- Stores to slices of gated cores, latched with their wake messages until the core runs (R258): location and bytes, oldest first. -/
  latched : List (Nat × List Byte)
  /-- The key slot and generation each written encrypted sector was written under (R146). -/
  sectorKeys : Table (Nat × Nat)
  keySlots : Table KeySlot
  frameOwner : Table Nat
  tenancies : Table Tenancy
  cores : Table Core
  casks : Table Cask
  counters : Table Counter
  warps : Table Warp
  wgs : Table Workgroup
  launches : Table Launch
  handles : Table Handle
  cpls : List Completion
  preempts : List Preemption
  ctxs : List Context
  migs : Table Migration
  lanterns : List LanternDie
  reds : List Reduction
  remotes : List RemoteWrite
  cxlResp : Option Response
  remoteResp : Option Response
  /-- The model's own: the environment's events still to come, each with its earliest cycle (entry 1). -/
  inputs : List (Nat × Instr)
  /-- The model's own: open times still to be taken, 1 when none is left (R387, entry 1). -/
  times : List Nat
  /-- The model's own: counter of free values (entries 5 to 7). -/
  fresh : Nat
  /-- The model's own: the slot and split whose word the step executes (entry 1). -/
  cur : Option (Nat × Nat)
  /-- The model's own: the next name for an operation, command, entry or parking place. -/
  nextId : Nat
deriving DecidableEq, Repr

/-- How a step stops with a fault. -/
inductive Fault where
  /-- Raised by no step: every error the spec describes is a trap, a packet status or a waiting record,
  which are next states. Safe. -/
  | none
deriving DecidableEq, Repr

/-- How a step is refused. -/
inductive Refusal where
  /-- Raised by an arm of `exec` whose instruction has no meaning in this model. Safe. -/
  | notModelled (mnemonic : String)
deriving DecidableEq, Repr

/-- A Lantern die after reset: empty, prefetch mode automatic (entry 4). -/
def LanternDie.empty : LanternDie :=
  { seqs := [], stage1 := [], stage2 := [], pool := [], cmds := [], mode := 0, seen := [],
    hints := [], staged := [], filling := [] }

/-- The package right after reset (R257): FIRMWARE, nothing resident. Absent keys of the tables stand for
the reset values of cores, casks and counters, which their readers give. -/
def State.reset : State :=
  { level := 0, now := 0, dtbase := 0, tavoid := 95, gidle := 100, mem := [], poison := [], farRows := [], latched := [],
    sectorKeys := [], keySlots := [], frameOwner := [], tenancies := [], cores := [], casks := [],
    counters := [], warps := [], wgs := [], launches := [], handles := [], cpls := [], preempts := [],
    ctxs := [], migs := [], lanterns := [LanternDie.empty, LanternDie.empty], reds := [], remotes := [],
    cxlResp := none, remoteResp := none, inputs := [], times := [], fresh := 0, cur := none, nextId := 0 }

end Sys2Proof.Machine
end

