-- ==== Sys2Proof/Machine/Mem.lean ====
section
/-! DEFINITION. Tables, physical memory and its bytes, encryption sectors, and small helpers of the state. -/

namespace Sys2Proof.Machine

/-! Sparse tables. -/

/-- The entry of key `k`, if listed. -/
def tget {α : Type} : Table α → Nat → Option α
  | [], _ => none
  | (j, x) :: r, k => if j = k then some x else tget r k

/-- The table with `x` at key `k`, keys rising. -/
def tset {α : Type} : Table α → Nat → α → Table α
  | [], k, x => [(k, x)]
  | (j, y) :: r, k, x =>
    if k < j then (k, x) :: (j, y) :: r else if j = k then (k, x) :: r else (j, y) :: tset r k x

/-- The table without key `k`. -/
def tdel {α : Type} : Table α → Nat → Table α
  | [], _ => []
  | (j, y) :: r, k => if j = k then tdel r k else (j, y) :: tdel r k

/-- The entry of key `k`, or `d` when it is not listed. -/
def tgetD {α : Type} (t : Table α) (k : Nat) (d : α) : α := (tget t k).getD d

/-! Memory. -/

/-- Physical spaces: an address is space × 2^56 plus an offset (R132). -/
def space (n : Nat) : Nat := n * 2 ^ 56

/-- The space of a physical address. -/
def spaceOf (loc : Nat) : Nat := loc / 2 ^ 56

/-- Byte `o` of core `c`'s SRAM slice (R9, R130). -/
def sramLoc (c o : Nat) : Nat := c * Config.sliceBytes + o

/-- Byte `a` of compute HBM. -/
def hbmLoc (a : Nat) : Nat := space 1 + a

/-- Byte `a` of T2. -/
def t2Loc (a : Nat) : Nat := space 2 + a

/-- Byte `a` of host memory. -/
def hostLoc (a : Nat) : Nat := space 3 + a

/-- Byte `a` of Lantern die `d`'s HBM (tier 1), which no program maps, or of its half of the LPDDR6 (tier 2, entry 15). -/
def lanternLoc (d tier a : Nat) : Nat :=
  if tier = 1 then space 7 + d * 2 ^ 48 + a else t2Loc (d * (Config.t2Bytes / 2) + a)

/-- Byte `a` of global block `n` of a Lantern die of another node: from space 8 up, 2^50 bytes to a node (R218). -/
def farBlockLoc (node n a : Nat) : Nat := space 8 + node * 2 ^ 50 + n * 2 ^ 17 + a

/-- The location lies in a block of another node (R218). -/
def farBlock (loc : Nat) : Bool := decide (space 8 ≤ loc)

/-- What a location nothing has written reads as (entry 2). -/
def emptyByte : Byte := 0

/-- The byte at a location. -/
def memByte : List Host.Cell → Nat → Byte
  | [], _ => emptyByte
  | (b, x) :: r, a => if b = a then x else memByte r a

/-- Memory with `x` at `a`, kept in canonical form. -/
def memSet : List Host.Cell → Nat → Byte → List Host.Cell
  | [], a, x => if x = emptyByte then [] else [(a, x)]
  | (b, y) :: r, a, x =>
    if a < b then (if x = emptyByte then (b, y) :: r else (a, x) :: (b, y) :: r)
    else if b = a then (if x = emptyByte then r else (a, x) :: r)
    else (b, y) :: memSet r a x

/-- Canonical form: addresses rise strictly, and no entry equals what an unlisted address reads as. -/
def memWf : List Host.Cell → Bool
  | [] => true
  | (a, x) :: r => decide (x ≠ emptyByte) && (r.all fun c => decide (a < c.1)) && memWf r

/-- `n` bytes from `a` on. -/
def memBytes (m : List Host.Cell) (a n : Nat) : List Byte := (List.range n).map fun i => memByte m (a + i)

/-- Memory with `xs` from `a` on. -/
def memWrite : List Host.Cell → Nat → List Byte → List Host.Cell
  | m, _, [] => m
  | m, a, x :: xs => memWrite (memSet m a x) (a + 1) xs

/-- The number little-endian bytes stand for (R4). -/
def leNat : List Byte → Nat
  | [] => 0
  | b :: r => b.toNat + 256 * leNat r

/-- `n` little-endian bytes of a number (R4). -/
def leBytes : Nat → Nat → List Byte
  | 0, _ => []
  | n + 1, v => BitVec.ofNat 8 v :: leBytes n (v / 256)

/-- A field of `n` bytes at offset `o` of a record. -/
def field (rec : List Byte) (o n : Nat) : Nat := leNat ((rec.drop o).take n)

/-- The little-endian word at a location. -/
def memNat (m : List Host.Cell) (a n : Nat) : Nat := leNat (memBytes m a n)

/-- The bytes of a memory that lie outside a sector at `sec × 64`. -/
def sectorOf (loc : Nat) : Nat := loc / 64

/-- The sector written under another key loses its data: every byte becomes a free value (R146, entry 6). -/
def scramble (s : State) (sec : Nat) : State :=
  { s with
    mem := memWrite s.mem (64 * sec) ((List.range 64).map fun i => Config.freeData s.fresh i)
    fresh := s.fresh + 1 }

/-- Some byte of the sector is listed. -/
def sectorUsed (s : State) (sec : Nat) : Bool :=
  (memBytes s.mem (64 * sec) 64).any fun b => decide (b ≠ emptyByte)

/-- A byte of the coherence order read through a key slot, or without one: the data decrypted with that slot. Data written
without a key and read through a slot is decrypted too (R146, entry 6). DESIGN CHOICE (entry 6): a sector that holds zeros alone and was never
written under a key reads as zeros through any slot. -/
def rawVia (s : State) (key : Option (Nat × Nat)) (loc : Nat) : Byte :=
  match tget s.sectorKeys (sectorOf loc) with
  | none => if key.isSome && sectorUsed s (sectorOf loc) then Config.freeByte s.fresh key loc else memByte s.mem loc
  | some k => if key = some k then memByte s.mem loc else Config.freeByte s.fresh key loc

/-- `n` bytes of the coherence order. -/
def rawBytes (s : State) (key : Option (Nat × Nat)) (loc n : Nat) : List Byte :=
  (List.range n).map fun i => rawVia s key (loc + i)

/-- A choice among `n` outcomes the manual allows: a free value (entry 7). The tag tells apart choices made at one value
of the counter. -/
def choose (s : State) (tag n : Nat) : Nat := Config.freeChoice s.fresh tag % n

/-- The slot, which no warp has, of a reduction that another package sent (R176). -/
def outsideSlot : Nat := 64 * Config.cores

/-- The 8-byte location of a reduction (R149). -/
def Reduction.location (r : Reduction) : Nat := r.xl.loc / 8

/-- Reductions applied at location `l` and not yet placed in its coherence order, in arrival order (R149, R160). -/
def unplaced (s : State) (l : Nat) : List Reduction := s.reds.filter fun r => r.applied && decide (r.location = l)

/-- The bytes of a location with one reduction made in the word it names. -/
def reduceIn (bs : List Byte) (r : Reduction) : List Byte :=
  let o := r.xl.loc % 8
  bs.take o ++ leBytes 4 (atomWord r.op r.et (BitVec.ofNat 32 (field bs o 4)) r.val 0).toNat ++ bs.drop (o + 4)

/-- The bytes a load of location `l` sees: some prefix of the reductions applied there, on the value of the coherence order
(R160, entry 7). -/
def reducedBytes (s : State) (key : Option (Nat × Nat)) (l : Nat) : List Byte :=
  let rs := unplaced s l
  (rs.take (choose s (2 * (2 ^ 20 + l)) (rs.length + 1))).foldl reduceIn (rawBytes s key (8 * l) 8)

/-- A byte as a read sees it: a device register's is free (R132, entry 29), that of a location with reductions not yet placed is as R160
says, and any other is that of the coherence order. -/
def readVia (s : State) (key : Option (Nat × Nat)) (loc : Nat) : Byte :=
  if spaceOf loc = 4 then Config.freeDevice s.fresh loc
  else if (unplaced s (loc / 8)).isEmpty then rawVia s key loc
  else (reducedBytes s key (loc / 8)).getD (loc % 8) 0

/-- `n` bytes read through a key slot. -/
def readBytes (s : State) (key : Option (Nat × Nat)) (loc n : Nat) : List Byte :=
  (List.range n).map fun i => readVia s key (loc + i)

/-- The sector is put under a key before it is written: what it held under another key is lost (R146). -/
def rekey (s : State) (key : Option (Nat × Nat)) (sec : Nat) : State :=
  let old := tget s.sectorKeys sec
  if old = key then s
  else
    let s := if old.isSome || sectorUsed s sec then scramble s sec else s
    { s with sectorKeys := match key with
        | some k => tset s.sectorKeys sec k
        | none => tdel s.sectorKeys sec }

/-- One byte written through a key slot; new data is not marked uncorrectable (R229). -/
def writeVia (s : State) (key : Option (Nat × Nat)) (loc : Nat) (x : Byte) : State :=
  let s := rekey s key (sectorOf loc)
  { s with mem := memSet s.mem loc x, poison := if s.poison = [] then [] else s.poison.filter fun a => decide (a ≠ loc) }

/-- Bytes written through a key slot. -/
def writeBytes (s : State) (key : Option (Nat × Nat)) : Nat → List Byte → State
  | _, [] => s
  | loc, x :: xs => writeBytes (writeVia s key loc x) key (loc + 1) xs

/-- Some of `n` bytes from `loc` on are marked uncorrectable (R229). -/
def poisoned (s : State) (loc n : Nat) : Bool :=
  s.poison.any fun a => decide (loc ≤ a) && decide (a < loc + n)

/-- `n` bytes from `loc` on zeroed, of whatever key, with the reductions not yet placed there (R147). -/
def zeroRange (s : State) (loc n : Nat) : State :=
  { s with
    mem := s.mem.filter fun c => !(decide (loc ≤ c.1) && decide (c.1 < loc + n))
    poison := s.poison.filter fun a => !(decide (loc ≤ a) && decide (a < loc + n))
    reds := s.reds.filter fun r => !(r.applied && decide (loc ≤ r.xl.loc) && decide (r.xl.loc < loc + n))
    sectorKeys := s.sectorKeys.filter fun e =>
      !(decide (loc / 64 ≤ e.1) && decide (e.1 < (loc + n) / 64)) }

/-- The marks of `n` bytes from `src` on that are uncorrectable, as distances from `src` (R229). -/
def marksOf (s : State) (src n : Nat) : List Nat :=
  (s.poison.filter fun a => decide (src ≤ a) && decide (a < src + n)).map fun a => a - src

/-- The bytes from `dst` on marked uncorrectable at these distances: data that an engine moves keeps its marks (R222, R312, entry 52). -/
def markBytes (s : State) (dst : Nat) (marks : List Nat) : State :=
  match marks with
  | [] => s
  | _ => { s with poison := s.poison ++ marks.map fun o => dst + o }

/-! Open times and names (R387, entry 1). -/

/-- The next open time, at least 1. -/
def nextTime (s : State) : Nat :=
  match s.times with
  | [] => 1
  | t :: _ => max 1 t

/-- The state with the next open time taken. -/
def dropTime (s : State) : State := { s with times := s.times.drop 1 }

/-- The state with one name taken. -/
def dropName (s : State) : State := { s with nextId := s.nextId + 1 }

/-- The state with one free value taken. -/
def dropFresh (s : State) : State := { s with fresh := s.fresh + 1 }

/-! Cores, quadrants and slots. -/

/-- The slot with number `i` of quadrant `q` of core `c` (R8, R347). -/
def slotKey (c q i : Nat) : Nat := c * 64 + q * 16 + i

def coreOfSlot (k : Nat) : Nat := k / 64

def quadOfSlot (k : Nat) : Nat := k / 16 % 4

def indexOfSlot (k : Nat) : Nat := k % 16

/-- A quadrant after reset: its whole pool free (R19). -/
def Quad.empty : Quad :=
  { pool := Config.poolBlocks, claims := [], passes := [], scalarAt := none, arrayFree := 0, rerunCount := 0, failCount := 0 }

/-- A core after reset (entry 3): 40 degrees, not hot, idle. -/
def Core.empty : Core :=
  { ten := none, clkLost := 0, gatedAt := none, idleSince := some (0, 100), wakeAt := none,
    temp := 160, droops := [], hot := false, tlb := [], walks := [], lattice := [], kiln := [], brew := none,
    brewWait := [], brewFile := [], presence := 0, blocks := [], releases := [],
    quads := [Quad.empty, Quad.empty, Quad.empty, Quad.empty] }

/-- A cask after reset: disabled and empty (R212). -/
def Cask.empty : Cask :=
  { en := false, pri := false, spill := 0, scap := 0, asid := 0, ten := 0, recs := [], head := 0,
    spilled := 0, faults := [] }

/-- A counter after reset (R215). -/
def Counter.empty : Counter := { value := 0, att := none }

/-- Core `c`. -/
def coreAt (s : State) (c : Nat) : Core := tgetD s.cores c Core.empty

/-- The state with core `c` set. -/
def setCore (s : State) (c : Nat) (x : Core) : State := { s with cores := tset s.cores c x }

/-- Quadrant `q` of core `c`. -/
def quadAt (s : State) (c q : Nat) : Quad := (coreAt s c).quads.getD q Quad.empty

/-- The state with quadrant `q` of core `c` set. -/
def setQuad (s : State) (c q : Nat) (x : Quad) : State :=
  let co := coreAt s c
  setCore s c { co with quads := co.quads.set q x }

/-- Warp in slot `k`. -/
def warpAt (s : State) (k : Nat) : Option Warp := tget s.warps k

/-- The state with the warp of slot `k` set. -/
def setWarp (s : State) (k : Nat) (w : Warp) : State := { s with warps := tset s.warps k w }

/-- The workgroup numbered `g`. -/
def wgAt (s : State) (g : Nat) : Option Workgroup := tget s.wgs g

/-- The state with workgroup `g` set. -/
def setWg (s : State) (g : Nat) (x : Workgroup) : State := { s with wgs := tset s.wgs g x }

/-- Cask `c`. -/
def caskAt (s : State) (c : Nat) : Cask := tgetD s.casks c Cask.empty

/-- The state with cask `c` set. -/
def setCask (s : State) (c : Nat) (x : Cask) : State := { s with casks := tset s.casks c x }

/-- Counter `n`. -/
def counterAt (s : State) (n : Nat) : Counter := tgetD s.counters n Counter.empty

/-- The state with counter `n` set. -/
def setCounter (s : State) (n : Nat) (x : Counter) : State := { s with counters := tset s.counters n x }

/-- Tenancy `t`, when it has been created (R240). -/
def tenAt (s : State) (t : Nat) : Option Tenancy := tget s.tenancies t

/-- The state with tenancy `t` set. -/
def setTen (s : State) (t : Nat) (x : Tenancy) : State := { s with tenancies := tset s.tenancies t x }

/-- Core `c` belongs to the core set of tenancy `t` (R130, R212). -/
def inCoreSet (s : State) (t c : Nat) : Bool :=
  match tenAt s t with
  | some x => x.coreSet.contains c
  | none => false

/-- The core's clock runs (R258). -/
def running (s : State) (c : Nat) : Bool := (coreAt s c).gatedAt.isNone

/-- What needs core `c` can be acted on: it runs, or its wake message has still to be sent (R258). -/
def coreWakes (s : State) (c : Nat) : Bool := running s c || (coreAt s c).wakeAt.isNone

/-- A wake message for core `c` is latched (R258): up to the commit cycle it aborts gating, so that a core that runs counts its idle
time anew, and a gated core runs again within 3 µs. -/
def wakeCore (s : State) (c : Nat) : State :=
  let co := coreAt s c
  match co.gatedAt, co.wakeAt with
  | some t, none =>
    if t = s.now then setCore s c { co with gatedAt := none, idleSince := none }
    else
      dropTime (setCore s c { co with wakeAt := some (s.now + min (nextTime s) (3 * Config.cyclesPerMicro (decide (s.level < 2)))) })
  | some _, some _ => s
  | none, _ => if co.idleSince.isSome then setCore s c { co with idleSince := none } else s

/-! Lane masks. -/

/-- The lanes of a mask, ascending. -/
def lanesOf (m : Mask) : List Nat := (List.range 64).filter fun l => m.getLsbD l

/-- The mask of lanes that meet `p`. -/
def maskOf (p : Nat → Bool) : Mask :=
  (List.range 64).foldl (fun m l => if p l then m ||| (1#64 <<< l) else m) 0#64

/-- The row with `f l` in lane `l`. -/
def rowOf (f : Nat → Word) : Row := (List.range 64).map f

/-- A row of zeros. -/
def zeroRow : Row := List.replicate 64 0

/-- Lane `l` of a row. -/
def lane (r : Row) (l : Nat) : Word := r.getD l 0

/-- `new` in the lanes of `m`, `old` elsewhere. -/
def mergeRow (m : Mask) (new old : Row) : Row := rowOf fun l => if m.getLsbD l then lane new l else lane old l

/-- The lowest lane of a mask. -/
def lowLane (m : Mask) : Nat := ((lanesOf m).head?).getD 0

end Sys2Proof.Machine
end

