-- ==== Sys2Proof/Machine/Translate.lean ====
section
/-! DEFINITION. Address checks, page-table walks, cached translations and the kind rules (R130 to R137). -/

namespace Sys2Proof.Machine

/-- What an access needs of a page (R135). -/
inductive Acc where
  | fetch | load | store | atomic
deriving DecidableEq, Repr

/-- The path an access takes, which decides the kinds that it may reach (R132, R176, R179, R219). -/
inductive Path where
  | fetch | plain | atomic | frag | reduce | kiln | lantern | queue
deriving DecidableEq, Repr

/-- Who asks: the slot of the warp it is for (none for units that act for no warp), address space, tenancy, executing core
(none for units outside a core), service mode. -/
structure Req where
  slot : Option Nat
  asid : Nat
  ten : Nat
  core : Option Nat
  svc : Bool
  acc : Acc
  path : Path
deriving DecidableEq, Repr

/-- What goes wrong with the translation of one address: a trap, or a replayable fault with the walk level reached and log2 of
the page it concerns (R140). -/
inductive Err where
  | trap (c : TrapClass) (info : Word)
  | fault (c : FaultCause) (level log : Nat)
deriving DecidableEq, Repr

/-- A faulting page of an access: cause, walk level, log2 of the page, and the lowest faulting address in it (R140). -/
structure PageFault where
  cause : FaultCause
  level : Nat
  log : Nat
  va : DWord
deriving DecidableEq, Repr

/-- Two faults concern one page (R140, entry 25). -/
def PageFault.same (f g : PageFault) : Bool :=
  decide (f.cause = g.cause) && decide (f.level = g.level) && decide (f.va.toNat / 2 ^ f.log = g.va.toNat / 2 ^ f.log)

/-- What goes wrong with a whole access: a trap, or its faulting pages (R138, R140). -/
inductive Bad where
  | trap (c : TrapClass) (info : Word)
  | faults (fs : List PageFault)
deriving DecidableEq, Repr

/-- The regions of R130. -/
inductive Region where
  | window (core off : Nat)
  | localWindow (off : Nat)
  | translated
  | dangle
  | bad
deriving DecidableEq, Repr

/-- The region an address lies in (R130, R207). -/
def region (va : DWord) : Region :=
  let a := va.toNat
  if (va.extractLsb' 48 16).toNat = 0xDEAD then .dangle
  else if a ≥ 2 ^ 47 then .bad
  else if a < 0x7F0000000000 then .translated
  else if a < 0x7F0000000000 + Config.cores * Config.sliceBytes then
    .window ((a - 0x7F0000000000) / Config.sliceBytes) (a % Config.sliceBytes)
  else if 0x7F8000000000 ≤ a ∧ a < 0x7F8000000000 + Config.sliceBytes then
    .localWindow (a - 0x7F8000000000)
  else .bad

/-- Two regions are one region of R130. -/
def sameRegion : Region → Region → Bool
  | .window c _, .window d _ => decide (c = d)
  | .localWindow _, .localWindow _ => true
  | .translated, .translated => true
  | _, _ => false

/-- An address-space descriptor (R136). -/
structure Descriptor where
  root : Nat
  ten : Nat
  dkey : Nat
  flags : Nat
  cbase : Nat
  cvbase : Nat
  clen : Nat
deriving DecidableEq, Repr

/-- Where the descriptor of an ASID lies in compute HBM (R136). -/
def descriptorAddr (s : State) (asid : Nat) : Nat := s.dtbase.toNat + 64 * asid

/-- The descriptor of an ASID, as the walker reads it: the table holds 4,096, and an ASID beyond it has none (R14, R136). -/
def descriptor (s : State) (asid : Nat) : Descriptor :=
  if Config.asids ≤ asid then { root := 0, ten := 0, dkey := 0, flags := 0, cbase := 0, cvbase := 0, clen := 0 }
  else
  let a := hbmLoc (descriptorAddr s asid)
  { root := memNat s.mem a 8, ten := memNat s.mem (a + 8) 2, dkey := memNat s.mem (a + 10) 2,
    flags := memNat s.mem (a + 12) 4, cbase := memNat s.mem (a + 16) 8, cvbase := memNat s.mem (a + 24) 8,
    clen := memNat s.mem (a + 32) 4 }

/-- FLAGS.VALID of a descriptor (R136). -/
def Descriptor.valid (d : Descriptor) : Bool := d.flags.testBit 0

/-- A leaf found by a walk: the entry, where it lies, its level (0 L4 to 3 L1), log2 of the page size, and the non-leaf
entries on the way, with log2 of what each covers. -/
structure Leaf where
  pte : DWord
  loc : Nat
  level : Nat
  log : Nat
  path : List (Nat × DWord)
deriving DecidableEq, Repr

/-- Bits of a PTE (R134). -/
def pteBit (e : DWord) (i : Nat) : Bool := e.getLsbD i

/-- PFN of a PTE (R134). -/
def ptePfn (e : DWord) : Nat := (e.extractLsb' 24 40).toNat

/-- KEY of a leaf (R134). -/
def pteKey (e : DWord) : Nat := (e.extractLsb' 15 9).toNat

/-- KIND of a leaf (R134). -/
def pteKind (e : DWord) : Nat := (e.extractLsb' 12 3).toNat

/-- At REDUCED, the byte of compute HBM lies on stacks 4 to 7, which do not run (R257, entry 8). -/
def stackDown (s : State) (a : Nat) : Bool :=
  decide (s.level < 2) && decide (a ≥ Config.hbmBytes / 2)

/-- Reads one entry of a table at a compute-HBM address (R133, R257, entry 28). -/
def readEntry (s : State) (a : Nat) : Except Err DWord :=
  if stackDown s a then .error (.trap .memkind 0) else .ok (BitVec.ofNat 64 (memNat s.mem (hbmLoc a) 8))

/-- Compute-HBM address of the table a non-leaf entry points to (R133). -/
def tableAddr (e : DWord) (level : Nat) : Nat :=
  ptePfn e * 4096 + (if level = 2 ∧ pteBit e 10 then 256 * (e.extractLsb' 15 4).toNat else 0)

/-- Size of that table in bytes (R133). -/
def tableBytes (e : DWord) (level : Nat) : Nat := if level = 2 ∧ pteBit e 10 then 256 else 4096

/-- Index bits of a level below the root: 0 L4, 1 L3, 2 L2, 3 L1 (R133). -/
def walkIndex (va level : Nat) (big : Bool) : Nat :=
  if level = 0 then va / 2 ^ 39 % 512
  else if level = 1 then va / 2 ^ 30 % 512
  else if level = 2 then va / 2 ^ 21 % 512
  else if big then va / 2 ^ 16 % 32
  else va / 2 ^ 12 % 512

/-- log2 of the page a leaf of a level maps (R133). -/
def leafLog (level : Nat) (big : Bool) : Nat :=
  if level = 1 then 30 else if level = 2 then 21 else if big then 16 else 12

/-- log2 of what an entry of a level covers (R133). -/
def coverLog (level : Nat) (big : Bool) : Nat := if level = 0 then 39 else leafLog level big

/-- Accessed and dirty bits aside, two entries are the same translation. -/
def samePte (x y : DWord) : Bool := decide (x &&& ~~~0xC0#64 = y &&& ~~~0xC0#64)

/-- The tag of the choice between a cached entry and memory's: what the entry covers, its ASID and the core. -/
def cacheTag (core : Option Nat) (asid base log : Nat) : Nat := 2 * (((base * 65536 + asid) * 256 + core.getD 255) * 64 + log) + 1

/-- The entry a walk uses: the one memory holds, or an older one that the core has cached; where they differ a free value
decides (R137, entry 7). -/
def walkEntry (s : State) (core : Option Nat) (asid va log : Nat) (e : DWord) : DWord :=
  match core.bind fun c => (coreAt s c).walks.find? fun t =>
      decide (t.asid = asid) && decide (t.log = log) && decide (t.base = va / 2 ^ log * 2 ^ log) with
  | none => e
  | some t => if !samePte t.pte e && decide (choose s (cacheTag core asid t.base log) 2 = 0) then t.pte else e

/-- The walk from a table at `base`, `fuel` levels still to go (R133, R135, R137). -/
def walkFrom (s : State) (core : Option Nat) (asid va : Nat) : Nat → Nat → Bool → Nat → Except Err Leaf
  | 0, level, big, _ => .error (.fault .malformed level (coverLog level big))
  | fuel + 1, level, big, base =>
    let log := coverLog level big
    match readEntry s (base + 8 * walkIndex va level big) with
    | .error e => .error e
    | .ok m =>
      let e := walkEntry s core asid va log m
      if !pteBit e 0 then .error (.fault .notValid level log)
      else if pteBit e 1 then
        if level = 0 then .error (.fault .malformed 0 log)
        else .ok { pte := e, loc := hbmLoc (base + 8 * walkIndex va level big), level := level, log := log, path := [] }
      else if level ≥ 3 then .error (.fault .malformed 3 log)
      else if tableAddr e level + tableBytes e level > Config.hbmBytes then .error (.fault .malformed level log)
      else
        match walkFrom s core asid va fuel (level + 1) (decide (level = 2) && pteBit e 10) (tableAddr e level) with
        | .error x => .error x
        | .ok l => .ok { l with path := (log, e) :: l.path }

/-- The walk of an address from the root of its ASID (R133). -/
def walk (s : State) (core : Option Nat) (asid va : Nat) : Except Err Leaf :=
  walkFrom s core asid va 4 0 false ((descriptor s asid).root / 4096 * 4096)

/-- Capacity in bytes of the frame space a leaf's PFN counts in (R132, R135); host memory has no bound of
the package's own. -/
def frameCapacity (e : DWord) : Option Nat :=
  if pteKind e = 0 then some Config.hbmBytes
  else if pteKind e = 1 then some Config.t2Bytes
  else if pteKind e = 3 then (if (ptePfn e).testBit 30 then some Config.t2Bytes else some Config.hbmBytes)
  else none

/-- Frame number within that space (R132). -/
def frameOf (e : DWord) : Nat := if pteKind e = 3 then ptePfn e % 2 ^ 30 else ptePfn e

/-- A leaf holds no bad value (R135). -/
def leafSound (e : DWord) (log : Nat) : Bool :=
  decide (pteKind e ≤ 4) && decide (ptePfn e % 2 ^ (log - 12) = 0)
    && (match frameCapacity e with
        | some c => decide (frameOf e * 4096 + 2 ^ log ≤ c)
        | none => true)

/-- The permission rows of R135, in order, for a sound leaf. -/
def leafCheck (rq : Req) (l : Leaf) (va : DWord) : Except Err Unit :=
  if !leafSound l.pte l.log then .error (.fault .malformed l.level l.log)
  else if pteBit l.pte 5 && !rq.svc then .error (.trap .prot (va.setWidth 32))
  else if pteBit l.pte 11 then .error (.fault .migrating l.level l.log)
  else if (decide (rq.acc = .load) || decide (rq.acc = .atomic)) && !pteBit l.pte 2 then
    .error (.fault .noRead l.level l.log)
  else if (decide (rq.acc = .store) || decide (rq.acc = .atomic)) && !pteBit l.pte 3 then
    .error (.fault .noWrite l.level l.log)
  else if decide (rq.acc = .fetch) && !pteBit l.pte 4 then .error (.fault .noExec l.level l.log)
  else .ok ()

/-- The physical address a leaf gives (R132, R133). A REMOTE frame of this package's own node is its compute HBM or T2. -/
def leafLoc (l : Leaf) (va : DWord) : Nat :=
  let off := va.toNat % 2 ^ l.log
  let e := l.pte
  if pteKind e = 3 ∧ ptePfn e / 2 ^ 31 = Config.node then
    (if (ptePfn e).testBit 30 then t2Loc else hbmLoc) (frameOf e * 4096 + off)
  else if pteKind e = 0 then hbmLoc (ptePfn e * 4096 + off)
  else if pteKind e = 1 then t2Loc (ptePfn e * 4096 + off)
  else if pteKind e = 2 then hostLoc (ptePfn e * 4096 + off)
  else if pteKind e = 3 then
    space (if (ptePfn e).testBit 30 then 6 else 5) + (ptePfn e / 2 ^ 31) * 2 ^ 42 + frameOf e * 4096 + off
  else space 4 + ptePfn e * 4096 + off

/-- The key slot an access goes through, none when the data is not encrypted (R146). A REMOTE request carries the slot's number;
the home node's slots are taken to be loaded as this package's are (entry 26). -/
def leafKey (d : Descriptor) (e : DWord) : Option Nat :=
  if d.flags.testBit 1 && (decide (pteKind e ≤ 1) || decide (pteKind e = 3)) then
    some (if d.flags.testBit 2 then pteKey e else d.dkey)
  else none

/-- The access counter of an address, when it is counted (R142). -/
def leafCounter (d : Descriptor) (e : DWord) (va : DWord) : Option Nat :=
  if d.flags.testBit 3 && pteBit e 9 && decide (1 ≤ pteKind e) && decide (pteKind e ≤ 3)
      && decide (d.cvbase ≤ va.toNat) && decide (va.toNat < d.cvbase + d.clen * 65536) then
    some (hbmLoc (d.cbase + 2 * ((va.toNat - d.cvbase) / 65536)))
  else none

/-- The level of a leaf that maps pages of a size (R133). -/
def levelOf (log : Nat) : Nat := if log = 30 then 1 else if log = 21 then 2 else 3

/-- A cached translation of an address at a core (R137). -/
def tlbFind (s : State) (rq : Req) (va : DWord) : Option TlbEntry :=
  rq.core.bind fun c => (coreAt s c).tlb.find? fun t =>
    decide (t.asid = rq.asid) && decide (t.base ≤ va.toNat) && decide (va.toNat < t.base + 2 ^ t.log)

/-- The leaf that a cached translation gives. -/
def TlbEntry.leaf (t : TlbEntry) : Leaf := { pte := t.pte, loc := t.loc, level := levelOf t.log, log := t.log, path := [] }

/-- A cached translation and a walk give the same. -/
def TlbEntry.agrees (t : TlbEntry) : Except Err Leaf → Bool
  | .ok l => samePte l.pte t.pte && decide (l.log = t.log)
  | .error _ => false

/-- The walk or the cached translation serves the access (R137): where a cached translation differs from what a walk finds,
either may be used, and a free value decides for the page. VALID and TEN of the descriptor, which R135 and R136 make govern
every translation, are checked before a cached translation is used (entry 30). A descriptor on a stack that does not run gives MEMKIND (R257). -/
def findLeaf (s : State) (rq : Req) (va : DWord) : Except Err Leaf :=
  let d := descriptor s rq.asid
  if decide (rq.asid < Config.asids) && stackDown s (descriptorAddr s rq.asid) then .error (.trap .memkind 0)
  else if !d.valid || decide (d.ten ≠ rq.ten) then .error (.trap .prot (va.setWidth 32))
  else
    let w := walk s rq.core rq.asid va.toNat
    match tlbFind s rq va with
    | none => w
    | some t => if !t.agrees w && decide (choose s (cacheTag rq.core rq.asid t.base 63) 2 = 0) then .ok t.leaf else w

/-- A slice is not running, at REDUCED (R257). -/
def sliceDown (s : State) (c : Nat) : Bool := decide (s.level < 2) && decide (c ≥ 96)

/-- An access within an SRAM window (R130, R257). DESIGN CHOICE (entry 30): a fetch raises MEMKIND, also from a slice outside the core set,
where R130 names PROT too. -/
def windowXlat (s : State) (rq : Req) (va : DWord) (c off : Nat) : Except Err Xlat :=
  if rq.acc = .fetch then .error (.trap .memkind 0xFF)
  else if !inCoreSet s rq.ten c then .error (.trap .prot (va.setWidth 32))
  else if sliceDown s c then .error (.trap .memkind 0xFF)
  else .ok { loc := sramLoc c off, kind := 255, key := none, counter := none }

/-- The key slot is loaded and owned by the tenancy (R146). -/
def keyOf (s : State) (ten : Nat) (va : DWord) (k : Option Nat) : Except Err (Option (Nat × Nat)) :=
  match k with
  | none => .ok none
  | some n =>
    match tget s.keySlots n with
    | some ks => if ks.ten = ten then .ok (some (n, ks.gen)) else .error (.trap .prot (va.setWidth 32))
    | none => .error (.trap .prot (va.setWidth 32))

/-- The kind rules: which paths reach a kind (R132, R176, R179, R219, R257). -/
def kindRule (s : State) (rq : Req) (x : Xlat) (va : DWord) (len : Nat) : Except Err Unit :=
  let refuse : Except Err Unit := .error (.trap .memkind (BitVec.ofNat 32 x.kind))
  if x.kind = 255 then .ok ()
  else if decide (s.level < 2) && (decide (x.kind = 1) || decide (x.kind = 3)) then refuse
  else if decide (x.kind = 0) && stackDown s (x.loc % 2 ^ 56) then refuse
  else if x.kind = 4 then
    if decide (rq.path = .plain) && (decide (len = 4) || decide (len = 8)) && decide (va.toNat % len = 0) then .ok ()
    else refuse
  else if x.kind = 3 then
    if rq.path = .fetch ∨ rq.path = .frag ∨ rq.path = .lantern ∨ rq.path = .kiln then refuse
    else if decide (rq.path = .reduce) && (decide (spaceOf x.loc = 6) || decide (spaceOf x.loc = 2)) then refuse
    else .ok ()
  else if rq.path = .reduce ∧ x.kind ≠ 0 then refuse
  else .ok ()

/-- One byte range within a page or window is translated and checked (R130 to R135, R146): `len` is the size
of the whole access, for the rule of MMIO. The leaf is returned for the setting of A and D. -/
def xlate (s : State) (rq : Req) (va : DWord) (len : Nat) : Except Err (Xlat × Option Leaf) :=
  match region va with
  | .dangle => .error (.trap .dangle (va.extractLsb' 32 32))
  | .bad => .error (.trap .prot (va.setWidth 32))
  | .window c off => (windowXlat s rq va c off).map fun x => (x, none)
  | .localWindow off =>
    match rq.core with
    | some c => (windowXlat s rq va c off).map fun x => (x, none)
    | none => .error (.trap .prot (va.setWidth 32))
  | .translated => do
    let l ← findLeaf s rq va
    leafCheck rq l va
    let d := descriptor s rq.asid
    let key ← keyOf s rq.ten va (leafKey d l.pte)
    let x : Xlat := { loc := leafLoc l va, kind := pteKind l.pte, key := key, counter := leafCounter d l.pte va }
    kindRule s rq x va len
    .ok (x, some l)

/-- Bytes of an access that lie in one 8-byte location: offset in the access and length (R149). -/
def chunks (va : Nat) : Nat → Nat → Nat → List (Nat × Nat)
  | 0, _, _ => []
  | fuel + 1, off, len =>
    if len = 0 then []
    else
      let n := min len (8 - (va + off) % 8)
      (off, n) :: chunks va fuel (off + n) (len - n)

/-- The whole range lies in one region (R130). -/
def oneRegion (va : DWord) (len : Nat) : Bool :=
  decide (len ≤ 1) || (decide (va.toNat + len ≤ 2 ^ 64) && sameRegion (region va) (region (va + BitVec.ofNat 64 (len - 1))))

/-- A translated part of an access: offset, length, translation, leaf. -/
abbrev Chunk := Nat × Nat × Xlat × Option Leaf

/-- A fault beside those of later addresses: its page is reported once, at its lowest address (R140). -/
def addFault (f : PageFault) (fs : List PageFault) : List PageFault := f :: fs.filter fun g => !f.same g

/-- The chunks of an access translated: a trap on any of them comes before the faults of others, and every faulting page is
found (R135, R138, R140). DEDUCED (entry 25): the address that a page's record gives for an access that spans two pages is its first byte
there. -/
def xlateChunks (s : State) (rq : Req) (va : DWord) (len : Nat) : List (Nat × Nat) → Except Bad (List Chunk)
  | [] => .ok []
  | c :: cs =>
    let a := va + BitVec.ofNat 64 c.1
    match xlate s rq a (if c.2 = len then len else 0), xlateChunks s rq va len cs with
    | .error (.trap k i), _ => .error (.trap k i)
    | .error (.fault _ _ _), .error (.trap k i) => .error (.trap k i)
    | .error (.fault k l g), .error (.faults fs) => .error (.faults (addFault { cause := k, level := l, log := g, va := a } fs))
    | .error (.fault k l g), .ok _ => .error (.faults [{ cause := k, level := l, log := g, va := a }])
    | .ok _, .error e => .error e
    | .ok x, .ok xs => .ok ((c.1, c.2, x.1, x.2) :: xs)

/-- A poisoned pointer, then R130, then the translation of every chunk of an access (R138). -/
def xlateAll (s : State) (rq : Req) (va : DWord) (len : Nat) : Except Bad (List Chunk) :=
  if len = 0 then .ok []
  else if region va = .dangle then .error (.trap .dangle (va.extractLsb' 32 32))
  else if !oneRegion va len then .error (.trap .prot (va.setWidth 32))
  else xlateChunks s rq va len (chunks va.toNat (len + 1) 0 len)

/-- A workgroup on core `c` whose slice is addressed through the global window is not relocatable: the one that makes the
access, when the slice is its own core's, and the one that holds the byte (R131). -/
def noteBound (s : State) (rq : Req) (c off : Nat) : State :=
  let own := rq.slot.bind fun k => (warpAt s k).map fun w => w.wg
  let hit := fun (e : Nat × Workgroup) => decide (e.2.core = c) && !e.2.bound
    && (decide (own = some e.1) || (decide (e.2.sram ≤ off) && decide (off < e.2.sram + e.2.sramBytes)))
  if s.wgs.any hit then { s with wgs := s.wgs.map fun e => if hit e then (e.1, { e.2 with bound := true }) else e } else s

/-- The core caches the translation and the walk entries that led to it (R137). -/
def Core.cache (co : Core) (asid : Nat) (va : DWord) (l : Leaf) : Core :=
  let base := va.toNat / 2 ^ l.log * 2 ^ l.log
  { co with
    tlb := { asid := asid, base := base, log := l.log, pte := l.pte, loc := l.loc }
      :: (co.tlb.filter fun t => !(decide (t.asid = asid) && decide (t.base = base)))
    walks := l.path.foldl (fun ws p =>
      let b := va.toNat / 2 ^ p.1 * 2 ^ p.1
      { asid := asid, base := b, log := p.1, pte := p.2 }
        :: (ws.filter fun t => !(decide (t.asid = asid) && decide (t.log = p.1) && decide (t.base = b)))) co.walks }

/-- The bits the walker sets in a leaf (R135). -/
def Req.marks (rq : Req) : DWord := if rq.acc = .store ∨ rq.acc = .atomic then 0xC0 else 0x40

/-- The walker sets A, and D for a store or atomic, by an atomic OR on the PTE, and the core caches the translation (R135,
R137). An access to a slice is a wake message for its core (R258). -/
def touch (s : State) (rq : Req) (va : DWord) (l : Option Leaf) : State :=
  match l with
  | none =>
    match region va with
    | .window c off =>
      wakeCore (noteBound s rq c off) c
    | _ => s
  | some l =>
    let s := { s with mem := memWrite s.mem l.loc (leBytes 8 (BitVec.ofNat 64 (memNat s.mem l.loc 8) ||| rq.marks).toNat) }
    match rq.core with
    | none => s
    | some c => setCore s c ((coreAt s c).cache rq.asid va l)

/-- The chunks of an access touched. -/
def touchAll (s : State) (rq : Req) (va : DWord) (cs : List Chunk) : State :=
  cs.foldl (fun s c => touch s rq (va + BitVec.ofNat 64 c.1) c.2.2.2) s

/-- The cores in whose slices the bytes of an access lie. -/
def slicesOf (s : State) (rq : Req) (va : DWord) (len : Nat) : List Nat :=
  match xlateAll s rq va len with
  | .ok cs => (cs.filter fun c => decide (spaceOf c.2.2.1.loc = 0)).map fun c => c.2.2.1.loc / Config.sliceBytes
  | .error _ => []

/-- The clock of one of these cores is stopped: what needs them all waits until it runs (R258). -/
def asleep (s : State) (cs : List Nat) : Bool := cs.any fun c => !running s c

/-- A wake message for each of these cores (R258): one that runs stays awake for what waits for the others. -/
def wakeAll (s : State) (cs : List Nat) : State := cs.foldl wakeCore s

/-- The bytes of translated chunks. -/
def chunkBytes (s : State) (cs : List Chunk) : List Byte := cs.flatMap fun c => readBytes s c.2.2.1.key c.2.2.1.loc c.2.1

/-- Some byte of translated chunks is uncorrectable (R229): that of the slice of a gated core is seen once it runs (R258). -/
def chunksPoisoned (s : State) (cs : List Chunk) : Bool :=
  cs.any fun c => poisoned s c.2.2.1.loc c.2.1 && (decide (spaceOf c.2.2.1.loc ≠ 0) || running s (c.2.2.1.loc / Config.sliceBytes))

/-- Bytes stored at a location: those for the slice of a gated core are latched, and stored once it runs (R258). -/
def putBytes (s : State) (key : Option (Nat × Nat)) (loc : Nat) (bs : List Byte) : State :=
  if spaceOf loc = 0 ∧ !running s (loc / Config.sliceBytes) then { s with latched := s.latched ++ [(loc, bs)] }
  else writeBytes s key loc bs

/-- The stores latched for core `c` are made: it runs (R258). -/
def applyLatched (s : State) (c : Nat) : State :=
  (s.latched.filter fun e => decide (e.1 / Config.sliceBytes = c)).foldl (fun s e => writeBytes s none e.1 e.2)
    { s with latched := s.latched.filter fun e => decide (e.1 / Config.sliceBytes ≠ c) }

/-- Bytes stored to translated chunks. -/
def chunkWrite (s : State) (cs : List Chunk) (bs : List Byte) : State :=
  cs.foldl (fun s c => putBytes s c.2.2.1.key c.2.2.1.loc ((bs.drop c.1).take c.2.1)) s

/-- Cached translations and walk entries of an ASID removed at the cores that meet `p`; with a range, only those of pages that
meet it (R137, R144, R245). -/
def dropTlb (s : State) (pr : Nat → Bool) (asid : Nat) (range : Option (Nat × Nat)) : State :=
  { s with cores := s.cores.map fun e =>
      let keep := fun (as base log : Nat) => !(decide (as = asid) && (match range with
        | none => true
        | some (a, n) => decide (base < a + n) && decide (a < base + 2 ^ log)))
      if pr e.1 then (e.1, { e.2 with
        tlb := e.2.tlb.filter fun t => keep t.asid t.base t.log
        walks := e.2.walks.filter fun t => keep t.asid t.base t.log })
      else e }

/-- The core lies in the scope's instance around core `c` (R150). -/
def inScope (sc : Scope) (c d : Nat) : Bool :=
  match sc with
  | .wg => decide (c = d)
  | .die => decide (c / 96 = d / 96)
  | .pkg => true
  | .dom => true

end Sys2Proof.Machine
end

