-- ==== Sys2Proof/Machine/Ops.lean ====
section
/-! DEFINITION. The named operations over warps, splits, registers and memory; rings and fault records; taking a
trap and returning from one (R138 to R141, R227 to R233, R247). -/

namespace Sys2Proof.Machine

/-! The split in focus. -/

/-- The warp and split a word is issued by, with their places. -/
structure Cx where
  k : Nat
  j : Nat
  w : Warp
  sp : Split
  g : Workgroup
deriving DecidableEq, Repr

/-- Warp and split `j` of slot `k`, with the warp's workgroup. -/
def cxAt (s : State) (k j : Nat) : Option Cx :=
  match warpAt s k with
  | none => none
  | some w =>
    match tget w.splits j, wgAt s w.wg with
    | some sp, some g => some { k := k, j := j, w := w, sp := sp, g := g }
    | _, _ => none

/-- The split whose word the step executes. -/
def focus (s : State) : Option Cx :=
  match s.cur with
  | none => none
  | some (k, j) => cxAt s k j

/-- The state with the warp of slot `k` changed. -/
def updWarp (s : State) (k : Nat) (f : Warp → Warp) : State :=
  match warpAt s k with
  | none => s
  | some w => setWarp s k (f w)

/-- The warp with split `j` changed. -/
def Warp.updSplit (w : Warp) (j : Nat) (f : Split → Split) : Warp :=
  match tget w.splits j with
  | none => w
  | some sp => { w with splits := tset w.splits j (f sp) }

/-- The state with split `j` of slot `k` changed. -/
def updSplit (s : State) (k j : Nat) (f : Split → Split) : State := updWarp s k fun w => w.updSplit j f

/-- Empty operand latches (R35). -/
def noLatches : List (Option Nat) := [none, none, none]

/-- The latches of every split emptied (R32, R349); so they are when the warp parks, since all its splits then do (R29, R35;
DEDUCED, entry 33). -/
def Warp.noLatch (w : Warp) : Warp :=
  { w with splits := w.splits.map fun e => (e.1, { e.2 with latches := noLatches }) }

/-- The warp parks, at the word of split `j` (R29). -/
def Warp.parkAs (w : Warp) (j order : Nat) (p : WarpPark) : Warp :=
  { w.noLatch with park := some p, parkSplit := j, parkOrder := order }

/-- The active brew an iteration warp belongs to. -/
def brewOf (s : State) (k : Nat) : Option Brew := (coreAt s (coreOfSlot k)).brew

/-- Stage predicate `i` of a warp (R101). -/
def stagePred (s : State) (k : Nat) (w : Warp) (i : Nat) : Bool :=
  match w.iter with
  | none => decide (i = 0)
  | some it =>
    match brewOf s k with
    | some b => decide (i ≤ it) && decide (it - i + 1 ≤ b.n)
    | none => false

/-- The guard mask of a warp's mode (R54). DESIGN CHOICE (entry 31): a reserved GUARD, 00ppp with ppp not 0, which only a saved
mode put back by RET, TRET, CUT or GRAFT can hold, guards no lane off. -/
def guardMask (s : State) (k : Nat) (w : Warp) : Mask :=
  let g := (w.mode.extractLsb' 11 5).toNat
  if g < 8 then BitVec.allOnes 64
  else if g < 16 then w.p.getD (g - 8) 0
  else if g < 24 then ~~~(w.p.getD (g - 16) 0)
  else if stagePred s k w (g - 24) then BitVec.allOnes 64 else 0

/-- The effective mask of the split's next instruction (R26). -/
def eff (s : State) (cx : Cx) : Mask := cx.sp.mask &&& guardMask s cx.k cx.w

/-- The WARPID word of a split (R140, R347). -/
def warpId (k j : Nat) (iter : Bool) : Word :=
  BitVec.ofNat 32 (coreOfSlot k + 2 ^ 8 * quadOfSlot k + 2 ^ 10 * indexOfSlot k + 2 ^ 14 * (j % 8)
    + (if iter then 2 ^ 17 else 0))

/-- The request of the warp for memory accesses. -/
def Cx.req (cx : Cx) (acc : Acc) (path : Path) : Req :=
  { slot := some cx.k, asid := cx.w.asid, ten := cx.w.ten, core := some (coreOfSlot cx.k), svc := cx.w.service, acc := acc, path := path }

/-! Record rings (R247). -/

/-- The rings of a tenancy. -/
inductive RingKind where
  | fault | trap | notif
deriving DecidableEq, Repr

/-- Bytes of a record of a ring (R247). -/
def RingKind.size : RingKind → Nat
  | .fault => 32
  | .trap => 64
  | .notif => 16

/-- A ring of a tenancy. -/
def ringOf (t : Tenancy) : RingKind → Ring
  | .fault => t.fault
  | .trap => t.trap
  | .notif => t.notif

/-- The tenancy with a ring set. -/
def setRing (t : Tenancy) (r : RingKind) (x : Ring) : Tenancy :=
  match r with
  | .fault => { t with fault := x }
  | .trap => { t with trap := x }
  | .notif => { t with notif := x }

/-- The ring is full, or has no entries (R247). -/
def Ring.full (r : Ring) : Bool := decide (r.log = 0) || decide ((r.prod - r.cons).toNat = 2 ^ r.log)

/-- Writes the first waiting record, when the ring has room and its store translates (R246, R247). -/
def ringStore (s : State) (ten : Nat) (rk : RingKind) : State :=
  match tenAt s ten with
  | none => s
  | some t =>
    let r := ringOf t rk
    match r.waiting with
    | [] => s
    | rc :: rest =>
      if r.full then s
      else
        let va := r.base + BitVec.ofNat 64 (rk.size * (r.prod.toNat % 2 ^ r.log))
        let rq : Req := { slot := none, asid := r.asid, ten := ten, core := none, svc := true, acc := .store, path := .queue }
        match xlateAll s rq va rk.size with
        | .error _ => s
        | .ok cs =>
          let s := chunkWrite (touchAll s rq va cs) cs rc
          match tenAt s ten with
          | none => s
          | some t => setTen s ten (setRing t rk { r with prod := r.prod + 1, waiting := rest })

/-- Writes waiting records in order while the ring takes them. -/
def ringDrain (s : State) (ten : Nat) (rk : RingKind) : Nat → State
  | 0 => s
  | n + 1 => ringDrain (ringStore s ten rk) ten rk n

/-- A record is produced: it is written, or waits behind the others (R140, R143, R231, R247). -/
def ringPush (s : State) (ten : Nat) (rk : RingKind) (rec : List Byte) : State :=
  match tenAt s ten with
  | none => s
  | some t =>
    let r := ringOf t rk
    ringDrain (setTen s ten (setRing t rk { r with waiting := r.waiting ++ [rec] })) ten rk (r.waiting.length + 1)

/-! Fault records (R140). -/

/-- The CAUSE code (R140). -/
def causeCode : FaultCause → Nat
  | .notValid => 0
  | .noRead => 1
  | .noWrite => 2
  | .noExec => 3
  | .migrating => 4
  | .malformed => 5
  | .link => 6
  | .lantern => 7

/-- What a fault record says. -/
structure FaultInfo where
  ten : Nat
  asid : Nat
  va : DWord
  lanes : Mask
  cause : FaultCause
  engine : Nat
  warp : Word
  info : Word
deriving DecidableEq, Repr

/-- The INFO of a translation fault (R140, entry 25). -/
def faultInfo (acc : Acc) (level : Nat) : Word :=
  BitVec.ofNat 32 ((if acc = .store ∨ acc = .atomic then 1 else 0) + (if acc = .atomic then 2 else 0) + 4 * level)

/-- The reference a parked access keeps to the record it is about to write. -/
def faultRef (s : State) (f : FaultInfo) : FaultRef :=
  { ten := f.ten
    seq := match tenAt s f.ten with
      | some t => t.fseq
      | none => 0
    cause := f.cause, asid := f.asid, va := f.va, lanes := f.lanes }

/-- Writes a fault record to the tenancy's fault ring (R140). -/
def putFault (s : State) (f : FaultInfo) : State :=
  match tenAt s f.ten with
  | none => s
  | some t =>
    let rd := leBytes 8 f.va.toNat ++ leBytes 8 f.lanes.toNat ++ leBytes 2 f.asid ++ leBytes 1 (causeCode f.cause)
      ++ leBytes 1 f.engine ++ leBytes 4 f.warp.toNat ++ leBytes 4 f.info.toNat ++ leBytes 4 t.fseq.toNat
    ringPush (setTen s f.ten { t with fseq := t.fseq + 1 }) f.ten .fault rd

/-- Several records, one for each faulting page, with their references. -/
def putFaults (s : State) : List FaultInfo → State × List FaultRef
  | [] => (s, [])
  | f :: r =>
    let x := putFaults (putFault s f) r
    (x.1, faultRef s f :: x.2)

/-- A REPLAY write of `n` covers the record (R141). -/
def replayCovers (n q : Word) : Bool := decide ((n - q).toNat < 2 ^ 31)

/-! Access counters (R142, R143). -/

/-- One counter increment, with the notification it may cause. DESIGN CHOICE (entry 43): at REDUCED a counter that lies on stacks 4 to 7
counts as any other (R16). -/
def countOne (s : State) (ten asid kind : Nat) (loc : Nat) (va : DWord) : State :=
  match tenAt s ten with
  | none => s
  | some t =>
    let old := memNat s.mem loc 2
    let new := min (old + 1) 0xFFFF
    let s := { s with mem := memWrite s.mem loc (leBytes 2 new) }
    if t.thresh ≠ 0 ∧ old < t.thresh ∧ t.thresh ≤ new then
      ringPush s ten .notif (leBytes 8 (va.toNat / 65536 * 65536) ++ leBytes 2 asid ++ leBytes 2 new
        ++ leBytes 1 kind ++ [0, 0, 0])
    else s

/-- The counted sectors of an access, each once: a 64-byte sector adds 1 to the counter of each granule it is touched in (R142). -/
def countAll (s : State) (ten asid : Nat) : List (Nat × Nat × Nat × DWord) → State
  | [] => s
  | (sec, kind, loc, va) :: r =>
    if r.any fun e => decide (e.1 = sec) && decide (e.2.2.1 = loc) then countAll s ten asid r
    else countAll (countOne s ten asid kind loc va) ten asid r

/-- The counted sectors among translated pieces. -/
def countedOf (ps : List (Xlat × DWord)) : List (Nat × Nat × Nat × DWord) :=
  ps.filterMap fun e =>
    match e.1.counter with
    | some c => some (e.1.loc / 64, e.1.kind, c, e.2)
    | none => none

/-- The counted sectors of translated chunks (R142). -/
def chunkSectors (va : DWord) (cs : List Chunk) : List (Nat × Nat × Nat × DWord) :=
  countedOf (cs.map fun c => (c.2.2.1, va + BitVec.ofNat 64 c.1))

/-! How a word stops. -/

/-- How the execution of a word ends otherwise than by its effect. -/
inductive Stop where
  /-- A trap; PC is the word, NPC the next word (R232). -/
  | trap (t : Trap)
  /-- A trap whose NPC is the word itself. -/
  | trapHere (t : Trap)
  /-- A trap at a transfer target: PC, NPC and HDR are that address (R46, R87). -/
  | trapAt (t : Trap) (pc : DWord)
  /-- Replayable faults: the split parks and the word is made again (R138). -/
  | faults (fs : List FaultInfo)
  /-- As `faults`, of a word that holds its memory-class flag while it waits (R47, R165). -/
  | flagged (fs : List FaultInfo)
  /-- The read of a brew register waits for presence (R98). -/
  | presence
  /-- The warp parks, the word not yet executed (R29). -/
  | park (p : WarpPark)
  /-- The word does not issue yet. -/
  | wait
  /-- The word is made again in the next cycle: it reaches slices of these cores, and the clock of one of them is stopped (R258). -/
  | asleep (cores : List Nat)
  /-- The split parks, the word not yet executed, and makes it again in a later cycle. -/
  | hold (p : Park)
deriving DecidableEq, Repr

/-- The class number (R227). -/
def classNo : TrapClass → Nat
  | .und => 0
  | .illop => 1
  | .clause => 2
  | .converge => 3
  | .regbound => 4
  | .priv => 5
  | .align => 6
  | .page => 7
  | .prot => 8
  | .memkind => 9
  | .array => 10
  | .slice => 11
  | .dangle => 12
  | .counter => 13
  | .queue => 14
  | .link => 15
  | .svc => 16
  | .bkpt => 17
  | .poison => 18
  | .lantern => 19
  | .fabric => 20
  | .stack => 21

/-- A trap of class `c` with INFO `w` in the lanes `m`. -/
def mkTrap (c : TrapClass) (info : Word) (m : Mask) : Trap := { cls := c, info := info, lanes := m }

/-! Accesses. -/

/-- A piece lies in memory of kind REMOTE. -/
def Piece.remote (p : Piece) : Bool :=
  match p.at? with
  | some x => decide (x.kind = 3)
  | none => false

/-- The access writes memory. -/
def AccessKind.stores : AccessKind → Bool
  | .load => false
  | _ => true

/-- Every part of the access has been performed, or sent to a home node that has still to acknowledge it (R161). -/
def Access.sent (a : Access) : Bool :=
  a.pieces.all fun p => p.done || (a.remote && p.remote && a.kind.stores && p.faults.isEmpty)

/-- The operation is an access with lanes that wait for a replay (R138). -/
def Op.faulted (o : Op) : Bool :=
  match o.kind with
  | .access a => a.pieces.any fun p => !p.faults.isEmpty
  | _ => false

/-- The operation stands before what split `j` does now, in program order (R148). -/
def Op.before (o : Op) (j : Nat) : Bool := o.order.contains j

/-- An access before split `j` has lanes that wait for a replay: the split is parked on them (R138). -/
def Warp.faultBefore (w : Warp) (j : Nat) : Bool := w.ops.any fun o => o.before j && o.faulted

/-! Registers. -/

/-- The bytes an access holds for lane `l`, in order. -/
def Access.laneBytes (a : Access) (l : Nat) : List Byte :=
  (a.pieces.filter fun p => decide (p.lane = l)).flatMap fun p => p.data

/-- Word `i` of the loaded data of each lane; data shorter than a word is extended (R368). -/
def Access.row (a : Access) (i : Nat) : Row :=
  rowOf fun l =>
    let bs := ((a.laneBytes l).drop (4 * i)).take 4
    if a.sext && decide (bs.length < 4) && decide (2 ^ (8 * bs.length - 1) ≤ leNat bs) then
      BitVec.ofNat 32 (leNat bs + 2 ^ 32 - 2 ^ (8 * bs.length))
    else BitVec.ofNat 32 (leNat bs)

/-- The results of an access: each destination with what it gets. -/
def Access.outs (a : Access) : List (Dest × Payload) :=
  match a.dest with
  | .rows d n => (List.range n).map fun i => (.v (d + i), .row (a.row i))
  | .one d => [(d, .row (a.row 0))]
  | .scalars d n =>
    (List.range n).map fun i =>
      (.s (d + i), .word (BitVec.ofNat 32 (leNat (((a.pieces.flatMap fun p => p.data).drop (4 * i)).take 4))))
  | .nowhere => []

/-- The results of an outstanding operation whose values are known, and their lanes (R52). DESIGN CHOICE (entry 5): until its flag
clears, the destination of an MMA, MMAC or MMAZ, or of an access not yet performed, reads as the old value in every lane, where R52
allows the new one too. -/
def Op.outs (o : Op) : List (Dest × Payload) × Mask :=
  match o.kind with
  | .write outs m => (outs, m)
  | .access a => if a.performed then (a.outs, a.lanes) else ([], 0)
  | _ => ([], 0)

/-- The value an outstanding operation will write to `d`, with its lanes. -/
def Op.value (o : Op) (d : Dest) : Option (Payload × Mask) :=
  ((o.outs).1.find? fun e => decide (e.1 = d)).map fun e => (e.2, o.outs.2)

/-- The number of a destination among those of its kind. -/
def Dest.number : Dest → Nat
  | .v n => n
  | .brew n => n
  | .s n => n
  | _ => 0

/-- A row as a read gets it: lanes with an outstanding long-latency result whose value is known hold either the old
or the new one (R52, entry 5). -/
def blendRow (s : State) (ops : List Op) (d : Dest) (r : Row) : Row :=
  ops.foldl (fun r o =>
    match o.value d with
    | some (.row x, m) => mergeRow (m &&& Config.freeLanes s.fresh o.id d.number) x r
    | _ => r) r

/-- A static register as a read gets it (R52). -/
def readV (s : State) (w : Warp) (n : Nat) : Row := blendRow s w.ops (.v n) (w.v.getD n zeroRow)

/-- A slot of the core's brew file. -/
def brewRow (s : State) (c slot : Nat) : Row := tgetD (coreAt s c).brewFile slot zeroRow

/-- A scalar register (R22), with R52 for outstanding loads. -/
def readS (s : State) (w : Warp) (n : Nat) : Word :=
  w.ops.foldl (fun x o =>
    match o.value (.s n) with
    | some (.word y, _) => if (Config.freeLanes s.fresh o.id n).getLsbD 0 then y else x
    | _ => x) (w.s.getD n 0)

/-- The 64-bit value of an even scalar pair (R57). -/
def readPair (s : State) (w : Warp) (n : Nat) : DWord := readS s w (n + 1) ++ readS s w n

/-- The warp with a result written where it goes; brew and keg destinations are not of the warp. -/
def Warp.commit (w : Warp) (d : Dest) (x : Payload) (m : Mask) : Warp :=
  match d, x with
  | .v n, .row r => if n < w.v.length then { w with v := w.v.set n (mergeRow m r (w.v.getD n zeroRow)) } else w
  | .s n, .word y => { w with s := w.s.set n y }
  | .p n, .mask y => { w with p := w.p.set n ((w.p.getD n 0 &&& ~~~m) ||| (y &&& m)) }
  | .dir n, .dir y => { w with dirs := w.dirs.set n y }
  | .norm n, .word y => { w with norms := w.norms.set n y }
  | _, _ => w

/-- The number a latch holds for a static register or a brew slot (R35). -/
def latchOf : Dest → Option Nat
  | .v n => some n
  | .brew n => some (512 + n)
  | _ => none

/-- Latches that hold a register are emptied when a write to it issues or completes (R35). -/
def Warp.unlatch (w : Warp) (d : Dest) : Warp :=
  match latchOf d with
  | none => w
  | some n => { w with splits := w.splits.map fun e =>
      (e.1, { e.2 with latches := e.2.latches.map fun l => if l = some n then none else l }) }

/-- Presence of a brew slot is set (R99). -/
def setPresence (s : State) (c slot : Nat) : State :=
  let co := coreAt s c
  setCore s c { co with presence := co.presence ||| (1#256 <<< slot) }

/-- An unconfigured keg. -/
def Keg.empty : Keg := { base := 0, cap := 0, next := 0, entries := [] }

/-- Kegs of a workgroup. -/
def kegAt (g : Workgroup) (k : Nat) : Keg := g.kegs.getD k Keg.empty

/-- Where place `n` of a keg lies: the keg's places follow one another in the workgroup's SRAM from BASE on (R36, entry 32). -/
def kegPlace (g : Workgroup) (kg : Keg) (n : Nat) : Nat := sramLoc g.core (g.sram + 256 * (kg.base + n))

/-- The bytes of a row, one word a lane (R37). -/
def rowBytes (r : Row) : List Byte := r.flatMap fun w => leBytes 4 w.toNat

/-- The row that 256 bytes hold. -/
def bytesRow (bs : List Byte) : Row := rowOf fun l => BitVec.ofNat 32 (leNat ((bs.drop (4 * l)).take 4))

/-- An entry of a workgroup's keg is filled (R37): its 256 bytes are stored in the workgroup's SRAM, zeros for inactive lanes.
An entry that a rewrite of the descriptor has removed is stored nowhere. -/
def fillKeg (s : State) (g k id : Nat) (r : Row) (m : Mask) : State :=
  match wgAt s g with
  | none => s
  | some x =>
    let kg := kegAt x k
    match kg.entries.find? fun e => decide (e.id = id) with
    | none => s
    | some e =>
      let s := writeBytes s none (kegPlace x kg e.place) (rowBytes (mergeRow m r zeroRow))
      setWg s g { x with kegs := x.kegs.set k { kg with entries := kg.entries.map fun y =>
        if y.id = id then { y with written := true } else y } }

/-- The matrix operation is still reading register `n` of the warp in slot `k` as quarter of B (R183). -/
def MatrixOp.reads (m : MatrixOp) (now k n : Nat) : Bool :=
  decide (m.b = n) && decide (now < m.start + 4) && m.partners.contains (some k)

/-- A write to a register that the array is reading adds a value its elements may take (R183). -/
def Op.noteB (o : Op) (now k n : Nat) (r : Row) : Op :=
  match o.kind with
  | .matrix m =>
    if m.reads now k n then
      let bs := (m.partners.zip m.bs).map fun e => if e.1 = some k then e.2 ++ [r] else e.2
      { o with kind := .matrix { m with bs := bs } }
    else o
  | _ => o

/-- The warp has an operation that reads register `n` of slot `k` as a quarter of B. -/
def Warp.readsB (w : Warp) (now k n : Nat) : Bool :=
  w.ops.any fun o =>
    match o.kind with
    | .matrix m => m.reads now k n
    | _ => false

/-- Matrix operations of the core that still read register `n` of slot `k` take in its new value (R183). -/
def noteB (s : State) (k n : Nat) (r : Row) : State :=
  { s with warps := s.warps.map fun e =>
      if e.2.readsB s.now k n then (e.1, { e.2 with ops := e.2.ops.map fun o => o.noteB s.now k n r }) else e }

/-- A result becomes visible: the one operation that writes a register, brew slot or keg entry. -/
def commit (s : State) (k : Nat) (d : Dest) (x : Payload) (m : Mask) : State :=
  match warpAt s k with
  | none => s
  | some w =>
    match d, x with
    | .none, _ => s
    | .brew slot, .row r =>
      let c := coreOfSlot k
      let co := coreAt s c
      let s := setCore s c { co with brewFile := tset co.brewFile slot (mergeRow m r (tgetD co.brewFile slot zeroRow)) }
      { s with warps := s.warps.map fun e => if coreOfSlot e.1 = c then (e.1, e.2.unlatch d) else e }
    | .keg kn id, .row r => fillKeg s w.wg kn id r m
    | .v n, .row _ =>
      let w' := (w.commit d x m).unlatch d
      noteB (setWarp s k w') k n (w'.v.getD n zeroRow)
    | _, _ => setWarp s k (w.commit d x m)

/-! Issue bookkeeping. -/

/-- Literal words of an instruction that lie in the body of its clause (R41). -/
def litsIn (cl : Clause) (n : Nat) : Nat := min n (cl.left - 1)

/-- The split has issued a word in this cycle: what R27, R46, R83 and R385 count starts afresh. -/
def Split.issued (sp : Split) (now : Nat) : Split :=
  { sp with lastPass := some now, lastIssue := now, unissued := false, yielded := false, starving := false, losses := 0 }

/-- The split is made, or resumed, now and has not issued since: its cycles count from now (R27). -/
def Split.made (sp : Split) (now : Nat) : Split :=
  { sp with lastIssue := now, unissued := true, yielded := false, starving := false, losses := 0 }

/-- The split stands after its word and `n` literals (R46). -/
def Split.pass (sp : Split) (n : Nat) : Split :=
  { sp with
    pc := sp.pc + BitVec.ofNat 64 (4 * (n + 1))
    clause := match sp.clause with
      | some cl => if cl.left ≤ n + 1 then none else some { cl with left := cl.left - (n + 1), held := cl.held.drop (n + 1) }
      | none => none }

/-- The split stands at a clause start: the remaining words of its clause are abandoned (R46). -/
def Split.land (sp : Split) (pc : DWord) : Split := { sp with pc := pc, clause := none, lastPass := none }

/-- The split after its word and `n` literals have issued (R46, R27). -/
def Split.advance (sp : Split) (now n : Nat) : Split := (sp.issued now).pass n

/-- A taken transfer: the target is a clause start (R46). -/
def Split.jump (sp : Split) (now : Nat) (pc : DWord) : Split := (sp.issued now).land pc

/-- The header address a trap frame gives for an address in the split's clause (R232). -/
def hdrFor (sp : Split) (npc : DWord) : DWord :=
  match sp.clause with
  | none => sp.resumeAt.getD npc
  | some cl => if (npc - sp.pc).toNat < 4 * cl.left then cl.addr else npc

/-- The flag a long-latency word attaches to: SA for memory, SB for arithmetic (R45, R47). -/
def flagOf (cl : Clause) (mem : Bool) : Option Nat :=
  let f := (if mem then cl.word.extractLsb' 12 4 else cl.word.extractLsb' 8 4).toNat
  if f < 12 then some f else none

/-- The flag of a long-latency word in its clause (R47). -/
def cxFlag (cx : Cx) (mem : Bool) : Option Nat := cx.sp.clause.bind fun cl => flagOf cl mem

/-- The flags pending in a warp (R47). -/
def Warp.pending (w : Warp) (f : Nat) : Bool := w.ops.any fun o => decide (o.flag = some f)

/-! Traps (R227 to R233). -/

/-- The 64 bytes of a trap frame (R232). DESIGN CHOICE (entry 5): S0 and S1 are saved with their old values while a long-latency write to
them is outstanding (R52). -/
def frameBytes (cx : Cx) (t : Trap) (pc npc hdr : DWord) (deferred double : Bool) (seq : Word) : List Byte :=
  let flags := cx.j % 8 + (if cx.sp.group > 0 then 8 else 0) + (if deferred then 16 else 0)
    + (if double then 64 else 0) + (if cx.w.service then 128 else 0)
  leBytes 1 (classNo t.cls) ++ leBytes 1 flags ++ leBytes 2 cx.w.mode.toNat ++ leBytes 4 t.info.toNat
    ++ leBytes 8 pc.toNat ++ leBytes 8 npc.toNat ++ leBytes 8 hdr.toNat ++ leBytes 8 t.lanes.toNat
    ++ leBytes 8 cx.sp.mask.toNat ++ leBytes 4 (cx.w.s.getD 0 0).toNat ++ leBytes 4 (cx.w.s.getD 1 0).toNat
    ++ leBytes 4 (warpId cx.k cx.j cx.w.iter.isSome).toNat ++ leBytes 4 seq.toNat

/-- Short-latency writes to S0 and S1 that are not yet visible complete before a trap entry saves them (R228). -/
def flushS01 (w : Warp) : Warp :=
  let mine := w.pend.filter fun p => decide (p.dest = .s 0) || decide (p.dest = .s 1)
  { (mine.foldl (fun w p => w.commit p.dest p.payload p.lanes) w) with
    pend := w.pend.filter fun p => !(decide (p.dest = .s 0) || decide (p.dest = .s 1)) }

/-- A plain store made at once, whole: all chunks translate or none is made. The chunks are returned with the state. -/
def storeNow (s : State) (rq : Req) (va : DWord) (bytes : List Byte) : Except Bad (List Chunk × State) :=
  match xlateAll s rq va bytes.length with
  | .error e => .error e
  | .ok cs => .ok (cs, countAll (chunkWrite (touchAll s rq va cs) cs bytes) rq.ten rq.asid (chunkSectors va cs))

/-- The bytes of a plain load made at once. Uncorrectable data raises POISON (R227). -/
def loadNow (s : State) (rq : Req) (va : DWord) (n : Nat) : Except Bad (List Byte × State) :=
  match xlateAll s rq va n with
  | .error e => .error e
  | .ok cs =>
    if chunksPoisoned s cs then .error (.trap .poison (va.setWidth 32))
    else
      let s1 := touchAll s rq va cs
      .ok (chunkBytes s1 cs, countAll s1 rq.ten rq.asid (chunkSectors va cs))

/-- The records of the faulting pages of an access that a split makes (R140). -/
def splitFaults (cx : Cx) (lanes : Mask) (acc : Acc) (engine : Nat) (fs : List PageFault) : List FaultInfo :=
  fs.map fun f =>
    { ten := cx.w.ten, asid := cx.w.asid, va := f.va, lanes := lanes, cause := f.cause, engine := engine,
      warp := warpId cx.k cx.j cx.w.iter.isSome, info := faultInfo acc f.level }

/-- What a word does at its access of `len` bytes, which is sound: first every slice that the access reaches must run (R258). -/
def onceAwake {α : Type} (s : State) (rq : Req) (va : DWord) (len : Nat) (x : α) : Except Stop α :=
  if asleep s (slicesOf s rq va len) then .error (.asleep (slicesOf s rq va len)) else .ok x

/-- An error of a whole-instruction access as a stop of the word. -/
def stopOf (s : State) (cx : Cx) (acc : Acc) (engine : Nat) : Bad → Stop
  | .trap c i => .trap (mkTrap c i (eff s cx))
  | .faults fs => .faults (splitFaults cx (eff s cx) acc engine fs)

/-- A plain store of a split made at once that reaches memory of kind REMOTE: it is sent as any other, counts as unacknowledged
and joins the open G batch (R161, R173). -/
def sentRemote (s : State) (cx : Cx) (pc : DWord) (lanes : Mask) (va : DWord) (cs : List Chunk) : State :=
  if cs.any fun c => decide (c.2.2.1.kind = 3) then
    let r : RemoteWrite :=
      { id := s.nextId, seq := s.nextId, slot := cx.k, op := s.nextId, cmd := s.nextId, pc := pc, split := cx.j, va := va, lanes := lanes
        sent := s.now, due := s.now + nextTime s, reduction := false }
    dropTime (dropName (updWarp { s with remotes := s.remotes ++ [r] } cx.k fun w =>
      { w with bG := { w.bG with cmds := w.bG.cmds ++ [(r.cmd, w.bG.opened)] } }))
  else s

/-- The trap is written to the tenancy's trap ring, and the warp parks until TRAPRES or KILL (R231). -/
def trapToRing (s : State) (cx : Cx) (t : Trap) (pc npc hdr : DWord) (deferred double : Bool) : State :=
  match tenAt s cx.w.ten with
  | none => s
  | some tn =>
    let f := frameBytes cx t pc npc hdr deferred double tn.tseq
    let s := setTen s cx.w.ten { tn with tseq := tn.tseq + 1 }
    let s := updWarp s cx.k fun w => { w.parkAs cx.j s.nextId (.trapRing tn.tseq) with frame := f }
    ringPush (dropName s) cx.w.ten .trap f

/-- The operation is a word of split `j` that waits to be made again. -/
def Op.retries (o : Op) (j : Nat) : Bool := decide (o.kind = .retry) && decide (o.split = j)

/-- What splits of a warp have outstanding goes on under other names (R229). -/
def renameSplits (s : State) (k : Nat) (heir : Nat → Nat) : State :=
  updWarp { s with remotes := s.remotes.map fun r => if r.slot = k then { r with split := heir r.split } else r } k fun w =>
    { w with
      ops := w.ops.map fun o => { o with split := heir o.split }
      deferred := w.deferred.map fun d => { d with split := heir d.split } }

/-- What split `m` has outstanding is split `n`'s from now on: it has merged with it, or has been removed (R229). -/
def handOver (s : State) (k m n : Nat) : State := renameSplits s k fun i => if i = m then n else i

/-- The split in entry `j` leaves the table: what it has outstanding goes on under a name that no live split has, so that the split
with the lowest index takes its traps (R229). -/
def dropSplit (s : State) (k j : Nat) : State :=
  let gone := 8 + s.nextId
  dropName (updWarp (handOver s k j gone) k fun w =>
    { w with
      splits := tdel w.splits j
      ops := w.ops.map fun o => { o with order := o.order.map fun n => if n = j then gone else n } })

/-- The warp whose split `j` takes a trap: a word that waited to be made again no longer waits, and neither does a waiting EXIT,
which is made again afterwards (R229, R231, R283). -/
def Warp.interrupt (w : Warp) (j : Nat) : Warp :=
  let w := { w with ops := w.ops.filter fun o => !o.retries j }
  match w.park with
  | some (.keg _) => { w with park := none }
  | some (.arrival _ _) => { w with park := none }
  | some .wake => { w with park := none }
  | some .exiting => { w with park := none }
  | _ => w

/-- The siblings of a waiting EXIT that leave when split `j` takes a trap: they have stopped for good, and what they have outstanding goes
on without them, but for a word that is to be made again (R282). -/
def Warp.leavers (w : Warp) (j : Nat) : List Nat :=
  if w.park = some .exiting then
    (w.splits.map fun e => e.1).filter fun n => decide (n ≠ w.parkSplit) && decide (n ≠ j) && !(w.ops.any fun o => o.retries n)
  else []

/-- The warp in slot `k` as its split `j` is interrupted: its waits are given up, and results for S0 and S1 are visible (R228, R231). -/
def interruptWarp (s : State) (k j : Nat) : State :=
  match warpAt s k with
  | none => s
  | some w => updWarp ((w.leavers j).foldl (fun s n => dropSplit s k n) s) k fun w => flushS01 (w.interrupt j)

/-- The warp waits for a trap record on the trap ring to be answered (R231). -/
def Warp.onRing (w : Warp) : Bool :=
  match w.park with
  | some (.trapRing _) => true
  | _ => false

/-- Another split of the warp is in a handler, and only that one issues (R231). -/
def Warp.handled (w : Warp) (j : Nat) : Bool :=
  match w.handler with
  | some h => decide (h ≠ j)
  | none => false

/-- Split `j` is held by an exclusive group that it is not in (R86). -/
def Warp.outside (w : Warp) (j : Nat) : Bool :=
  decide (w.park ≠ some .exiting) && (w.splits.any fun e => decide (e.1 = j) && decide (e.2.group ≠ w.groups.length))

/-- No trap of split `j` can be taken now: the warp waits on the trap ring, another split's handler runs, or an exclusive group holds
the split. It is taken once the split could issue (R86, R231; DEDUCED, entry 22). -/
def Warp.bars (w : Warp) (j : Nat) : Bool := w.onRing || w.handled j || w.outside j

/-- A trap that is to be taken when nothing bars it any more: the split stands at its word till then. -/
def queueTrap (s : State) (k j : Nat) (t : Trap) (pc npc hdr : DWord) (late : Bool) : State :=
  updWarp s k fun w =>
    ({ w with
      ops := w.ops.filter fun o => !o.retries j
      deferred := w.deferred ++ [{ trap := t, pc := pc, split := j, late := late, back := some (npc, hdr) }] } : Warp).updSplit j fun sp =>
        { sp with park := .running }

/-- The frame of a trap stored on the service stack and its handler at TVB + 64 × class entered in service mode, or the trap written to
the trap ring (R231). -/
def enterTrap (s : State) (k j : Nat) (t : Trap) (pc npc hdr : DWord) (deferred : Bool) : State :=
  let s := interruptWarp s k j
  match cxAt s k j with
  | none => s
  | some cx =>
    match tenAt s cx.w.ten with
    | none => s
    | some tn =>
      if tn.tvb = 0 then trapToRing s cx t pc npc hdr deferred false
      else if cx.w.svsp.toNat + 64 > (cx.w.sbase - 512).toNat then trapToRing s cx t pc npc hdr deferred true
      else
        let rq : Req := { cx.req .store .plain with svc := true }
        match storeNow s rq (cx.w.stkhi ++ cx.w.svsp) (frameBytes cx t pc npc hdr deferred false 0) with
        | .error _ => trapToRing s cx t pc npc hdr deferred true
        | .ok (cs, s) =>
          updWarp (sentRemote s cx pc t.lanes (cx.w.stkhi ++ cx.w.svsp) cs) k fun w =>
            ({ w with
              s := (w.s.set 0 w.svsp).set 1 w.stkhi
              svsp := w.svsp + 64
              service := true
              mode := 0
              handler := some j }).updSplit j fun sp =>
                { sp.land (tn.tvb + BitVec.ofNat 64 (64 * classNo t.cls)) with park := .running, resumeAt := none }

/-- TAKING AN EXCEPTION (R231): at once, or when the warp's other splits allow it. -/
def takeTrap (s : State) (k j : Nat) (t : Trap) (pc npc hdr : DWord) (deferred : Bool) : State :=
  if (warpAt s k).any fun w => w.bars j then queueTrap s k j t pc npc hdr deferred else enterTrap s k j t pc npc hdr deferred

/-- Lanes of the other live splits of a warp. -/
def otherLanes (w : Warp) (j : Nat) : Mask :=
  (w.splits.filter fun e => decide (e.1 ≠ j)).foldl (fun m e => m ||| e.2.mask) 0

/-- A saved mode as it is put back: bits [1:0] read as zero (R5, R54). -/
def savedMode (m : Half) : Half := m &&& 0xFFFC

/-- RETURN FROM AN EXCEPTION, the part after the frame is read (R233): mode, mask, service mode and the place to
resume. The fetch at HDR is then made by the resumed split. -/
def resumeFrame (w : Warp) (j : Nat) (f : List Byte) (npc : DWord) : Warp :=
  let svc := (field f 1 1).testBit 7
  ({ w with
    mode := savedMode (BitVec.ofNat 16 (field f 2 2))
    service := svc
    handler := if svc then w.handler else none }).updSplit j fun sp =>
      { sp with
        mask := BitVec.ofNat 64 (field f 40 8) &&& ~~~(otherLanes w j) &&& ~~~w.exited
        pc := npc
        clause := none
        resumeAt := some (BitVec.ofNat 64 (field f 24 8))
        park := .running
        lastPass := none }

end Sys2Proof.Machine
end

