-- ==== Sys2Proof/Machine/Flags.lean ====
section
/-! DEFINITION. Completion flags, batches and the conditions that words wait for (R45 to R48, R173). -/

namespace Sys2Proof.Machine

/-- No flag of the wait mask is pending (R46). -/
def flagsClear (w : Warp) (wm : BitVec 12) : Bool := (List.range 12).all fun f => !(wm.getLsbD f && w.pending f)

/-- The number of a class's batches record in a warp. -/
def Warp.batches (w : Warp) : EngineClass → Batches
  | .K => w.bK
  | .A => w.bA
  | .N => w.bN
  | .G => w.bG

/-- The warp with a class's batches set. -/
def Warp.setBatches (w : Warp) (c : EngineClass) (b : Batches) : Warp :=
  match c with
  | .K => { w with bK := b }
  | .A => { w with bA := b }
  | .N => { w with bN := b }
  | .G => { w with bG := b }

/-- Batch `b` is not after batch `n` (R173). -/
def batchLe (b n : Word) : Bool := decide ((n - b).toNat < 2 ^ 31)

/-- Batch `b` is closed (R173): it lies 1 to 2^31 before the open one. -/
def Batches.closed (x : Batches) (b : Word) : Bool :=
  decide (1 ≤ (x.opened - b).toNat) && decide ((x.opened - b).toNat ≤ 2 ^ 31)

/-- Every closed batch up to `n` has completed: no command of one is outstanding (R173). -/
def Batches.doneTo (x : Batches) (n : Word) : Bool :=
  x.cmds.all fun c => !(x.closed c.2 && batchLe c.2 n)

/-- Every batch, the open one included, has completed (R282). -/
def Batches.idle (x : Batches) : Bool := x.cmds.isEmpty

/-- A command joins the open batch (R173). -/
def joinBatch (w : Warp) (c : EngineClass) (cmd : Nat) : Warp :=
  let b := w.batches c
  w.setBatches c { b with cmds := b.cmds ++ [(cmd, b.opened)] }

/-- A command of a batch has completed (R173), or stopped with an error that fails its batch: its INFO is the batch number,
with the code for LANTERN (R174, R219). -/
def leaveBatch (w : Warp) (c : EngineClass) (cmd : Nat) (err : Option Trap) : Warp :=
  let b := w.batches c
  let n := ((b.cmds.find? fun e => decide (e.1 = cmd)).map fun e => e.2).getD b.opened
  let failed := match err with
    | none => b.failed
    | some t =>
      let info := if t.cls = .lantern then (n <<< 8) ||| (t.info &&& 0xFF) else n
      if b.failed.any fun f => decide (f.batch = n) then b.failed else b.failed ++ [{ batch := n, trap := { t with info := info } }]
  w.setBatches c { b with cmds := b.cmds.filter fun e => decide (e.1 ≠ cmd), failed := failed }

/-- The first failed batch of a class that a wait for `n` covers (R174). -/
def failedFor (x : Batches) (n : Word) : Option FailedBatch :=
  x.failed.find? fun f => x.closed f.batch && batchLe f.batch n

/-- The warp with a failed batch taken (R174). -/
def takeFailed (w : Warp) (c : EngineClass) (b : Word) : Warp :=
  let x := w.batches c
  w.setBatches c { x with failed := x.failed.filter fun f => decide (f.batch ≠ b) }

/-- No register write of the warp is outstanding, short or long (R184, R261). -/
def writesVisible (w : Warp) : Bool :=
  w.pend.isEmpty && w.ops.all fun o =>
    match o.kind with
    | .access a => match a.dest with
      | .nowhere => true
      | _ => false
    | .hold => true
    | .surr _ _ => true
    | .retry => true
    | _ => false

/-- Every memory access of the warp has been performed, remote writes that are sent excepted (R161, R261). -/
def accessesDone (w : Warp) : Bool :=
  w.ops.all fun o =>
    match o.kind with
    | .access a => a.performed || a.sent
    | _ => true

/-- Nothing is attached to any flag of the warp any more (R282, R266). -/
def flagsIdle (w : Warp) : Bool := w.ops.all fun o => decide (o.flag = none)

/-- Matrix operations of the warp still read B (R184). -/
def readingB (w : Warp) (now : Nat) : Bool :=
  w.ops.any fun o =>
    match o.kind with
    | .matrix m => decide (now < m.start + 4)
    | _ => false

/-- A split other than `j` is live. -/
def othersLive (w : Warp) (j : Nat) : Bool := w.splits.any fun e => decide (e.1 ≠ j)

/-- The warp is divided or serialised (R177). -/
def dividedOrSerial (w : Warp) (j : Nat) : Bool := othersLive w j || !w.spills.isEmpty

end Sys2Proof.Machine
end

