-- ==== Sys2Proof/Machine/Issue.lean ====
section
/-! DEFINITION. How a word issues: literals, guards, legality, parks, traps and the step to the next word
(R25, R26, R41, R43, R56, R86, R228). -/

namespace Sys2Proof.Machine

/-- Where a word leaves its split. -/
inductive Next where
  /-- The next word of the body, or the next clause. -/
  | seq
  /-- A taken transfer to a clause start (R46). -/
  | jump (pc : DWord)
  /-- The meaning has placed its splits itself. -/
  | done
deriving DecidableEq, Repr

/-- Which slot a word takes and when it executes (R25, R55, R56, R233). -/
inductive IssueRule where
  /-- The vector slot; `wide` marks the words that take the whole datapath (R12, R26). -/
  | vector (wide : Bool)
  | scalar
  /-- MODE and TRET execute whenever their split issues them. -/
  | always
deriving DecidableEq, Repr

/-- The scalar slot of a quadrant is used in this cycle (R25). -/
def useScalar (s : State) (k : Nat) : State :=
  let c := coreOfSlot k
  let q := quadOfSlot k
  let x := quadAt s c q
  setQuad s c q { x with scalarAt := some s.now }

/-- Vector passes are booked in a quadrant's slot (R25, R26). -/
def bookPasses (s : State) (k : Nat) (ps : List Pass) : State :=
  let c := coreOfSlot k
  let q := quadOfSlot k
  let x := quadAt s c q
  setQuad s c q { x with passes := (x.passes.filter fun p => decide (s.now ≤ p.cycle + 1)) ++ ps }

/-- The passes of a vector word: the words of its mask, both halves when it takes the whole datapath (R12, R26). -/
def passWords (m : Mask) (wide : Bool) : List (BitVec 32) :=
  [m.extractLsb' 0 32, m.extractLsb' 32 32].filter fun x => wide || decide (x ≠ 0)

/-- The passes of a word that reads no bank, from cycle `t` on (R26). -/
def plainPasses (k j first : Nat) (wide : Bool) : Nat → List (BitVec 32) → List Pass
  | _, [] => []
  | t, x :: xs =>
    { cycle := t, slot := k, split := j, first := first, word := x, banks := [], reads := [], port := none, solo := wide }
      :: plainPasses k j first wide (t + 1) xs

/-- A vector word that reads no operand takes its passes, one when no lane is active (R26). It is its split's previous vector
instruction from now on, and has filled no latch (R35). -/
def spendPasses (s : State) (cx : Cx) (wide : Bool) (m : Mask) : State :=
  updSplit (bookPasses s cx.k (plainPasses cx.k cx.j s.now wide s.now (if m = 0 then [0] else passWords m wide))) cx.k cx.j
    fun sp => { sp with latches := noLatches }

/-- The exclusive group a split starts when others of its group are live (R86). DESIGN CHOICE (entry 35): the side that only a live record
holds is no other split, so a split alone beside it starts none. -/
def enterGroup (w : Warp) (j : Nat) : Warp :=
  match tget w.splits j with
  | none => w
  | some sp =>
    if w.splits.any fun e => decide (e.1 ≠ j) && decide (e.2.group = sp.group) then
      ({ w with groups := w.s.getD 61 0 :: w.groups }).updSplit j fun sp => { sp with group := sp.group + 1 }
    else w

/-- The innermost exclusive group has ended (R86): it is empty, or one split with ST at most ST0 that has
completed its word. DESIGN CHOICE (entry 35): a group that holds the live record of a division serialised inside it is not yet a
single split, since the record's lanes come back to it. -/
def groupEnded (w : Warp) (st0 : Word) : Bool :=
  match w.splits.filter fun e => decide (e.2.group = w.groups.length) with
  | [] => true
  | [(j, sp)] => decide ((w.s.getD 61 0).toNat ≤ st0.toNat) && decide (sp.park = .running)
      && !(sp.path.any fun d => d.serial && decide (w.groups.length ≤ d.group))
      && !(w.ops.any fun o => o.blocks && decide (o.split = j))
  | _ => false

/-- Ends exclusive groups at an instruction boundary (R86). -/
def endGroups : Nat → Warp → Warp
  | 0, w => w
  | n + 1, w =>
    match w.groups with
    | [] => w
    | st0 :: rest =>
      if groupEnded w st0 then
        let d := w.groups.length
        endGroups n { w with
          groups := rest
          splits := w.splits.map fun e => if e.2.group = d then (e.1, { e.2 with group := d - 1 }) else e }
      else w

/-- After every word of a warp: exclusive groups that have ended (R86). -/
def afterWord (s : State) (k : Nat) : State := updWarp s k fun w => endGroups w.groups.length w

/-! Fetching (R138, R142, R158, R198). -/

/-- The fault record of a fetch: ENGINE 0, the split's mask (R138, R140). -/
def fetchFault (cx : Cx) (va : DWord) (c : FaultCause) (info : Word) : FaultInfo :=
  { ten := cx.w.ten, asid := cx.w.asid, va := va, lanes := cx.sp.mask, cause := c, engine := 0,
    warp := warpId cx.k cx.j cx.w.iter.isSome, info := info }

/-- Reads a word as an instruction fetch (R130, R138, R158): the fault parks the split before the word, ENGINE 0. A literal in
a sector that its instruction's words before it have touched is not counted again (R142). -/
def readCode (s : State) (cx : Cx) (pc : DWord) (lit : Bool) : Except Stop (Word × State) :=
  let rq := cx.req .fetch .fetch
  match xlateAll s rq pc 4 with
  | .error (.trap c i) => .error (.trapHere (mkTrap c i cx.sp.mask))
  | .error (.faults fs) => .error (.faults (fs.map fun f => fetchFault cx f.va f.cause (BitVec.ofNat 32 (4 * f.level))))
  | .ok cs =>
    if chunksPoisoned s cs then .error (.trapHere (mkTrap .poison (pc.setWidth 32) cx.sp.mask))
    else
      let s1 := touchAll s rq pc cs
      .ok (BitVec.ofNat 32 (leNat (chunkBytes s1 cs)),
        if lit && decide (4 ≤ pc.toNat % 64) then s1 else countAll s1 rq.ten rq.asid (chunkSectors pc cs))

/-- Reads a word that stands by itself. -/
def fetchWord (s : State) (cx : Cx) (pc : DWord) : Except Stop (Word × State) := readCode s cx pc false

/-- The words of a clause's body that can be fetched when it starts, up to the first whose fetch goes wrong: that one is met when
its turn comes (R198). `lits` are the literals still to come of the instruction before. -/
def fetchBody (cx : Cx) : Nat → DWord → Nat → State → List Word × State
  | 0, _, _, s => ([], s)
  | n + 1, pc, lits, s =>
    match readCode s cx pc (decide (0 < lits)) with
    | .error _ => ([], s)
    | .ok (w, s) =>
      let r := fetchBody cx n (pc + 4) (if lits = 0 then litCount (decodeWord w) else lits - 1) s
      (w :: r.1, r.2)

/-- The clause with further words of its body held, when its next word is (R198). -/
def Clause.hold (cl : Clause) (ws : List Word) : Clause := if cl.held = [] then cl else { cl with held := cl.held ++ ws }

/-- The words of its clause that the split holds (R198). -/
def heldWords (sp : Split) : List Word :=
  match sp.clause with
  | some cl => cl.held
  | none => []

/-- The body words left in the split's clause, its own word included. -/
def wordsLeft (sp : Split) : Nat :=
  match sp.clause with
  | some cl => cl.left
  | none => 1

/-- The word the split executes next: the one it holds, or else one fetched, which it then holds with what can be fetched of its
clause's body after it (R138, R198). -/
def nextWord (s : State) (cx : Cx) : Except Stop (Word × State) :=
  match heldWords cx.sp with
  | w :: _ => .ok (w, s)
  | [] =>
    match fetchWord s cx cx.sp.pc with
    | .error e => .error e
    | .ok (w, s) =>
      let b := fetchBody cx (wordsLeft cx.sp - 1) (cx.sp.pc + 4) (litCount (decodeWord w)) s
      .ok (w, updSplit b.2 cx.k cx.j fun sp => { sp with clause := sp.clause.map fun cl => { cl with held := w :: b.1 } })

/-- `n` literal words read from memory. -/
def readLits (cx : Cx) : Nat → DWord → State → Except Stop (List Word × State)
  | 0, _, s => .ok ([], s)
  | n + 1, pc, s =>
    match readCode s cx pc true with
    | .error e => .error e
    | .ok (x, s) =>
      match readLits cx n (pc + 4) s with
      | .error e => .error e
      | .ok (xs, s) => .ok (x :: xs, s)

/-- The literal words of an instruction, in order: those the split holds, and the others fetched (R43, R198). -/
def fetchLits (cx : Cx) (n : Nat) (s : State) : Except Stop (List Word × State) :=
  let got := ((heldWords cx.sp).drop 1).take n
  if got.length = n then .ok (got, s)
  else
    match readLits cx (n - got.length) (cx.sp.pc + BitVec.ofNat 64 (4 * (1 + got.length))) s with
    | .error e => .error e
    | .ok (xs, s) =>
      .ok (got ++ xs, updSplit s cx.k cx.j fun sp => { sp with clause := sp.clause.map fun cl => cl.hold xs })

/-- What a word that waits for earlier ones waits for was issued before this name: the next one when the word is first made (R323). -/
def fenceSince (s : State) (cx : Cx) : Nat :=
  match cx.sp.park with
  | .fence n => n
  | _ => s.nextId

/-- The word is the last of its clause, literals counted (R49). -/
def lastInClause (cx : Cx) (i : Instr) : Bool := decide (wordsLeft cx.sp = 1 + litCount i)

/-- The trap ILLOP of a word, with the word as INFO (R79, R227). -/
def illop (i : Instr) (m : Mask) : Stop := .trap (mkTrap .illop ((encodeWord i).getD 0) m)

/-- The trap of class `c` of a word, with the word as INFO (R227). -/
def wordTrap (c : TrapClass) (i : Instr) (m : Mask) : Stop := .trap (mkTrap c ((encodeWord i).getD 0) m)

/-- The warp as it is when the word of split `j` is made again: a waiting EXIT of another split stays (R29, R282). -/
def Warp.retried (w : Warp) (j : Nat) : Warp :=
  { w with park := if w.park = some .exiting then w.park else none, ops := w.ops.filter fun o => !o.retries j }

/-- The warp and split as they are when the word is made again: not parked (R29). -/
def unpark (s : State) (cx : Cx) : State :=
  updWarp s cx.k fun w => (w.retried cx.j).updSplit cx.j fun sp => { sp with park := .running }

/-- A word whose faults park its split, as a holder of its memory-class flag (R47, R165). -/
def keepFlag {α : Type} : Except Stop α → Except Stop α
  | .error (.faults fs) => .error (.flagged fs)
  | r => r

/-- What holds the flag of a word that waits to be made again. -/
def retryOp (s : State) (cx : Cx) : Op :=
  { id := s.nextId, seq := s.nextId, split := cx.j, order := [cx.j], flag := cxFlag cx true, pc := cx.sp.pc, due := s.now,
    blocks := false, present := false, kind := .retry }

/-- The split of a word that traps: it has issued. -/
def markIssued (s : State) (cx : Cx) : State := updSplit s cx.k cx.j fun sp => sp.issued s.now

/-- The stop of a word: the trap is taken, or the split or warp parks (R29, R138, R231). `s` is the state with the
word's slot used, `s0` the one without. -/
def finishStop (s s0 : State) (cx : Cx) (n : Nat) : Stop → Host.Outcome State Fault Refusal
  | .trap t =>
    let npc := cx.sp.pc + BitVec.ofNat 64 (4 * (n + 1))
    .next (takeTrap (markIssued s cx) cx.k cx.j t cx.sp.pc npc (hdrFor cx.sp npc) false)
  | .trapHere t => .next (takeTrap (markIssued s cx) cx.k cx.j t cx.sp.pc cx.sp.pc (hdrFor cx.sp cx.sp.pc) false)
  | .trapAt t pc =>
    .next (takeTrap (updSplit s cx.k cx.j fun sp => { sp with wakeAt := s.now + 1 }) cx.k cx.j t pc pc pc false)
  | .faults fs =>
    let x := putFaults s0 fs
    .next (updSplit x.1 cx.k cx.j fun sp => { sp with park := .fault x.2, latches := noLatches })
  | .flagged fs =>
    let x := putFaults s0 fs
    .next (dropName (updWarp x.1 cx.k fun w =>
      ({ w with ops := w.ops ++ [retryOp s0 cx] }).updSplit cx.j fun sp => { sp with park := .fault x.2, latches := noLatches }))
  | .presence =>
    .next (updSplit s0 cx.k cx.j fun sp => { sp with park := .presence, latches := noLatches, wakeAt := s.now + 1 })
  | .park p =>
    .next (dropName (updWarp s0 cx.k fun w =>
      (w.parkAs cx.j (if cx.w.park = some p then cx.w.parkOrder else s.nextId) p).updSplit cx.j fun sp =>
        { sp with wakeAt := s.now + 1 }))
  | .hold p => .next (updSplit s0 cx.k cx.j fun sp => { sp with park := p, latches := noLatches, wakeAt := s.now + 1 })
  | .asleep cs => .next (updSplit (wakeAll s0 cs) cx.k cx.j fun sp => { sp with wakeAt := s.now + 1 })
  | .wait => .next (updSplit s0 cx.k cx.j fun sp => { sp with wakeAt := s.now + 1 })

/-- A word's split goes on as `Next` says. -/
def finishNext (s : State) (cx : Cx) (n : Nat) : Next → State
  | .seq => afterWord (updSplit s cx.k cx.j fun sp => sp.advance s.now n) cx.k
  | .jump pc => afterWord (updSplit s cx.k cx.j fun sp => sp.jump s.now pc) cx.k
  | .done => afterWord s cx.k

/-- The lanes a word runs in: MODE and TRET run whatever the guard, which counts as all lanes (R26, R55, R320; for TRET DEDUCED
from R355, entry 34). -/
def wordLanes (rule : IssueRule) (s : State) (cx : Cx) : Mask := if rule = .always then cx.sp.mask else eff s cx

/-- The slot of a word that executes or traps is used: a vector word's own meaning books its passes. -/
def useSlot (rule : IssueRule) (s : State) (k : Nat) : State :=
  match rule with
  | .vector _ => s
  | _ => useScalar s k

/-- The slot of a word that does nothing else: it traps, or no lane is active (R25, R26, R78). -/
def spendSlot (rule : IssueRule) (s : State) (cx : Cx) : State :=
  match rule with
  | .vector wide => spendPasses s cx wide (eff s cx)
  | _ => useScalar s cx.k

/-- ISSUE OF ONE WORD (R26, R41, R43, R56). With no active lane the word is a no-operation that consumes its
literals. Otherwise its fields are checked, its literals are read, and its meaning runs. `excl` marks the words of
R86. -/
def runWord (rule : IssueRule) (excl : Bool) (i : Instr) (s : State)
    (body : Cx → List Word → State → Except Stop (State × Next)) : Host.Outcome State Fault Refusal :=
  match focus s with
  | none => .next s
  | some cx =>
    let n := litCount i
    let st := unpark s cx
    if wordLanes rule s cx = 0 then .next (finishNext (spendSlot rule st cx) cx (min n (wordsLeft cx.sp - 1)) .seq)
    else if !legal i || decide (wordsLeft cx.sp < n + 1) then
      finishStop (spendSlot rule st cx) st cx (min n (wordsLeft cx.sp - 1)) (illop i (wordLanes rule s cx))
    else
      match fetchLits cx n st with
      | .error e => finishStop st st cx n e
      | .ok (ls, s1) =>
        let s2 := if excl then updWarp s1 cx.k fun w => enterGroup w cx.j else s1
        match body cx ls (useSlot rule s2 cx.k) with
        | .ok (s3, nx) => .next (finishNext s3 cx n nx)
        | .error e => finishStop (spendSlot rule s1 cx) s2 cx n e

end Sys2Proof.Machine
end

