-- ==== Sys2Proof/Machine/Operands.lean ====
section
/-! DEFINITION. Vector operands: names, bounds, kegs, banks and latches, reads and result writes (R33 to R38, R42,
R51, R83, R97 to R99). -/

namespace Sys2Proof.Machine

/-- The engine ports of R83. -/
inductive Port where
  | loadStore | sfu | heading | array
deriving DecidableEq, Repr

/-- The number of a port in a booked pass. -/
def Port.code : Port → Nat
  | .loadStore => 0
  | .sfu => 1
  | .heading => 2
  | .array => 3

/-- Blocks of the brew file (R96). -/
def brewBlocks (b : Brew) : Nat := 256 / b.fresh

/-- The brew slot Xj names in iteration warp `k`, when it has one: for a predecessor before warp 0, none (R97, R98). -/
def brewSlot (b : Brew) (k j : Nat) : Option Nat :=
  let g := j / b.fresh
  if g ≤ k then some (b.fresh * ((k - g) % brewBlocks b) + j % b.fresh) else none

/-- What a source code is, resolved for a warp. -/
inductive Source where
  | reg (n : Nat)
  | brew (slot : Nat) (own : Bool)
  | keg (k : Nat)
  | const (r : Row)
deriving DecidableEq, Repr

/-- A legal source code resolved; none where the X name is ILLOP (R97). `lit` is the literal of its position. -/
def resolve (s : State) (cx : Cx) (c : BitVec 7) (lit : Word) : Option Source :=
  match vOperand c with
  | .v n => some (.reg n)
  | .x j =>
    match cx.w.iter, brewOf s cx.k with
    | some k, some b =>
      if j < b.fresh * b.ages then
        match brewSlot b k j with
        | some sl => some (.brew sl (decide (j < b.fresh)))
        | none => some (.const zeroRow)
      else none
    | _, _ => none
  | .keg k => some (.keg k)
  | .zr => some (.const zeroRow)
  | .ln => some (.const (rowOf fun l => BitVec.ofNat 32 l))
  | .it => some (.const (List.replicate 64 (BitVec.ofNat 32 (cx.w.iter.getD 0))))
  | .ww => some (.const (List.replicate 64 64))
  | .lit => some (.const (List.replicate 64 lit))
  | .reserved => none

/-- The sources of a word with their literals handed out in position order (R43). -/
def resolveAll (s : State) (cx : Cx) : List (BitVec 7) → List Word → Option (List Source)
  | [], _ => some []
  | c :: cs, ls =>
    let isLit := decide (c.toNat = 127)
    match resolve s cx c (if isLit then ls.headD 0 else 0), resolveAll s cx cs (if isLit then ls.drop 1 else ls) with
    | some x, some xs => some (x :: xs)
    | _, _ => none

/-- A destination code resolved; none where the X name is ILLOP (R97). A keg's entry is named `id`. -/
def resolveDest (s : State) (cx : Cx) (c : BitVec 7) (id : Nat) : Option Dest :=
  match vOperand c with
  | .v n => some (.v n)
  | .x j =>
    match cx.w.iter, brewOf s cx.k with
    | some k, some b =>
      if j < b.fresh then (brewSlot b k j).map .brew else none
    | _, _ => none
  | .keg k => some (.keg k id)
  | .zr => some .none
  | _ => none

/-- The static registers named go beyond the allotment (R33); INFO is the first such index. -/
def boundFail (w : Warp) (ns : List Nat) : Option Nat := ns.find? fun n => decide (8 * w.allot ≤ n)

/-- The kegs a list of sources pops, in position order (R37). -/
def popsOf (src : List Source) : List Nat :=
  src.filterMap fun x =>
    match x with
    | .keg k => some k
    | _ => none

/-- Enough written entries stand at the head of a keg for `n` pops (R37). -/
def kegHas (g : Workgroup) (k n : Nat) : Bool :=
  decide (n ≤ (kegAt g k).entries.length) && ((kegAt g k).entries.take n).all fun e => e.written

/-- A keg has room for a push (R37). -/
def kegRoom (g : Workgroup) (k : Nat) : Bool := decide ((kegAt g k).entries.length < (kegAt g k).cap)

/-- The keg a word must wait for, if any (R37). -/
def kegWait (g : Workgroup) (pops : List Nat) (push : Option Nat) : Option Nat :=
  match pops.find? fun k => !kegHas g k (pops.filter fun x => decide (x = k)).length with
  | some k => some k
  | none =>
    match push with
    | some k => if kegRoom g k then none else some k
    | none => none

/-- An unconfigured keg among those named (R37). -/
def kegUnset (g : Workgroup) (ks : List Nat) : Option Nat := ks.find? fun k => decide ((kegAt g k).cap = 0)

/-- A source waits for presence (R98). -/
def waitsPresence (s : State) (c : Nat) (src : List Source) : Bool :=
  src.any fun x =>
    match x with
    | .brew sl own => !own && !((coreAt s c).presence.getLsbD sl)
    | _ => false

/-- A brew slot as its own warp reads it (R52). -/
def readBrew (s : State) (cx : Cx) (sl : Nat) : Row := blendRow s cx.w.ops (.brew sl) (brewRow s (coreOfSlot cx.k) sl)

/-- The oldest entry of a keg, as its pop reads it from the workgroup's SRAM (R37, entry 32). -/
def kegHead (s : State) (g : Workgroup) (kg : Keg) : Row :=
  bytesRow (readBytes s none (kegPlace g kg ((kg.entries.head?.map fun e => e.place).getD 0)) 256)

/-- The rows the sources give, kegs popped in position order (R37). -/
def readSources (s : State) (cx : Cx) (g : Workgroup) : List Source → List Row × Workgroup
  | [] => ([], g)
  | x :: xs =>
    match x with
    | .reg n => let y := readSources s cx g xs; (readV s cx.w n :: y.1, y.2)
    | .brew sl own =>
      let y := readSources s cx g xs
      ((if own then readBrew s cx sl else brewRow s (coreOfSlot cx.k) sl) :: y.1, y.2)
    | .const r => let y := readSources s cx g xs; (r :: y.1, y.2)
    | .keg k =>
      let kg := kegAt g k
      let y := readSources s cx { g with kegs := g.kegs.set k { kg with entries := kg.entries.drop 1 } } xs
      (kegHead s g kg :: y.1, y.2)

/-- A push reserves the next place of a keg, under the name `id` (R37). -/
def reserveKeg (g : Workgroup) (d : Dest) : Workgroup :=
  match d with
  | .keg k id =>
    let kg := kegAt g k
    { g with kegs := g.kegs.set k { kg with
        next := (kg.next + 1) % kg.cap
        entries := kg.entries ++ [{ id := id, place := kg.next, written := false }] } }
  | _ => g

/-- The number a latch holds for a source (R35). -/
def latchOfSource : Source → Option Nat
  | .reg n => some n
  | .brew sl _ => some (512 + sl)
  | _ => none

/-- The bank a source reads: 0 to 5 static, 6 to 9 the core's brew banks (R34). -/
def bankOf (n : Nat) : Nat := if n < 512 then n % 6 else 6 + (n - 512) % 4

/-- The bank reads of each pass: positions a, b, c unless their latch holds the register, and further reads (R34, R35). -/
def bankReads (latches : List (Option Nat)) (pos : List (Option Nat)) (extra : List Nat) : List Nat :=
  ((pos.zip (latches ++ noLatches)).filterMap fun e =>
    match e.1 with
    | some n => if e.2 = some n then none else some (bankOf n)
    | none => none) ++ extra.map bankOf

/-- The operands of a pass that find their bank occupied by an earlier one, of `seen` or of their own, in position order (R34). -/
def extraReads : List Nat → List Nat → List Nat
  | _, [] => []
  | seen, b :: r => if seen.contains b then b :: extraReads seen r else extraReads (b :: seen) r

/-- The banks that the four brew banks of the core serve (R34, R98). -/
def brewBanks (banks : List Nat) : List Nat := banks.filter fun b => decide (6 ≤ b)

/-- The brew banks read in each cycle of a pass: one operand of each bank first, and then, in a stall cycle of its own, each
that finds its bank occupied (R34). -/
def roundsOf (banks : List Nat) : List (List Nat) :=
  brewBanks banks.eraseDups :: (extraReads [] banks).map fun b => brewBanks [b]

/-- A quadrant of the core with a lower number reads one of these brew banks in cycle `t` (R98). -/
def crossed (s : State) (k : Nat) (reads : List Nat) (t : Nat) : Bool :=
  (List.range (quadOfSlot k)).any fun q => (quadAt s (coreOfSlot k) q).passes.any fun p =>
    decide (p.cycle = t) && reads.any fun b => p.reads.contains b

/-- The stall cycles of a read from cycle `t` on: one for each cycle in which a lower quadrant reads a bank it needs (R98). -/
def crossStall (s : State) (k : Nat) (reads : List Nat) : Nat → Nat → Nat
  | 0, _ => 0
  | n + 1, t => if crossed s k reads t then 1 + crossStall s k reads n (t + 1) else 0

/-- The brew banks read in each cycle of a pass from cycle `t` on, with the stall cycles that lower quadrants cost, in which it reads
nothing (R34, R98). -/
def roundCycles (s : State) (k : Nat) : Nat → List (List Nat) → List (List Nat)
  | _, [] => []
  | t, r :: rs =>
    let n := crossStall s k r 16 t
    List.replicate n [] ++ r :: roundCycles s k (t + n + 1) rs

/-- One pass with its stall cycles, which read `rs` cycle by cycle (R26, R34). -/
def passCycles (cx : Cx) (first : Nat) (banks : List Nat) (port : Option Nat) (wide : Bool) (x : BitVec 32) (t : Nat)
    (rs : List (List Nat)) : List Pass :=
  (List.range rs.length).map fun i =>
    { cycle := t + i, slot := cx.k, split := cx.j, first := first, word := x, banks := banks, reads := rs.getD i [], port := port
      solo := wide }

/-- The booked cycles of a vector word from cycle `t` on, each pass with its own bank stalls and those of other quadrants,
and the stall cycles in all (R26, R34, R98). -/
def bookFrom (s : State) (cx : Cx) (banks : List Nat) (port : Option Nat) (wide : Bool) : Nat → List (BitVec 32) → List Pass × Nat
  | _, [] => ([], 0)
  | t, x :: xs =>
    let rs := roundCycles s cx.k t (roundsOf banks)
    let r := bookFrom s cx banks port wide (t + rs.length) xs
    (passCycles cx s.now banks port wide x t rs ++ r.1, rs.length - 1 + r.2)

/-- A booked pass takes one stall cycle, in cycle `t`: its read and what its word still has to come move on, and so does the word's
result (R51, R98). -/
def stallPass (s : State) (c q t : Nat) (p : Pass) : State :=
  let x := quadAt s c q
  let mine := fun (o : Pass) => decide (o.slot = p.slot) && decide (o.split = p.split) && decide (o.first = p.first)
  let moved := x.passes.map fun o => if mine o && decide (t ≤ o.cycle) then { o with cycle := o.cycle + 1 } else o
  let s := setQuad s c q { x with passes := { p with reads := [] } :: moved }
  updWarp s p.slot fun w =>
    { w with pend := w.pend.map fun o =>
        if decide (o.split = p.split) && decide (o.first = p.first) then { o with due := o.due + 1 } else o }

/-- Each booked pass of quadrant `q` that a lower quadrant holds up in cycle `t` takes a stall cycle: two that share the cycle (R83) both
(R51, R98). -/
def holdUp (s : State) (c q t : Nat) : State :=
  ((quadAt s c q).passes.filter fun p =>
    decide (p.cycle = t) && decide (p.slot / 16 = 4 * c + q) && crossed s p.slot p.reads t).foldl (fun u p => stallPass u c q t p) s

/-- Cycles that booked passes can reach. -/
def bookedReach : Nat := 64

/-- The brew banks that new passes of a quadrant read are lost to the passes booked in quadrants with a higher number, cycle by cycle
(R98). -/
def holdUpAll (s : State) (k : Nat) (ps : List Pass) : State :=
  if ps.all fun p => p.reads.isEmpty then s
  else
    ((List.range 4).filter fun q => decide (quadOfSlot k < q)).foldl (fun u q =>
      (List.range bookedReach).foldl (fun u i => holdUp u (coreOfSlot k) q (s.now + i)) u) s

/-- What a vector word has read: the rows of its sources, its destination, its stall cycles, and the state with
its keg entries popped and reserved and its passes booked. -/
structure VIn where
  rows : List Row
  dest : Dest
  stalls : Nat
  s : State

/-- A vector word to be read: `srcs` are positions a, b, c, the first of them position `lead`; `popD` is a further source, the data of a store, or the field b that a
unary form only decodes, with `idle` set (R353); `extra` are static registers read besides; `more` are further static registers
that it names. -/
structure VSpec where
  srcs : List (BitVec 7)
  dst : Option (BitVec 7)
  extra : List Nat
  more : List Nat
  both : Bool
  port : Option Port
  long : Option Bool
  popD : Option (BitVec 7)
  idle : Bool
  bank : Bool
  lead : Nat
deriving DecidableEq, Repr

/-- A short vector word with sources and a destination. -/
def VSpec.simple (dst : BitVec 7) (srcs : List (BitVec 7)) : VSpec :=
  { srcs := srcs, dst := some dst, extra := [], more := [], both := false, port := none, long := none, popD := none,
    idle := false, bank := true, lead := 0 }

/-- A short vector word with one source, whose field b is only decoded (R353). -/
def VSpec.unary (dst a b : BitVec 7) : VSpec := { VSpec.simple dst [a] with popD := some b, idle := true }

/-- The static register a code names. -/
def codeReg (c : BitVec 7) : List Nat := if c.toNat < 80 then [c.toNat] else []

/-- The keg a code names. -/
def codeKeg (c : BitVec 7) : List Nat := if 112 ≤ c.toNat ∧ c.toNat < 120 then [c.toNat - 112] else []

/-- OPERANDS OF A VECTOR WORD. The checks in order: X names ILLOP (R97), CLAUSE (R48), REGBOUND (R33), QUEUE (R37),
presence (R98), kegs (R37). Then sources are read, entries popped and reserved, and passes booked. -/
def readOperands (i : Instr) (cx : Cx) (ls : List Word) (v : VSpec) (s : State) : Except Stop VIn :=
  let e := eff s cx
  let srcs := v.srcs ++ v.popD.toList
  match resolveAll s cx srcs ls, (match v.dst with
      | none => some Dest.none
      | some c => resolveDest s cx c s.nextId) with
  | some src, some dst =>
    let noFlag := match v.long, cx.sp.clause with
      | some mem, some cl => (flagOf cl mem).isNone
      | some _, none => true
      | none, _ => false
    if noFlag then .error (wordTrap .clause i e)
    else
      match boundFail cx.w (srcs.flatMap codeReg ++ v.extra ++ v.dst.toList.flatMap codeReg ++ v.more) with
      | some n => .error (.trap (mkTrap .regbound (BitVec.ofNat 32 n) e))
      | none =>
        match kegUnset cx.g (srcs.flatMap codeKeg ++ v.dst.toList.flatMap codeKeg) with
        | some k => .error (.trap (mkTrap .queue (BitVec.ofNat 32 k) e))
        | none =>
          let used := if v.idle then src.take v.srcs.length else src
          if waitsPresence s (coreOfSlot cx.k) used then .error .presence
          else
            match kegWait cx.g (popsOf src) (v.dst.toList.flatMap codeKeg).head? with
            | some k => .error (.park (.keg k))
            | none =>
              let rd := readSources s cx cx.g src
              let pos := List.replicate v.lead none ++ (src.take v.srcs.length).map latchOfSource
              let banks := if v.bank then
                  bankReads cx.sp.latches pos (v.extra ++ (used.drop v.srcs.length).filterMap latchOfSource)
                else []
              let bk := bookFrom s cx banks (v.port.map Port.code) v.both s.now (passWords e v.both)
              let s := dropName (setWg s cx.w.wg (reserveKeg rd.2 dst))
              let s := holdUpAll (bookPasses s cx.k bk.1) cx.k bk.1
              let s := updSplit s cx.k cx.j fun sp => { sp with latches := if v.bank then (pos ++ noLatches).take 3 else noLatches }
              .ok { rows := rd.1, dest := dst, stalls := bk.2, s := dropFresh s }
  | _, _ => .error (illop i e)

/-- Row `n` of the operands read. -/
def VIn.row (v : VIn) (n : Nat) : Row := v.rows.getD n zeroRow

/-- The warp has one split: it is not divided, and no division of it is serialised (R85, R99). -/
def Warp.single (w : Warp) : Bool := decide (w.splits.length ≤ 1) && w.spills.isEmpty

/-- Presence of a brew destination: the write itself sets it while the warp has one split; in a divided warp it is
deferred to the RJOIN that leaves one (R99). -/
def notePresence (w : Warp) (d : Dest) : Warp :=
  match d with
  | .brew sl =>
    if w.single || w.deferPresence.contains sl then w
    else { w with deferPresence := w.deferPresence ++ [sl] }
  | _ => w

/-- The pending write of a short-latency result (R51). -/
def pendOf (s : State) (w : Warp) (j : Nat) (d : Dest) (x : Payload) (m : Mask) (lat : Nat) : PendWrite :=
  { dest := d, payload := x, lanes := m, first := s.now, split := j, due := s.now + lat, seq := s.nextId, present := w.single }

/-- The write of a brew slot that issues empties the latches that hold it in the other warps of the core too: the brew file is the
core's (R35, R97). -/
def unlatchOthers (s : State) (k : Nat) (d : Dest) : State :=
  match d with
  | .brew _ =>
    { s with warps := s.warps.map fun e =>
        if decide (e.1 ≠ k) && decide (coreOfSlot e.1 = coreOfSlot k) then (e.1, e.2.unlatch d) else e }
  | _ => s

/-- A short-latency result of split `j`, visible from cycle now + latency + stalls on (R50, R51). -/
def emit (s : State) (k j : Nat) (d : Dest) (x : Payload) (m : Mask) (lat : Nat) : State :=
  dropName (updWarp (unlatchOthers s k d) k fun w =>
    let w := (notePresence w d).unlatch d
    match d with
    | .none => w
    | _ => { w with pend := w.pend ++ [pendOf s w j d x m lat] })

/-- The outstanding operation of a long-latency word (R47). -/
def opOf (s : State) (cx : Cx) (flag : Option Nat) (due : Nat) (blocks : Bool) (kd : OpKind) : Op :=
  { id := s.nextId, seq := s.nextId, split := cx.j, order := [cx.j], flag := flag, pc := cx.sp.pc, due := due, blocks := blocks,
    present := cx.w.single, kind := kd }

/-- A long-latency operation attached to a flag (R47). -/
def addOp (s : State) (cx : Cx) (flag : Option Nat) (due : Nat) (blocks : Bool) (d : Dest) (kd : OpKind) : State :=
  dropName (updWarp (unlatchOthers s cx.k d) cx.k fun w =>
    let w := (notePresence w d).unlatch d
    { w with ops := w.ops ++ [opOf s cx flag due blocks kd] })

/-- A VECTOR WORD WITH ONE SHORT-LATENCY RESULT ROW: the shape of vector arithmetic (R50, R51, R357). -/
def vectorRow (i : Instr) (v : VSpec) (lat : Nat) (ok : Half → Bool) (f : State → Cx → VIn → Row) (s : State) :
    Host.Outcome State Fault Refusal :=
  runWord (.vector v.both) false i s fun cx ls s =>
    if !ok cx.w.mode then .error (illop i (eff s cx))
    else
      match readOperands i cx ls v s with
      | .error e => .error e
      | .ok x => .ok (emit x.s cx.k cx.j x.dest (.row (f s cx x)) (eff s cx) (lat + x.stalls), .seq)

/-- Every mode is legal for the word. -/
def anyMode (_ : Half) : Bool := true

end Sys2Proof.Machine
end

