-- ==== Sys2Proof/Machine/Access.lean ====
section
/-! DEFINITION. The memory access engine: checks lane by lane, pieces, ordering, performance, completion and replay
(R138 to R142, R148 to R157, R160, R161, R229, R360). -/

namespace Sys2Proof.Machine

/-! Checks and translation. -/

/-- One piece, not yet cut into locations, is checked in the order of R138: DANGLE, R130, R135, R132, ALIGN. -/
def checkPiece (s : State) (rq : Req) (align : Bool) (p : Piece) : Except Bad (List Chunk) :=
  match xlateAll s rq p.va p.len with
  | .error b => .error b
  | .ok cs => if align && decide (p.va.toNat % 4 ≠ 0) then .error (.trap .align (p.va.setWidth 32)) else .ok cs

/-- A piece, and what its check gives when it is checked. -/
abbrev Checked := Piece × Option (Except Bad (List Chunk))

/-- A piece cut into the locations it was translated for (R149). -/
def Piece.cut (p : Piece) (cs : List Chunk) : List Piece :=
  cs.map fun c =>
    { p with
      off := p.off + c.1, len := c.2.1, va := p.va + BitVec.ofNat 64 c.1, at? := some c.2.2.1
      data := if cs.length = 1 then p.data else (p.data.drop c.1).take c.2.1, faults := [] }

/-- The mask of the lanes of pieces. -/
def lanesOfPieces (ps : List Piece) : Mask := maskOf fun l => ps.any fun p => decide (p.lane = l)

/-- The lanes that a record or frame names of an access for those concerned: a scalar word and a fragment word name their
effective mask (R140, R232). -/
def Access.named (a : Access) (m : Mask) : Mask := if a.tile.isSome || decide (a.engine = 2) then a.lanes else m

/-- The trap a list of checks raises: the lowest class, its lanes, the INFO of its lowest lane (R228). -/
def lowestTrap (a : Access) (rs : List Checked) : Option Trap :=
  let ts := rs.filterMap fun e =>
    match e.2 with
    | some (.error (.trap c i)) => some (c, i, e.1.lane)
    | _ => none
  match ts with
  | [] => none
  | t :: r =>
    let n := r.foldl (fun n e => min n (classNo e.1)) (classNo t.1)
    match ts.filter fun e => decide (classNo e.1 = n) with
    | [] => none
    | m :: ms => some { cls := m.1, info := m.2.1, lanes := a.named (maskOf fun l => (m :: ms).any fun e => decide (e.2.2 = l)) }

/-- The access a kind of access needs (R135, R175, R362). -/
def AccessKind.acc : AccessKind → Acc
  | .load => .load
  | .store => .store
  | .reduce _ _ => .store
  | .atomic _ _ => .atomic

/-- The path of an access (R132, R176, R179). -/
def Access.path (a : Access) : Path :=
  match a.kind with
  | .reduce _ _ => .reduce
  | .atomic _ _ => .atomic
  | _ => if a.engine = 3 then .frag else .plain

/-- The address must be a multiple of 4 (R175, R361). -/
def AccessKind.aligned : AccessKind → Bool
  | .reduce _ _ => true
  | .atomic _ _ => true
  | _ => false

/-- A faulting page with the lanes that fault in it, added to those of lower lanes. -/
def addPage (l : Nat) (f : PageFault) : List (PageFault × Mask) → List (PageFault × Mask)
  | [] => [(f, 1#64 <<< l)]
  | e :: r => if e.1.same f then (e.1, e.2 ||| (1#64 <<< l)) :: r else e :: addPage l f r

/-- The faulting pages of an access, in the order of their lowest lanes (R140). -/
def pagesOf (rs : List Checked) : List (PageFault × Mask) :=
  rs.foldl (fun ps e =>
    match e.2 with
    | some (.error (.faults fs)) => fs.foldl (fun ps f => addPage e.1.lane f ps) ps
    | _ => ps) []

/-- The record of a faulting page of an access (R140, R180). -/
def pageRecord (cx : Cx) (a : Access) (e : PageFault × Mask) : FaultInfo :=
  { ten := cx.w.ten, asid := cx.w.asid, va := a.tile.getD e.1.va, lanes := a.named e.2, cause := e.1.cause, engine := a.engine
    warp := warpId cx.k cx.j cx.w.iter.isSome, info := faultInfo a.kind.acc e.1.level }

/-- The pieces after a check, in place: cut into locations where it succeeds, waiting for the records of its pages where it
faults. -/
def pieceAfter (refs : List (PageFault × FaultRef)) (e : Checked) : List Piece :=
  match e.2 with
  | some (.ok cs) => e.1.cut cs
  | some (.error (.faults fs)) =>
    [{ e.1 with at? := none, faults := (refs.filter fun x => fs.any fun f => x.1.same f).map fun x => x.2 }]
  | _ => [e.1]

/-- What the translation of an access gives: its pieces, the state with A, D, cached translations and records, and
whether any lane faults. -/
structure Translated where
  pieces : List Piece
  s : State
  faulted : Bool

/-- The pieces of an access for which `sel` holds are checked and translated (R138). -/
def translateAccess (s : State) (cx : Cx) (a : Access) (sel : Piece → Bool) : Except Trap Translated :=
  let rq := cx.req a.kind.acc a.path
  let rs : List Checked := a.pieces.map fun p => (p, if sel p then some (checkPiece s rq a.kind.aligned p) else none)
  match lowestTrap a rs with
  | some t => .error t
  | none =>
    let fs := pagesOf rs
    let s1 := rs.foldl (fun s e =>
      match e.2 with
      | some (.ok cs) => touchAll s rq e.1.va cs
      | _ => s) s
    let x := putFaults s1 (fs.map (pageRecord cx a))
    .ok { pieces := rs.flatMap (pieceAfter ((fs.map fun f => f.1).zip x.2)), s := x.1, faulted := !fs.isEmpty }

/-! Issue. -/

/-- The operation holds an entry of its quadrant's fault buffer: some lane faulted, and it is not complete (R139). -/
def Op.buffered (o : Op) : Bool :=
  match o.kind with
  | .access a => a.buffered
  | _ => false

/-- Entries of a quadrant's fault buffer in use (R139). -/
def bufferUsed (s : State) (k : Nat) : Nat :=
  ((s.warps.filter fun e => decide (e.1 / 16 = k / 16)).flatMap fun e => e.2.ops.filter Op.buffered).length

/-- The access returns data: it binds a value (R152). -/
def AccessKind.binds : AccessKind → Bool
  | .load => true
  | .atomic _ _ => true
  | _ => false

/-- An acquire load of the split is still to be performed (R153). -/
def behindAcquire (w : Warp) (j : Nat) : Bool :=
  w.ops.any fun o =>
    match o.kind with
    | .access a => o.before j && a.acq.isSome && !a.performed
    | _ => false

/-- ISSUE OF A MEMORY ACCESS: its lanes are checked, one outstanding operation holds it, and the split parks when
lanes fault (R138, R139, R360). One that issues behind an acquire holds its entry of the fault buffer from here on (DEDUCED, entry 58). -/
def issueAccess (cx : Cx) (s : State) (a : Access) (d : Dest) : Except Stop (State × Next) :=
  if bufferUsed s cx.k ≥ 64 then .error .wait
  else
    match translateAccess s cx a fun _ => true with
    | .error t => .error (.trap t)
    | .ok t =>
      let id := t.s.nextId
      let late := behindAcquire cx.w cx.j
      let a' : Access := { a with pieces := t.pieces, buffered := t.faulted || late, late := late }
      let s := addOp t.s cx (cxFlag cx true) (s.now + nextTime t.s) false d (.access a')
      let s := dropTime (updWarp s cx.k fun w => (a.outs).foldl (fun w e => w.unlatch e.1) w)
      .ok (if t.faulted then updSplit s cx.k cx.j fun sp => { sp with park := .access id, latches := noLatches } else s, .seq)

/-- A piece not yet cut or translated. -/
def mkPiece (l off len : Nat) (va : DWord) (data : List Byte) : Piece :=
  { lane := l, off := off, len := len, va := va, at? := none, data := data, done := false, faults := [] }

/-- An access of the vector load-store path. -/
def mkAccess (kd : AccessKind) (dest : LoadDest) (lanes : Mask) (ps : List Piece) : Access :=
  { kind := kd, dest := dest, lanes := lanes, pieces := ps, acq := none, rel := none, engine := 1, tile := none,
    performed := false, remote := false, sext := false, buffered := false, late := false }

/-! Ordering within a split (R151 to R153). -/

/-- The 8-byte location of a piece (R149). -/
def Piece.location (p : Piece) : Option Nat := p.at?.map fun x => x.loc / 8

/-- Two accesses touch one location. -/
def sharesLocation (a b : Access) : Bool :=
  a.pieces.any fun p => b.pieces.any fun q =>
    (p.location.isSome && decide (p.location = q.location)) || decide (p.va.toNat / 8 = q.va.toNat / 8)

/-- The earlier access `b` of the split must be performed before `a` (R151, R152, R153, R161). DEDUCED (entry 26): accesses of a split to one
location of kind REMOTE keep program order (R151), unordered though R161 calls them. -/
def mustFollow (a b : Access) : Bool :=
  b.acq.isSome || (a.rel.isSome && (!b.sent || decide (a.rel = some .dom))) || sharesLocation a b
    || (b.kind.binds && a.kind.stores)

/-- No earlier access of its split holds the access back. -/
def orderAllows (w : Warp) (o : Op) (a : Access) : Bool :=
  w.ops.all fun e =>
    match e.kind with
    | .access b => !(e.before o.split && decide (e.seq < o.seq) && !b.performed && mustFollow a b)
    | _ => true

/-- A piece can be performed: translated, not yet done, and not sent. -/
def Access.open (a : Access) (p : Piece) : Bool := !p.done && p.at?.isSome && p.faults.isEmpty && !(a.remote && p.remote && a.kind.stores)

/-- The cores whose SRAM slices the open pieces lie in. -/
def Access.slices (a : Access) : List Nat :=
  (a.pieces.filter a.open).filterMap fun p =>
    p.at?.bind fun x => if spaceOf x.loc = 0 then some (x.loc / Config.sliceBytes) else none

/-! Performance. -/

/-- The two operand words an atomic piece carries. -/
def Piece.operands (p : Piece) : Word × Word := (BitVec.ofNat 32 (leNat (p.data.take 4)), BitVec.ofNat 32 (leNat (p.data.drop 4)))

/-- A read-modify-write of the word at a location, in its coherence order: the new state and the old value (R149, R156). -/
def atomAt (s : State) (x : Xlat) (op : AtomOp) (et : ElemType) (a b : Word) : State × Word :=
  let v : Word := BitVec.ofNat 32 (leNat (rawBytes s x.key x.loc 4))
  (writeBytes s x.key x.loc (leBytes 4 (atomWord op et v a b).toNat), v)

/-- The reductions that take their place in the coherence order with those `sel` holds for: these, and those applied at one of their
locations that arrived there before (R160; DEDUCED, entry 46). -/
def placedWith (reds : List Reduction) (sel : Reduction → Bool) (r : Reduction) : Bool :=
  sel r || (r.applied && reds.any fun x => sel x && decide (x.location = r.location) && decide (r.id < x.id))

/-- The reductions that `sel` holds for, and what arrived before them at their locations, take their place in the coherence order,
after what it holds, in their arrival order (R160). -/
def placeReductions (s : State) (sel : Reduction → Bool) : State :=
  { (s.reds.filter (placedWith s.reds sel)).foldl (fun s r => (atomAt s r.xl r.op r.et r.val 0).1) s with
    reds := s.reds.filter fun r => !placedWith s.reds sel r }

/-- One piece performed at memory, and whether its data is marked uncorrectable. -/
def performPiece (s : State) (kd : AccessKind) (p : Piece) : State × Piece × Bool :=
  match p.at? with
  | none => (s, p, false)
  | some x =>
    match kd with
    | .load => (s, { p with data := readBytes s x.key x.loc p.len, done := true }, poisoned s x.loc p.len)
    | .store => (writeBytes s x.key x.loc p.data, { p with done := true }, false)
    | .atomic op et =>
      if poisoned s x.loc 4 then (s, { p with done := true }, true)
      else
        let r := atomAt s x op et p.operands.1 p.operands.2
        (r.1, { p with data := leBytes 4 r.2.toNat, done := true }, false)
    | .reduce _ _ => (s, { p with done := true }, false)

/-- The pieces for which `sel` holds performed in order, and the poisoned ones. -/
def performList (sel : Piece → Bool) (kd : AccessKind) : List Piece → State → State × List Piece × List Piece
  | [], s => (s, [], [])
  | p :: ps, s =>
    if sel p then
      let r := performPiece s kd p
      let rest := performList sel kd ps r.1
      (rest.1, r.2.1 :: rest.2.1, if r.2.2 then p :: rest.2.2 else rest.2.2)
    else
      let rest := performList sel kd ps s
      (rest.1, p :: rest.2.1, rest.2.2)

/-- The pieces in an order that free values choose (R148, R163 item 6). -/
def shuffle (f : Nat) : Nat → List Piece → List Piece
  | 0, ps => ps
  | n + 1, ps =>
    match ps with
    | [] => []
    | p :: r =>
      let i := Config.freeChoice f (2 * n) % (r.length + 1)
      (p :: r).getD i p :: shuffle f n ((p :: r).eraseIdx i)

/-- Stores of one instruction to one location take effect in an order the manual leaves open; distinct locations need
no choice. -/
def storeOrder (s : State) (kd : AccessKind) (ps : List Piece) : List Piece :=
  if decide (kd = .store) && !decide ((ps.map Piece.location).Nodup) then shuffle s.fresh ps.length ps else ps

/-- The reductions of an accepted NMRED, in ascending lane order (R160, R175). -/
def reductionsOf (s : State) (k : Nat) (w : Warp) (cmd seq : Nat) (op : AtomOp) (et : ElemType) (ps : List Piece) : List Reduction :=
  ps.filterMap fun p => p.at?.map fun x =>
    { id := s.nextId + p.lane + 1, slot := k, cmd := cmd, op := op, et := et, val := p.operands.1, seq := seq, va := p.va, xl := x,
      asid := w.asid, ten := w.ten, due := s.now + nextTime s, applied := false }

/-- The remote write of an access (R161). -/
def remoteOf (s : State) (k : Nat) (o : Op) (named : Mask) (ps : List Piece) : RemoteWrite :=
  { id := s.nextId, seq := o.seq, slot := k, op := o.id, cmd := o.id, pc := o.pc, split := o.split,
    va := ((ps.head?).map fun p => p.va).getD 0, lanes := named,
    sent := s.now, due := s.now + nextTime s, reduction := false }

/-- An operation of a warp replaced or removed. -/
def Warp.setOp (w : Warp) (id : Nat) (o : Option Op) : Warp :=
  { w with ops := w.ops.filterMap fun e => if e.id = id then o else some e }

/-- The counted sectors of pieces performed (R142). -/
def countPieces (s : State) (w : Warp) (ps : List Piece) : State :=
  countAll s w.ten w.asid (countedOf (ps.filterMap fun p => p.at?.map fun x => (x, p.va)))

/-- A split parked on operation `id` runs on. -/
def unparkAccess (w : Warp) (id : Nat) : Warp :=
  { w with splits := w.splits.map fun e => if e.2.park = .access id then (e.1, { e.2 with park := .running }) else e }

/-- A trap to be delivered at an instruction boundary; `late` marks those of R229. -/
def Warp.deferTrap (w : Warp) (t : Trap) (pc : DWord) (j : Nat) (late : Bool) : Warp :=
  { w with deferred := w.deferred ++ [{ trap := t, pc := pc, split := j, late := late, back := none }] }

/-- The split that is parked on an operation. -/
def parkedOn (w : Warp) (id : Nat) : Option Nat := (w.splits.find? fun e => decide (e.2.park = .access id)).map fun e => e.1

/-- The warp after an access has ended in a trap: its flag is free and its data is lost, and the lanes translated before, those
that `again` does not hold for, are still stored (R138). -/
def Warp.endAccess (w : Warp) (o : Op) (a : Access) (again : Piece → Bool) : Warp :=
  let rest := a.pieces.filter fun p => !p.done && p.at?.isSome && p.faults.isEmpty && !again p
  w.setOp o.id (if a.kind.stores && !rest.isEmpty then
      some { o with flag := none, kind := .access { a with dest := .nowhere, pieces := rest, buffered := a.late } }
    else none)

/-- The access ends in a trap. A split still parked at the word takes it there (R138); any other takes it at its next instruction boundary,
`late` when it is one of R229. -/
def trapAccess (s : State) (k : Nat) (o : Op) (a : Access) (again : Piece → Bool) (late : Bool) (t : Trap) : State :=
  match warpAt s k with
  | none => s
  | some w =>
    let s := setWarp s k (unparkAccess (w.endAccess o a again) o.id)
    match (parkedOn w o.id).bind fun j => cxAt s k j with
    | none => updWarp s k fun w => w.deferTrap t o.pc o.split late
    | some cx => takeTrap s k cx.j t o.pc cx.sp.pc (hdrFor cx.sp cx.sp.pc) false

/-- An access whose data is uncorrectable ends: precise when its split is still parked at the word, else deferred
(R138, R229). -/
def poisonOp (s : State) (k : Nat) (o : Op) (a : Access) (bad : List Piece) : State :=
  trapAccess s k o a (fun _ => false) true
    (mkTrap .poison (((bad.head?).map fun p => p.va.setWidth 32).getD 0) (a.named (lanesOfPieces bad)))

/-- A piece to be performed here and now: not a store or atomic to kind REMOTE, which is sent. -/
def Access.near (a : Access) (p : Piece) : Bool := a.open p && !(p.remote && a.kind.stores)

/-- The near pieces of an access performed at memory: the state, all its pieces, and the poisoned ones. -/
def performNear (s : State) (a : Access) : State × List Piece × List Piece :=
  match a.kind with
  | .store =>
    ((performList (fun _ => true) a.kind (storeOrder s a.kind (a.pieces.filter a.near)) (dropFresh s)).1,
      a.pieces.map fun p => if a.near p then { p with done := true } else p, [])
  | _ =>
    let r := performList a.near a.kind a.pieces s
    (dropFresh r.1, r.2)

/-- The combiners accept the reductions of an NMRED (R160, R175, R176, entry 26): they join the open N batch, and the flag is
released when no lane is left. -/
def acceptReductions (s : State) (k : Nat) (o : Op) (a : Access) (op : AtomOp) (et : ElemType) : State :=
  let mine := a.pieces.filter a.open
  let far := mine.filter Piece.remote
  let cmd := s.nextId
  match warpAt s k with
  | none => s
  | some w =>
    let s := { s with
      reds := s.reds ++ reductionsOf s k w cmd o.seq op et mine
      remotes := if far.isEmpty then s.remotes else s.remotes ++
        [{ remoteOf s k o (lanesOfPieces far) far with op := cmd, cmd := cmd, reduction := true }]
      nextId := s.nextId + 66 }
    let ps := a.pieces.map fun p => if a.open p then { p with done := true } else p
    dropTime (updWarp s k fun w =>
      let w := joinBatch w .N cmd
      if ps.all fun p => p.done then unparkAccess (w.setOp o.id none) o.id
      else w.setOp o.id (some { o with kind := .access { a with pieces := ps } }))

/-- THE ACCESS IS PERFORMED, in the pieces that can be (R138, R149 to R153). Stores and atomics to kind REMOTE are sent: their
home is what accepts them, and they join the G batch open then (R173, R265, entry 26). -/
def performOp (s : State) (k : Nat) (w : Warp) (o : Op) (a : Access) : State :=
  match a.kind with
  | .reduce op et => acceptReductions s k o a op et
  | _ =>
    let far := a.pieces.filter fun p => a.open p && !a.near p
    let r := performNear s a
    let s := countPieces r.1 w (a.pieces.filter a.near)
    if !r.2.2.isEmpty then poisonOp s k o { a with pieces := r.2.1 } r.2.2
    else
      let a' : Access := { a with pieces := r.2.1, remote := a.remote || !far.isEmpty, performed := r.2.1.all fun p => p.done }
      let s2 := if far.isEmpty then s else dropName { s with remotes := s.remotes ++ [remoteOf s k o (a.named (lanesOfPieces far)) far] }
      dropTime (updWarp s2 k fun w =>
        let w := if far.isEmpty then w else joinBatch w .G o.id
        let w := w.setOp o.id (some { o with kind := .access a', due := s.now + nextTime s })
        if a'.pieces.all fun p => p.faults.isEmpty then unparkAccess w o.id else w)

/-- The warp and split on whose behalf an outstanding access is translated again: the one parked on it, its own, or else the live
one with the lowest index. -/
def opCx (s : State) (k : Nat) (o : Op) : Option Cx :=
  (warpAt s k).bind fun w =>
    (cxAt s k ((parkedOn w o.id).getD o.split)).orElse fun _ => (w.splits.head?).bind fun e => cxAt s k e.1

/-- The pieces of an outstanding access for which `again` holds are translated again (R138, R141, R162); `late` says whether its
other pieces still are to be. One that issued behind an acquire holds its entry of the fault buffer until every lane has translated without
fault; one that a fault has parked holds it until its replay completes (R139). -/
def retranslate (s : State) (k : Nat) (o : Op) (a : Access) (late : Bool) (again : Piece → Bool) : State :=
  match opCx s k o with
  | none => s
  | some cx =>
    match translateAccess s cx a again with
    | .error t => trapAccess s k o a again false t
    | .ok t =>
      let waits := t.pieces.any fun p => !p.faults.isEmpty
      let a' : Access := { a with pieces := t.pieces, late := late, buffered := late || waits || (!a.late && a.buffered) }
      dropTime (updWarp t.s k fun w => w.setOp o.id (some { o with kind := .access a', due := t.s.now + nextTime t.s }))

/-- A performed access completes: its destination is written in every active lane together, and its flag is released
(R138, R360). -/
def completeOp (s : State) (k : Nat) (o : Op) : State :=
  let x := o.outs
  let s := x.1.foldl (fun s e => commit s k e.1 e.2 x.2) s
  let s := x.1.foldl (fun s e =>
    match e.1 with
    | .brew sl => if o.present then setPresence s (coreOfSlot k) sl else s
    | _ => s) s
  updWarp s k fun w => w.setOp o.id none

/-- The wake messages of an access to slices (R258). -/
def wakeSlices (s : State) (a : Access) : State := wakeAll s a.slices

/-- The access can be performed now. -/
def canPerform (s : State) (w : Warp) (o : Op) (a : Access) : Bool :=
  (a.pieces.any a.open) && orderAllows w o a && a.slices.all fun c => running s c

/-- An access that issued behind an acquire load is translated when it is performed. One that faults only then parks the splits it
precedes, with empty latches (R35, R138, R153, R162): they issue nothing until the replay. -/
def translateLate (s : State) (k : Nat) (o : Op) (a : Access) : State :=
  updWarp (retranslate s k o a false a.open) k fun w =>
    if w.ops.any fun x => decide (x.id = o.id) && x.faulted then
      { w with splits := w.splits.map fun e => if o.before e.1 then (e.1, { e.2 with latches := noLatches }) else e }
    else w

/-- One stage of an outstanding operation: a new translation behind an acquire (R162), a wake of its slices, its performance, or
its completion. -/
def advanceOp (s : State) (k id : Nat) : State :=
  match warpAt s k with
  | none => s
  | some w =>
    match w.ops.find? fun o => decide (o.id = id) with
    | none => s
    | some o =>
      match o.kind with
      | .hold => updWarp s k fun w => w.setOp id none
      | .write _ _ => completeOp s k o
      | .matrix _ => s
      | .surr _ _ => s
      | .retry => s
      | .access a =>
        if a.performed then completeOp s k o
        else if a.late && a.pieces.any a.open && orderAllows w o a then translateLate s k o a
        else if a.slices.any fun c => !running s c then wakeSlices s a
        else if canPerform s w o a then performOp (wakeSlices s a) k w o a
        else s

/-- The operation can advance. -/
def opReady (s : State) (w : Warp) (o : Op) : Bool :=
  match o.kind with
  | .matrix _ => false
  | .surr _ _ => false
  | .retry => false
  | .access a =>
    a.performed || canPerform s w o a || (a.late && a.pieces.any a.open && orderAllows w o a)
      || (a.slices.any fun c => !running s c && (coreAt s c).wakeAt.isNone)
  | _ => true

/-- The warp and its outstanding access with this name. -/
def accessAt (s : State) (k id : Nat) : Option (Warp × Op × Access) :=
  (warpAt s k).bind fun w => (w.ops.find? fun o => decide (o.id = id)).bind fun o =>
    match o.kind with
    | .access a => some (w, o, a)
    | _ => none

/-- The access has pieces still to be performed or sent. -/
def Op.unsettled (o : Op) : Bool :=
  match o.kind with
  | .access a => !a.performed && a.pieces.any a.open
  | _ => false

/-- An outstanding access performed, in the parts that can be: not past an earlier one of its split that holds it back (R151 to R153,
R161), and in a gated slice not before its core runs (R258). DEDUCED (entry 26): R151 holds for REMOTE locations beside R161, so a later
access of the split to the location of a write that is not acknowledged stays back, and the word that settles the accesses is made again
in the next cycle, until the acknowledgement. -/
def settleOp (s : State) (k id : Nat) : State :=
  let s := match accessAt s k id with
    | some (w, o, a) => if a.late && orderAllows w o a then translateLate s k o a else s
    | none => s
  match accessAt s k id with
  | some (w, o, a) =>
    if o.unsettled && orderAllows w o a then
      (if a.slices.any fun c => !running s c then wakeSlices s a else performOp (wakeSlices s a) k w o a)
    else s
  | none => s

/-- Performs outstanding accesses, in program order, up to the first that waits for a replay, an acknowledgement or a gated slice: what
follows it is not performed past it (R138, R151 to R153, R161, R258). -/
def settleOps (s : State) (k : Nat) : List Nat → State
  | [] => s
  | id :: r =>
    let s := settleOp s k id
    if (accessAt s k id).any fun x => x.2.1.faulted || x.2.1.unsettled then s else settleOps s k r

/-- The outstanding accesses of split `j` performed: a synchronous access of the split comes after them (R151). -/
def settle (s : State) (k j : Nat) : State :=
  match warpAt s k with
  | none => s
  | some w => settleOps s k ((w.ops.filter fun o => o.before j).map fun o => o.id)

/-- The scalar slot of the quadrant is free again: its word has not been executed. -/
def freeScalar (s : State) (k : Nat) : State :=
  setQuad s (coreOfSlot k) (quadOfSlot k) { quadAt s (coreOfSlot k) (quadOfSlot k) with scalarAt := none }

/-- An access before split `j` is still to be performed or sent, or waits for a replay (R138, R151 to R153). -/
def Warp.unsettledBefore (w : Warp) (j : Nat) : Bool := w.faultBefore j || w.ops.any fun o => o.before j && o.unsettled

/-- What the split has outstanding is performed, and then its word goes on (R151, R159). Where an access has met a fault, its split is
parked: the word, which takes the slot of `rule`, is not executed, and is made again after the replay (R138); and it is made again in the
next cycle while one waits behind a remote write, or for a gated slice (R153, R161, R258). What is sent to another node is not awaited: a
command may read the bytes from before it (R161; DEDUCED, entry 26). -/
def afterSettle (rule : IssueRule) (s : State) (cx : Cx) (f : State → Except Stop (State × Next)) : Except Stop (State × Next) :=
  let s1 := settle s cx.k cx.j
  if (warpAt s1 cx.k).any fun w => w.unsettledBefore cx.j then
    let s2 := updSplit s1 cx.k cx.j fun sp => { sp with wakeAt := s.now + 1 }
    .ok (match rule with
      | .vector _ => s2
      | _ => freeScalar s2 cx.k, .done)
  else f s1

/-! Replay (R138, R141). -/

/-- The piece waits for a record that meets `pr`. -/
def Piece.awaits (pr : FaultRef → Bool) (p : Piece) : Bool := p.faults.any pr

/-- The operations of a warp in the order of the splits that take their traps (R231). -/
def Warp.opsBySplit (w : Warp) : List Op :=
  let of := fun (o : Op) => (parkedOn w o.id).getD o.split
  ((List.range 8).flatMap fun j => w.ops.filter fun o => decide (of o = j)) ++ w.ops.filter fun o => decide (8 ≤ of o)

/-- The faulting lanes of a warp's accesses whose records are covered are made again: of two splits that trap, the one with the lower
index first (R138, R141, R231). -/
def replayOps (s : State) (pr : FaultRef → Bool) (k : Nat) : State :=
  match warpAt s k with
  | none => s
  | some w =>
    w.opsBySplit.foldl (fun s o =>
      match o.kind with
      | .access a => if a.pieces.any (Piece.awaits pr) then retranslate s k o a a.late (Piece.awaits pr) else s
      | _ => s) s

/-- A split that waits at a word or a spill record for a record that meets `pr` makes it again. -/
def replaySplit (s : State) (pr : FaultRef → Bool) (k j : Nat) : State :=
  match cxAt s k j with
  | none => s
  | some cx =>
    match cx.sp.park with
    | .fault rs => if rs.any pr then updSplit s k j fun sp => { sp with park := .running } else s
    | .record a rs => if rs.any pr then updSplit s k j fun sp => { sp with park := .rjoin a } else s
    | _ => s

/-- Every split of the package that waits for a record that meets `pr` is made to go on. -/
def replaySplits (s : State) (pr : FaultRef → Bool) : State :=
  s.warps.foldl (fun s e =>
    e.2.splits.foldl (fun s x => replaySplit s pr e.1 x.1) (replayOps s pr e.1)) s

/-! Remote writes (R161). -/

/-- The pieces of an access that have been sent to their home and are not acknowledged (R161). -/
def Piece.away (p : Piece) : Bool := p.remote && !p.done

/-- What an access has sent is performed at its home node, and counted (R142, R161): the state, all its pieces, and the poisoned
ones. Stores of one instruction to one location take effect in an order that free values choose (R148, entry 7). -/
def performFar (s : State) (w : Warp) (a : Access) : State × List Piece × List Piece :=
  let s := dropFresh s
  let far := a.pieces.filter Piece.away
  let x : State × List Piece × List Piece := match a.kind with
    | .store =>
      ((performList (fun _ => true) a.kind (storeOrder s a.kind far) s).1,
        a.pieces.map fun p => if Piece.away p then { p with done := true } else p, [])
    | _ => performList Piece.away a.kind a.pieces s
  (countPieces (dropFresh x.1) w far, x.2)

/-- The acknowledgement of a remote write: it is performed at its home node. An atomic on uncorrectable data returns none, and
POISON is deferred (R229). -/
def ackRemote (s : State) (r : RemoteWrite) : State :=
  let s := { s with remotes := s.remotes.filter fun x => decide (x.id ≠ r.id) }
  let leave := fun (s : State) => updWarp s r.slot fun w => leaveBatch w .G r.cmd none
  match accessAt s r.slot r.op with
  | none => leave s
  | some (w, o, a) =>
    let x := performFar s w a
    let a' : Access := { a with pieces := x.2.1, performed := x.2.1.all fun p => p.done, remote := false }
    leave (if x.2.2.isEmpty then updWarp x.1 r.slot fun w => w.setOp o.id (some { o with kind := .access a' })
      else poisonOp x.1 r.slot o a' x.2.2)

/-- The word waits for acknowledgements of the warp's remote reductions, or of its other remote writes (R161, R323). -/
def awaitsAcks (reduction : Bool) : Instr → Bool
  | .fenceDomRel _ _ => !reduction
  | .fenceDomFull _ _ => !reduction
  | .vstrDom _ _ _ => !reduction
  | .nmfenceDom _ _ => reduction
  | _ => false

/-- The split that waits at such a word for this write, with the word (R229, R287, R323, R380): NMFENCE waits for earlier ones alone.
-/
def ackWaiter (s : State) (r : RemoteWrite) : Option (Cx × Instr) :=
  (warpAt s r.slot).bind fun w => w.splits.findSome? fun e =>
    (cxAt s r.slot e.1).bind fun cx =>
      match cx.sp.park, nextWord s cx with
      | .fence n, .ok (x, _) =>
        if awaitsAcks r.reduction (decodeWord x) && (!r.reduction || decide (r.seq < n)) then some (cx, decodeWord x) else none
      | _, _ => none

/-- FABRIC for a remote write that was not acknowledged: raised at once by a word that waits for it, else deferred to the split
that issued it (R229). A scalar word's LANES is its effective mask (R232). -/
def raiseFabric (s : State) (r : RemoteWrite) : State :=
  let info : Word := r.va.setWidth 32
  match ackWaiter s r with
  | none => updWarp s r.slot fun w => w.deferTrap (mkTrap .fabric info r.lanes) r.pc r.split true
  | some (cx, i) =>
    let npc := cx.sp.pc + BitVec.ofNat 64 (4 * (litCount i + 1))
    let lanes := match i with
      | .vstrDom _ _ _ => r.lanes
      | _ => eff s cx
    takeTrap s cx.k cx.j (mkTrap .fabric info lanes) cx.sp.pc npc (hdrFor cx.sp npc) false

/-- The warp after an access has lost what it sent (R161): its data is lost, and the lanes that still wait for a replay are performed
after it (R138). -/
def Warp.losesRemote (w : Warp) (o : Op) (a : Access) : Warp :=
  let rest := a.pieces.filter fun p => !p.done && !(p.remote && p.faults.isEmpty)
  if rest.isEmpty then unparkAccess (w.setOp o.id none) o.id
  else w.setOp o.id (some { o with kind := .access { a with dest := .nowhere, pieces := rest, remote := false } })

/-- A remote write was not acknowledged in time: it is performed or not, by a free value, and FABRIC is raised (R161, R229). -/
def timeoutRemote (s : State) (r : RemoteWrite) : State :=
  let s := { s with remotes := s.remotes.filter fun x => decide (x.id ≠ r.id) }
  let lost := fun (s : State) => updWarp s r.slot fun w => leaveBatch w .G r.cmd none
  if (warpAt s r.slot).isNone then s
  else
    match accessAt s r.slot r.op with
    | none => raiseFabric (lost (dropFresh s)) r
    | some (w, o, a) =>
      let s := if choose s 0 2 = 0 then dropFresh s else (performFar s w a).1
      raiseFabric (lost (updWarp s r.slot fun w => w.losesRemote o a)) r

end Sys2Proof.Machine
end

