-- ==== Sys2Proof/Machine/Splits.lean ====
section
/-! DEFINITION. Branches, divisions and reconvergence, spill records, and lanes that leave (R81 to R86, R89, R99, R267 to R272,
R282 to R284, R335, R385, R389). -/

namespace Sys2Proof.Machine

/-- The target of a branch: the address of the word plus 4 × the signed offset (R59). -/
def branchTarget (pc : DWord) (imm : Half) : DWord := pc + (imm.signExtend 64 <<< 2)

/-- A branch of the whole split, taken when `f` holds (R267 to R272). -/
def branchWord (i : Instr) (imm : Half) (s : State) (f : State → Cx → Bool) : Host.Outcome State Fault Refusal :=
  runWord .scalar false i s fun cx _ s => .ok (s, if f s cx then .jump (branchTarget cx.sp.pc imm) else .seq)

/-- BR (R267). -/
def execBr (x : BitVec 6) (imm : Half) (s : State) : Host.Outcome State Fault Refusal :=
  branchWord (.br x imm) imm s fun _ _ => true

/-- BRZ (R272). -/
def execBrz (x : BitVec 6) (imm : Half) (s : State) : Host.Outcome State Fault Refusal :=
  branchWord (.brz x imm) imm s fun s cx => decide (readS s cx.w x.toNat = 0)

/-- BRNZ (R272). -/
def execBrnz (x : BitVec 6) (imm : Half) (s : State) : Host.Outcome State Fault Refusal :=
  branchWord (.brnz x imm) imm s fun s cx => decide (readS s cx.w x.toNat ≠ 0)

/-- BRANY (R269). -/
def execBrany (x : BitVec 6) (imm : Half) (s : State) : Host.Outcome State Fault Refusal :=
  branchWord (.brany x imm) imm s fun s cx => decide (eff s cx &&& cx.w.p.getD x.toNat 0 ≠ 0)

/-- BRALL (R268). -/
def execBrall (x : BitVec 6) (imm : Half) (s : State) : Host.Outcome State Fault Refusal :=
  branchWord (.brall x imm) imm s fun s cx => decide (eff s cx &&& ~~~(cx.w.p.getD x.toNat 0) = 0)

/-- YIELD: the split loses its place for one scheduling decision (R385). -/
def execYield (x : BitVec 6) (imm : Half) (s : State) : Host.Outcome State Fault Refusal :=
  runWord .scalar false (.yield x imm) s fun cx _ s =>
    .ok (updSplit s cx.k cx.j fun sp => { sp.advance s.now 0 with yielded := true }, .done)

/-! Divisions. -/

/-- Live splits of a quadrant: entries of its instruction-buffer pool in use (R81). -/
def poolUsed (s : State) (k : Nat) : Nat :=
  ((s.warps.filter fun e => decide (e.1 / 16 = k / 16)).map fun e => e.2.splits.length).sum

/-- The lowest free index of a split table (R81). -/
def freeSplit (w : Warp) : Option Nat := (List.range 8).find? fun j => (tget w.splits j).isNone

/-- STACK with ST as INFO (R227). -/
def stackTrap (cx : Cx) (m : Mask) : Trap := mkTrap .stack (cx.w.s.getD 61 0) m

/-- The address of the warp's n-th spill record (R85), below the SBASE that its launch gave it (R244; DEDUCED, entry 54). -/
def spillVa (w : Warp) (n : Nat) : DWord := w.stkhi ++ (w.sbase - 512 + BitVec.ofNat 32 (16 * n))

/-- A spill record's 16 bytes (R85). -/
def spillBytes (m : Mask) (pc id : Word) : List Byte := leBytes 8 m.toNat ++ leBytes 4 pc.toNat ++ leBytes 4 id.toNat

/-- The division of a split by BRDIV (R82): both sides start with empty latches, and what the split has issued before precedes
the words of both (R148). -/
def divide (w : Warp) (j n : Nat) (sp : Split) (now : Nat) (tk ft : Mask) (target : DWord) : Warp :=
  let d : Division := { id := w.divCtr, serial := false, group := w.groups.length }
  let stay : Split := { sp.advance now 0 with mask := ft, path := d :: sp.path, latches := noLatches }
  let go : Split := { (sp.land target).made now with mask := tk, path := d :: sp.path, latches := noLatches }
  { w with
    divCtr := w.divCtr + 1, splits := tset (tset w.splits j stay) n go
    ops := w.ops.map fun o => if o.before j then { o with order := n :: o.order } else o }

/-- The serialisation of a division (R85): the taken side runs on alone. -/
def serialise (w : Warp) (j : Nat) (sp : Split) (now : Nat) (tk : Mask) (target : DWord) : Warp :=
  let d : Division := { id := w.divCtr, serial := true, group := w.groups.length }
  let cl := sp.clause.getD { addr := sp.pc, word := 0, left := 1, held := [] }
  let rd : SpillRec := { hdr := cl.addr, hdrWord := cl.word, brdiv := sp.pc, mask := sp.mask, id := w.divCtr, joinAt := none, owner := 0 }
  { w with
    divCtr := w.divCtr + 1
    spills := w.spills ++ [rd]
    splits := tset w.splits j { sp.jump now target with mask := tk, path := d :: sp.path, latches := noLatches } }

/-- BRDIV (R82, R85, R270). -/
def execBrdiv (x : BitVec 6) (imm : Half) (s : State) : Host.Outcome State Fault Refusal :=
  runWord .scalar false (.brdiv x imm) s fun cx _ s =>
    let e := eff s cx
    let tk := e &&& cx.w.p.getD x.toNat 0
    let ft := cx.sp.mask &&& ~~~tk
    let target := branchTarget cx.sp.pc imm
    if tk = 0 then .ok (s, .seq)
    else if ft = 0 then .ok (s, .jump target)
    else if poolUsed s cx.k < 64 ∧ (freeSplit cx.w).isSome then
      .ok (updWarp s cx.k fun w => divide w cx.j ((freeSplit cx.w).getD 0) { cx.sp with park := .running } s.now tk ft target, .done)
    else if cx.w.spills.length ≥ 32 then .error (.trap (stackTrap cx e))
    else
      afterSettle .scalar s cx fun s =>
        let va := spillVa cx.w cx.w.spills.length
        match storeNow s (cx.req .store .plain) va (spillBytes ft ((cx.sp.pc + 4).setWidth 32) cx.w.divCtr) with
        | .error er => .error (stopOf s cx .store 2 er)
        | .ok (cs, u) =>
          onceAwake s (cx.req .store .plain) va 16
            (updWarp (sentRemote u cx cx.sp.pc e va cs) cx.k fun w => serialise w cx.j { cx.sp with park := .running } u.now tk target, .done)

/-! Presence deferred by divergence (R99). -/

/-- The operation writes the brew slot. -/
def Op.fills (o : Op) (sl : Nat) : Bool :=
  match o.kind with
  | .access a => decide (a.dest = .one (.brew sl))
  | .write outs _ => outs.any fun e => decide (e.1 = .brew sl)
  | _ => false

/-- Presence of a brew slot of a warp: set now, or by the write to it that is outstanding (R99). -/
def presentOrLater (s : State) (k sl : Nat) : State :=
  match warpAt s k with
  | none => s
  | some w =>
    if (w.pend.any fun p => decide (p.dest = .brew sl)) || w.ops.any fun o => o.fills sl then
      setWarp s k { w with
        pend := w.pend.map fun p => if p.dest = .brew sl then { p with present := true } else p
        ops := w.ops.map fun o => if o.fills sl then { o with present := true } else o }
    else setPresence s (coreOfSlot k) sl

/-- The brew slots of a warp's own block (R96, R97). -/
def ownSlots (s : State) (k : Nat) (w : Warp) : List Nat :=
  match w.iter, brewOf s k with
  | some it, some b => (List.range b.fresh).map fun o => b.fresh * (it % brewBlocks b) + o
  | _, _ => []

/-- XREL's effect: every bit of the block, those with a write outstanding at its completion (R99). -/
def releaseAll (s : State) (k : Nat) (w : Warp) : State := (ownSlots s k w).foldl (fun s sl => presentOrLater s k sl) s

/-- An RJOIN has completed: when it leaves the warp one split, deferred presence is set (R99, R384). -/
def endDivergence (s : State) (k : Nat) : State :=
  match warpAt s k with
  | none => s
  | some w =>
    if w.single then
      let s := setWarp s k { w with deferPresence := [], deferXrel := false }
      let s := w.deferPresence.foldl (fun s sl => presentOrLater s k sl) s
      if w.deferXrel then releaseAll s k w else s
    else s

/-! Reconvergence (R84, R389). -/

/-- The RJOIN a split is parked at. -/
def Split.joinAddr (sp : Split) : Option DWord :=
  match sp.park with
  | .rjoin a => some a
  | _ => none

/-- The split descends from division `id`. -/
def Split.descends (sp : Split) (id : Word) : Bool := sp.path.any fun d => decide (d.id = id)

/-- The live descendants of a division. -/
def descendants (w : Warp) (id : Word) : List (Nat × Split) := w.splits.filter fun e => e.2.descends id

/-- The innermost division of a split. -/
def Split.inner (sp : Split) : Option Division := sp.path.head?

/-- The division can be completed: all live descendants are parked at an RJOIN that closes it, none of them on a fault of an earlier
access, and a serialised one has the top record (R84, R138, R389). -/
def divisionReady (w : Warp) (d : Division) : Bool :=
  ((descendants w d.id).all fun e =>
      e.2.joinAddr.isSome && decide (e.2.inner.map (·.id) = some d.id) && !w.faultBefore e.1)
    && (!d.serial || decide ((w.spills.getLast?.map fun r => r.id) = some d.id))

/-- The next division to complete, innermost first (R84). -/
def readyDivision (w : Warp) : Option Division :=
  (w.splits.filterMap fun e => e.2.inner).find? fun d => divisionReady w d

/-- The parked splits as one, in the entry with the lowest index: union of masks (R84). -/
def unite (s : State) (k : Nat) (es : List (Nat × Split)) : State :=
  match es with
  | [] => s
  | (j, _) :: rest =>
    let js := rest.map fun e => e.1
    let s := { s with remotes := s.remotes.map fun r => if decide (r.slot = k) && js.contains r.split then { r with split := j } else r }
    updWarp s k fun w =>
      let one := w.updSplit j fun sp => { sp with mask := rest.foldl (fun m e => m ||| e.2.mask) sp.mask, latches := noLatches }
      let heir := fun n => if js.contains n then j else n
      { one with
        splits := one.splits.filter fun e => !js.contains e.1
        ops := w.ops.map fun o => { o with split := heir o.split, order := o.order.map heir }
        deferred := w.deferred.map fun d => { d with split := heir d.split }
        handler := w.handler.map heir }

/-- The split goes on at the word after its RJOIN, with `mask`, its innermost division closed (R84). One that a merge has made has not
issued since (R27). -/
def Split.resumeAfter (sp : Split) (now : Nat) (merged : Bool) (mask : Mask) (cl : Option Clause) (a : DWord) : Split :=
  let sp1 := if merged then sp.made now else sp
  { ({ sp1 with pc := a, clause := cl } : Split).pass 0 with
    mask := mask, path := sp.path.drop 1, latches := noLatches, park := .running, lastPass := some now, wakeAt := now + 1 }

/-- CONVERGE in each parked split, INFO the division id, LANES the effective mask of its RJOIN (R232): the lowest index takes it, the others
at their next boundary. None is parked any more: each stands before its RJOIN (R84, R231). -/
def convergeAll (s : State) (k : Nat) (es : List (Nat × Split)) (id : Word) : State :=
  match es with
  | [] => s
  | (j, sp) :: rest =>
    let t := fun (m : Mask) => mkTrap .converge id (match warpAt s k with
      | some w => m &&& guardMask s k w
      | none => m)
    let s := updWarp s k fun w =>
      { w with
        deferred := w.deferred ++ rest.map fun e => { trap := t e.2.mask, pc := e.2.pc, split := e.1, late := false, back := none }
        splits := w.splits.map fun x => if es.any fun e => decide (e.1 = x.1) then (x.1, { x.2 with park := .running }) else x }
    takeTrap s k j (t sp.mask) sp.pc sp.pc (hdrFor sp sp.pc) false

/-- The mask a record's lanes give: those of the dividing split that have not left (R284, R389). -/
def recordMask (w : Warp) (r : SpillRec) (m : Mask) : Mask := m &&& r.mask &&& ~~~w.exited

/-- The place of a deferred side: inside the BRDIV's clause, or a clause start (R389). -/
def sideClause (r : SpillRec) (pc : DWord) : Option Clause :=
  let off := (pc - r.hdr).toNat
  let len := (r.hdrWord.extractLsb' 0 6).toNat + 1
  if off % 4 = 0 ∧ (r.brdiv - r.hdr).toNat < off ∧ off ≤ 4 * len then
    some { addr := r.hdr, word := r.hdrWord, left := len + 1 - off / 4, held := [] }
  else none

/-- The address of the word that a clause stands before. -/
def Clause.here (cl : Clause) : DWord := cl.addr + BitVec.ofNat 64 (4 * ((cl.word.extractLsb' 0 6).toNat + 2 - cl.left))

/-- The taken side that a record holds goes on alone after the RJOIN at the record's PC: in the clause it parked in, or where the PC is no
longer that of its RJOIN, in a place as a deferred side's (R389). -/
def Split.resumeTaken (sp : Split) (now : Nat) (r : SpillRec) (mask : Mask) (a : DWord) : Split :=
  if r.joinAt.map Clause.here = some a then sp.resumeAfter now true mask r.joinAt a
  else { sp.resumeAfter now true mask none a with clause := sideClause r (a + 4), lastPass := none }

/-- The entry takes the deferred side of a serialised division (R389). -/
def Split.takeSide (sp : Split) (now : Nat) (r : SpillRec) (mask : Mask) (pcLow : Word) : Split :=
  let pc : DWord := r.brdiv.extractLsb' 32 32 ++ (pcLow &&& ~~~1#32)
  { sp.made now with
    mask := mask, pc := pc, clause := sideClause r pc, latches := noLatches, park := .running, resumeAt := none, lastPass := none }

/-- What a spill record read says: mask, low word of the PC, kind. -/
structure SpillData where
  mask : Mask
  pcLow : Word
  parked : Bool
deriving DecidableEq, Repr

/-- The top record read as a plain load of the warp (R389). -/
def readRecord (s : State) (cx : Cx) (n : Nat) : Except Bad (SpillData × State) :=
  match loadNow s (cx.req .load .plain) (spillVa cx.w n) 16 with
  | .error e => .error e
  | .ok (bs, s) =>
    let pw : Word := BitVec.ofNat 32 (field bs 8 4)
    .ok ({ mask := BitVec.ofNat 64 (field bs 0 8), pcLow := pw, parked := pw.getLsbD 0 }, s)

/-- The lanes of a record's side, as the core knows them: those of the dividing split that are in no live split and have not left
(R284, R389). -/
def sideLanes (w : Warp) (r : SpillRec) : Mask := r.mask &&& ~~~w.exited &&& ~~~(w.splits.foldl (fun m e => m ||| e.2.mask) 0)

/-- An error of a record access: the split in entry `j` parks at its RJOIN until the replay, MASK the lanes `m` of the side being
resumed or joined, or takes the trap there (R389). -/
def recordError (s : State) (cx : Cx) (m : Mask) (a : DWord) (acc : Acc) : Bad → State
  | .trap c i => takeTrap s cx.k cx.j (mkTrap c i (eff s cx)) a a (hdrFor cx.sp a) false
  | .faults fs =>
    let x := putFaults s (splitFaults cx m acc 2 fs)
    updSplit x.1 cx.k cx.j fun sp => { sp with park := .record a x.2 }

/-- What the taken side that a record holds has outstanding is split `j`'s again (R229). -/
def SpillRec.giveBack (r : SpillRec) (s : State) (k j : Nat) : State := if r.joinAt.isSome then handOver s k r.owner j else s

/-- The warp without its top record. -/
def popSpill (w : Warp) : Warp := { w with spills := w.spills.dropLast }

/-- A serialised division whose side is parked in entry `j` at the RJOIN of `a`, made one from several or not: exchange or join
(R389). In an exchange the record is rewritten first; the deferred side of which no lane is left has then no live descendant, and the
taken side goes on alone. -/
def serialStep (s : State) (k j : Nat) (merged : Bool) (a : DWord) (id : Word) : State :=
  match cxAt s k j with
  | none => s
  | some cx =>
    match cx.w.spills.getLast? with
    | none => s
    | some r =>
      let n := cx.w.spills.length - 1
      let va := spillVa cx.w n
      match readRecord s cx n with
      | .error e => recordError s cx (sideLanes cx.w r) a .load e
      | .ok (d, s1) =>
        let m := recordMask cx.w r d.mask
        if d.parked then
          if d.pcLow &&& ~~~1#32 = a.setWidth 32 then
            updWarp (r.giveBack s1 k j) k fun w => (popSpill w).updSplit j fun sp =>
              sp.resumeAfter s.now true (sp.mask ||| (m &&& ~~~(otherLanes w j))) sp.clause a
          else convergeAll s1 k [(j, cx.sp)] id
        else
          match storeNow s1 (cx.req .store .plain) va (leBytes 8 cx.sp.mask.toNat ++ leBytes 4 ((a.setWidth 32 : Word) ||| 1#32).toNat) with
          | .error e => recordError s cx (if m = 0 then cx.sp.mask else m) a .store e
          | .ok (cs, s2) =>
            let s3 := sentRemote s2 cx a (eff s cx) va cs
            if m = 0 then updWarp s3 k fun w => (popSpill w).updSplit j fun sp => sp.resumeAfter s.now merged cx.sp.mask sp.clause a
            else
              let gone := 8 + s3.nextId
              dropName (updWarp (handOver s3 k j gone) k fun w =>
                ({ w with spills := w.spills.dropLast ++ [{ r with joinAt := cx.sp.clause, owner := gone }] }).updSplit j fun sp =>
                  sp.takeSide s.now r (m &&& ~~~(otherLanes w j)) d.pcLow)

/-- The outstanding accesses of several splits performed (R148). -/
def settleAll (s : State) (k : Nat) (es : List (Nat × Split)) : State := es.foldl (fun s e => settle s k e.1) s

/-- The cores in whose slices the top record of the warp of split `j` lies (R85). -/
def recordSlices (s : State) (k j : Nat) : List Nat :=
  match cxAt s k j with
  | none => []
  | some cx => slicesOf s (cx.req .load .plain) (spillVa cx.w (cx.w.spills.length - 1)) 16

/-- One division completed, and the presence that its RJOIN sets (R84, R99, R389): once every access of the splits it joins has been
performed (R148, R335), and once the core in whose slice its record lies runs (R258). -/
def completeDivision (s : State) (k : Nat) (w : Warp) (d : Division) : State :=
  let es := descendants w d.id
  match es with
  | [] => s
  | (j, sp) :: rest =>
    let a := sp.joinAddr.getD 0
    if rest.any fun e => decide (e.2.joinAddr ≠ some a) then convergeAll s k es d.id
    else
      let s := settleAll s k es
      if (warpAt s k).any fun w => es.any fun e => w.unsettledBefore e.1 then s
      else if d.serial && asleep (wakeAll s (recordSlices s k j)) (recordSlices s k j) then wakeAll s (recordSlices s k j)
      else
        let s := unite s k es
        endDivergence (if d.serial then serialStep s k j (!rest.isEmpty) a d.id
          else updWarp s k fun w => w.updSplit j fun sp => sp.resumeAfter s.now (!rest.isEmpty) sp.mask sp.clause a) k

/-- A division whose splits all stand at their RJOIN, which waited for their accesses or for the core that holds its record, can be
completed now (R84, R151, R258). -/
def rejoinDue (s : State) (k : Nat) (w : Warp) : Bool :=
  match readyDivision w with
  | none => false
  | some d =>
    let es := descendants w d.id
    let s1 := settleAll s k es
    (warpAt s1 k).any (fun x => !es.any fun e => x.unsettledBefore e.1)
      && (!d.serial || es.all fun e => (recordSlices s1 k e.1).all (coreWakes s1))

/-- Completes divisions that are ready, innermost first (R84). -/
def rejoin (k : Nat) : Nat → State → State
  | 0, s => s
  | n + 1, s =>
    match warpAt s k with
    | none => s
    | some w =>
      match readyDivision w with
      | none => s
      | some d => rejoin k n (completeDivision s k w d)

/-- Divisions of a warp completed as far as they can be. -/
def rejoinAll (s : State) (k : Nat) : State := rejoin k 16 s

/-- The RJOIN of a group that is a single split cannot close a division of the group (R84, R86). -/
def joinForbidden (cx : Cx) : Bool :=
  decide (cx.sp.group > 0)
    && !(cx.w.splits.any fun e => decide (e.1 ≠ cx.j) && decide (e.2.group = cx.sp.group))
    && !(cx.sp.path.any fun d => d.serial && decide (cx.sp.group ≤ d.group))

/-- RJOIN (R84, R335). -/
def execRjoin (x : BitVec 6) (imm : Half) (s : State) : Host.Outcome State Fault Refusal :=
  runWord .scalar false (.rjoin x imm) s fun cx _ s =>
    if joinForbidden cx then
      match wordTrap .converge (.rjoin x imm) (eff s cx) with
      | .trap t => .error (.trapHere t)
      | e => .error e
    else if othersLive cx.w cx.j || cx.sp.path.any fun d => d.serial then
      .ok (rejoinAll (updSplit s cx.k cx.j fun sp =>
        { sp.issued s.now with park := .rjoin sp.pc, latches := noLatches }) cx.k, .done)
    else .ok (endDivergence (updSplit s cx.k cx.j fun sp => { sp with path := sp.path.drop 1 }) cx.k, .seq)

/-! Lanes that leave (R89, R282, R284, R389). -/

/-- A sibling of an EXIT whose word is still to be replayed: one with faulting lanes, or one that holds its flag until then (R165,
R282). -/
def staysForReplay (w : Warp) (e : Nat × Split) : Bool :=
  match e.2.park with
  | .access _ => true
  | _ => w.ops.any fun o => o.retries e.1

/-- The warp begins to end (R282): siblings stop, their claims leave the queue, and the warp waits as the executing split
stands, its word not yet completed. Siblings whose words are still to be replayed stay for that alone, and no handler holds them back
(R283; DESIGN CHOICE, entry 48). -/
def beginExit (s : State) (k j : Nat) : State :=
  let c := coreOfSlot k
  let q := quadAt s c (quadOfSlot k)
  let s := setQuad s c (quadOfSlot k) { q with claims := q.claims.filter fun r => decide (r.slot ≠ some k) }
  match warpAt s k with
  | none => s
  | some w =>
    let s := (w.splits.filter fun e => decide (e.1 ≠ j) && !staysForReplay w e).foldl (fun s e => dropSplit s k e.1) s
    dropName (updWarp s k fun w =>
      { w.parkAs j s.nextId .exiting with
        handler := none
        splits := w.noLatch.splits.map fun e => if e.1 = j then e else (e.1, { e.2 with stopped := true }) })

/-- EXIT (R282). -/
def execExit (x : BitVec 6) (imm : Half) (s : State) : Host.Outcome State Fault Refusal :=
  runWord .scalar false (.exit x imm) s fun cx _ s => .ok (beginExit s cx.k cx.j, .done)

/-- The lanes of the warp that a spill record still holds for a side other than the split's own. -/
inductive Removal where
  /-- The entry leaves the table: other descendants live on. -/
  | leave
  /-- The record of a serialised division is served by this entry, from this place of the path on. -/
  | record (path : List Division)
  /-- No lane of the warp is left. -/
  | last
deriving DecidableEq, Repr

/-- What the removal of split `j` with this path does (R84, R389). -/
def removalOf (w : Warp) (j : Nat) : List Division → Removal
  | [] => if othersLive w j then .leave else .last
  | d :: r =>
    if (descendants w d.id).any fun e => decide (e.1 ≠ j) then .leave
    else if d.serial && (w.spills.any fun x => decide (x.id = d.id)) then .record (d :: r)
    else removalOf w j r

/-- The split in entry `j` has no lane left: it is removed and counts as arrived, or its entry serves the record of a
serialised division (R84, R89, R389); what it has outstanding is then no live split's (R229). The state before is kept on a stop: DESIGN
CHOICE (entry 55), PROT or POISON on the record is a trap of the word that removes the lanes, with the next word as NPC. -/
def removeSplit (s : State) (k j : Nat) : Nat → List Division → Except Stop State
  | 0, _ => .ok s
  | fuel + 1, path =>
    match cxAt s k j with
    | none => .ok s
    | some cx =>
      match removalOf cx.w j path with
      | .leave => .ok (rejoinAll (dropSplit s k j) k)
      | .last => .ok (beginExit s k j)
      | .record p =>
        match cx.w.spills.getLast?, p with
        | some r, d :: rest =>
          if r.id ≠ d.id then .error .wait
          else
            let n := cx.w.spills.length - 1
            match readRecord s cx n with
            | .error (.trap c i) => .error (.trap (mkTrap c i (eff s cx)))
            | .error (.faults fs) => .error (.faults (splitFaults cx (sideLanes cx.w r) .load 2 fs))
            | .ok (dt, s) =>
              let m := recordMask cx.w r dt.mask &&& ~~~(otherLanes cx.w j)
              if asleep s (recordSlices s k j) then .error (.asleep (recordSlices s k j))
              else if m = 0 then removeSplit (updWarp s k popSpill) k j fuel rest
              else
                let s := dropName (handOver s k j (8 + s.nextId))
                if dt.parked then
                  let a : DWord := r.brdiv.extractLsb' 32 32 ++ (dt.pcLow &&& ~~~1#32)
                  .ok (rejoinAll (endDivergence (updWarp (r.giveBack s k j) k fun w => (popSpill w).updSplit j fun sp =>
                    ({ sp with path := p } : Split).resumeTaken s.now r m a) k) k)
                else
                  .ok (updWarp s k fun w => (popSpill w).updSplit j fun sp =>
                    { sp.takeSide s.now r m dt.pcLow with path := { d with serial := false } :: rest })
        | _, _ => .ok s

/-- EXITL: the lanes of e leave for good (R89, R284). When no lane of the warp is left it ends as under EXIT. -/
def execExitl (x : BitVec 6) (imm : Half) (s : State) : Host.Outcome State Fault Refusal :=
  runWord .scalar false (.exitl x imm) s fun cx _ s =>
    let e := eff s cx
    if cx.sp.mask &&& ~~~e ≠ 0 then
      .ok (updWarp s cx.k fun w =>
        ({ w with exited := w.exited ||| e }).updSplit cx.j fun sp => { sp with mask := sp.mask &&& ~~~e }, .seq)
    else if removalOf cx.w cx.j cx.sp.path = .last then .ok (beginExit s cx.k cx.j, .done)
    else
      afterSettle .scalar s cx fun s =>
        match removeSplit (updWarp s cx.k fun w => { w with exited := w.exited ||| e }) cx.k cx.j 40 cx.sp.path with
        | .error t => .error t
        | .ok s => .ok (s, .done)

/-- The word acts on core `c` once it runs: its wake message is latched, and the split makes its word again until a gated core runs. A
message on or before the commit cycle aborts the gating, and the word goes on at once (R258). -/
def onceRuns (s : State) (cx : Cx) (c : Nat) (f : State → Except Stop (State × Next)) : Except Stop (State × Next) :=
  let s := wakeCore s c
  if running s c then f s else .ok (updSplit s cx.k cx.j fun sp => { sp with wakeAt := s.now + 1 }, .done)

end Sys2Proof.Machine
end

