-- ==== Sys2Proof/Machine/Stack.lean ====
section
/-! DEFINITION. Frame stacks, calls and returns, lane-group calls, lazy binding, mark frames and stack slices (R86 to R88, R200 to
R210, R253, R273, R274, R276, R281, R290, R291, R317, R333, R334, R356, R365). -/

namespace Sys2Proof.Machine

/-- A scalar register written at once by a word that names it implicitly; earlier results still to come for it are
superseded (R51). -/
def Warp.putS (w : Warp) (n : Nat) (v : Word) : Warp :=
  { w with s := w.s.set n v, pend := w.pend.filter fun p => decide (p.dest ≠ .s n) }

/-- FB, ST, SBASE and SLIM (R22, R200). DESIGN CHOICE (entry 5): while a long-latency write to one is outstanding, a word that uses it
implicitly sees the old value (R52). -/
def fbOf (w : Warp) : Word := w.s.getD 60 0
def stOf (w : Warp) : Word := w.s.getD 61 0
def sbaseOf (w : Warp) : Word := w.s.getD 62 0
def slimOf (w : Warp) : Word := w.s.getD 63 0

/-- The warp stands in its base frame (R200). -/
def inBase (w : Warp) : Bool := decide (fbOf w = sbaseOf w - 32)

/-- A stack address (R200). -/
def stackVa (w : Warp) (low : Word) : DWord := w.stkhi ++ low

/-- A frame header (R200). -/
structure Frame where
  link : Word
  rpc : DWord
  mode : Half
  markw : Word
  pmap : Word
  mask : Mask
deriving DecidableEq, Repr

/-- The 32 bytes of a frame header. -/
def Frame.bytes (f : Frame) : List Byte :=
  leBytes 4 f.link.toNat ++ leBytes 8 f.rpc.toNat ++ leBytes 4 f.mode.toNat ++ leBytes 4 f.markw.toNat
    ++ leBytes 4 f.pmap.toNat ++ leBytes 8 f.mask.toNat

/-- A frame header from its bytes. -/
def frameOfBytes (b : List Byte) : Frame :=
  { link := BitVec.ofNat 32 (field b 0 4), rpc := BitVec.ofNat 64 (field b 4 8), mode := BitVec.ofNat 16 (field b 12 4),
    markw := BitVec.ofNat 32 (field b 16 4), pmap := BitVec.ofNat 32 (field b 20 4), mask := BitVec.ofNat 64 (field b 24 8) }

/-- The frame is a mark frame (R200). -/
def Frame.marked (f : Frame) : Bool := f.markw.getLsbD 31

/-- A plain load of the split, made whole by the word, ENGINE 2 (R201, R334). -/
def stackLoad (s : State) (cx : Cx) (va : DWord) (n : Nat) : Except Stop (List Byte × State) :=
  match loadNow s (cx.req .load .plain) va n with
  | .error e => .error (stopOf s cx .load 2 e)
  | .ok r => onceAwake s (cx.req .load .plain) va n r

/-- A plain store of the split, made whole by the word, ENGINE 2; to memory of kind REMOTE it is sent (R161, R201). -/
def stackStore (s : State) (cx : Cx) (va : DWord) (bs : List Byte) : Except Stop State :=
  match storeNow s (cx.req .store .plain) va bs with
  | .error e => .error (stopOf s cx .store 2 e)
  | .ok (cs, u) => onceAwake s (cx.req .store .plain) va bs.length (sentRemote u cx cx.sp.pc (eff u cx) va cs)

/-- The header at a stack address, read by the split. -/
def readFrame (s : State) (cx : Cx) (low : Word) : Except Stop (Frame × State) :=
  match stackLoad s cx (stackVa cx.w low) 32 with
  | .error e => .error e
  | .ok (b, s) => .ok (frameOfBytes b, s)

/-- push(rpc, mw) of R201 at ST + `gap`, the record below it already counted in LINK. -/
def pushFrame (s : State) (cx : Cx) (gap : Nat) (rpc : DWord) (mw : Word) : Except Stop State :=
  let st := stOf cx.w + BitVec.ofNat 32 gap
  if (stOf cx.w).toNat + gap + 32 > (slimOf cx.w).toNat then .error (.trap (stackTrap cx (eff s cx)))
  else
    match stackStore s cx (stackVa cx.w st) (Frame.bytes
        { link := st - fbOf cx.w, rpc := rpc, mode := cx.w.mode, markw := mw, pmap := 0, mask := cx.sp.mask }) with
    | .error e => .error e
    | .ok s => .ok (updWarp s cx.k fun w => (w.putS 60 st).putS 61 (st + 32))

/-! Lazy binding (R88, R253). -/

/-- The address is a binding entry of a loaded code object of the tenancy (R253). -/
def isBinding (s : State) (ten : Nat) (va : DWord) : Bool :=
  s.handles.any fun e => decide (e.2.ten = ten) && e.2.binds.any fun o => decide (e.2.cb.toNat + o = va.toNat)

/-- The unbound mark (R253). -/
def unboundMark : Word := 0xFFFFFFFF

/-- A binding entry that holds the unbound mark (R253). DESIGN CHOICE (entry 36): an entry whose read faults here is taken as
bound, and the fault, or LINK, is met by the fetch at the target. -/
def unbound (s : State) (cx : Cx) (va : DWord) : Bool :=
  isBinding s cx.w.ten va
    && (match fetchWord s cx va with
        | .ok (w, _) => decide (w = unboundMark)
        | .error _ => false)

/-- LINK: replayable, ENGINE 0, VA the binding entry, INFO 0 (R88, R253). -/
def linkFault (cx : Cx) (va : DWord) (lanes : Mask) : Stop :=
  .faults [{ fetchFault cx va .link 0 with lanes := lanes }]

/-- The call made by CALL and CALLI to `t` (R201, R273, R274). -/
def callTo (s : State) (cx : Cx) (t : DWord) : Except Stop (State × Next) :=
  if unbound s cx t then .error (linkFault cx t (eff s cx))
  else if (stOf cx.w).toNat + 32 > (slimOf cx.w).toNat then .error (.trap (stackTrap cx (eff s cx)))
  else
    afterSettle .scalar s cx fun s =>
      match pushFrame s cx 0 (cx.sp.pc + 4) 0 with
      | .error e => .error e
      | .ok s => .ok (s, .jump t)

/-- CALL (R273). -/
def execCall (x : BitVec 6) (imm : Half) (s : State) : Host.Outcome State Fault Refusal :=
  runWord .scalar true (.call x imm) s fun cx _ s =>
    if !lastInClause cx (.call x imm) then .error (illop (.call x imm) (eff s cx))
    else callTo s cx (branchTarget cx.sp.pc imm)

/-- CALLI (R274). -/
def execCalli (x : BitVec 6) (imm : Half) (s : State) : Host.Outcome State Fault Refusal :=
  runWord .scalar true (.calli x imm) s fun cx _ s =>
    let t := readPair s cx.w x.toNat + (imm.signExtend 64 <<< 2)
    if !lastInClause cx (.calli x imm) then .error (illop (.calli x imm) (eff s cx))
    else if t.toNat % 4 ≠ 0 then .error (wordTrap .und (.calli x imm) (eff s cx))
    else callTo s cx t

/-- ENTER (R201, R281). -/
def execEnter (x : BitVec 6) (imm : Half) (s : State) : Host.Outcome State Fault Refusal :=
  runWord .scalar true (.enter x imm) s fun cx _ s =>
    let t := fbOf cx.w + 32 + imm.setWidth 32
    if (slimOf cx.w).toNat < t.toNat ∨ t.toNat < (fbOf cx.w).toNat then .error (.trap (stackTrap cx (eff s cx)))
    else .ok (updWarp s cx.k fun w => w.putS 61 t, .seq)

/-! Lane-group calls (R87, R365). -/

/-- A trap of a group's call has PC and NPC at the word that made it (R87, R232). -/
def hereOf : Stop → Stop
  | .trap t => .trapHere t
  | e => e

/-- Lanes of `c` whose target is `g`. -/
def groupMask (c : Mask) (target : Nat → DWord) (g : DWord) : Mask := maskOf fun l => c.getLsbD l && decide (target l = g)

/-- The lowest target above a bound among lanes of `c`. -/
def nextTarget (c : Mask) (target : Nat → DWord) (above : Option DWord) : Option DWord :=
  (lanesOf c).foldl (fun r l =>
    let t := target l
    let ok := match above with
      | some a => decide (a.toNat < t.toNat)
      | none => true
    if ok then (match r with
      | some x => if t.toNat < x.toNat then some t else some x
      | none => some t)
    else r) none

/-- The transfer to a group: its mask, and UND at a misaligned target with the VCALLI word as INFO (R87). -/
def enterTarget (s : State) (k j : Nat) (g : DWord) (m : Mask) (word : Word) : State :=
  let s := updSplit s k j fun sp => { sp.jump s.now g with mask := m }
  if g.toNat % 4 ≠ 0 then takeTrap s k j (mkTrap .und word m) g g g false else s

/-- VCALLI: the first group's record, header and transfer (R87). -/
def execVcalli (d a b : BitVec 7) (s : State) : Host.Outcome State Fault Refusal :=
  runWord (.vector false) true (.vcalli d a b) s fun cx ls s =>
    let i := Instr.vcalli d a b
    let c := eff s cx
    if !lastInClause cx i then .error (illop i c)
    else
      afterSettle (.vector false) s cx fun s =>
        match readOperands i cx ls { VSpec.simple d [a] with dst := none } s with
        | .error e => .error e
        | .ok x =>
          let base := readPair s cx.w b.toNat
          let target := fun l => base + (lane (x.row 0) l).signExtend 64
          let keg := decide (112 ≤ a.toNat) && decide (a.toNat < 120)
          let r := if keg then 272 else 16
          let g := (nextTarget c target none).getD 0
          let m := groupMask c target g
          if (stOf cx.w).toNat + r + 32 > (slimOf cx.w).toNat then .error (.trapHere (stackTrap cx c))
          else if unbound s cx g then .error (linkFault cx g m)
          else
            let rd := leBytes 8 g.toNat ++ leBytes 8 c.toNat
              ++ (if keg then (List.range 64).flatMap fun l => leBytes 4 (lane (x.row 0) l).toNat else [])
            match stackStore x.s cx (stackVa cx.w (stOf cx.w)) rd with
            | .error e => .error (hereOf e)
            | .ok s1 =>
              match pushFrame s1 cx r (cx.sp.pc + 1) 0 with
              | .error e => .error (hereOf e)
              | .ok s2 => .ok (enterTarget s2 cx.k cx.j g m ((encodeWord i).getD 0), .done)

/-- The offsets of a VCALLI's field a as they stand when a later group is called (R87). -/
def laterOffsets (s : State) (cx : Cx) (v : DWord) (a : BitVec 7) (rec0 : Word) : Except Stop (Row × State) :=
  let e := eff s cx
  match vOperand a with
  | .keg _ =>
    match stackLoad s cx (stackVa cx.w (rec0 + 16)) 256 with
    | .error t => .error t
    | .ok (b, s) => .ok (rowOf fun l => BitVec.ofNat 32 (field b (4 * l) 4), s)
  | .lit =>
    match fetchWord s cx (v + 4) with
    | .error t => .error t
    | .ok (w, s) => .ok (List.replicate 64 w, s)
  | _ =>
    match boundFail cx.w (codeReg a) with
    | some n => .error (.trap (mkTrap .regbound (BitVec.ofNat 32 n) e))
    | none =>
      match resolve s cx a 0 with
      | none => .error (.trap (mkTrap .illop 0 e))
      | some src =>
        if waitsPresence s (coreOfSlot cx.k) [src] then .error .presence
        else .ok ((readSources s cx cx.g [src]).1.getD 0 zeroRow, s)

/-- A RET whose return PC has bit 0 set, its frame already popped in `cx`: the VCALLI's next group, or its end (R87).
DESIGN CHOICE (entry 49): lanes of other live splits in the record's c are left out, as lanes that have left are (R284). -/
def continueCall (s : State) (cx : Cx) (v : DWord) : Except Stop (State × Next) :=
  match fetchWord s cx v with
  | .error e => .error e
  | .ok (word, s) =>
    match decodeWord word with
    | .vcalli d a b =>
      if !legal (.vcalli d a b) then .error (.trapHere (mkTrap .und word (eff s cx)))
      else
        let keg := decide (112 ≤ a.toNat) && decide (a.toNat < 120)
        let r := if keg then 272 else 16
        let rec0 := stOf cx.w - BitVec.ofNat 32 r
        match stackLoad s cx (stackVa cx.w rec0) 16 with
        | .error e => .error e
        | .ok (bs, s) =>
          let g : DWord := BitVec.ofNat 64 (field bs 0 8)
          let c : Mask := BitVec.ofNat 64 (field bs 8 8) &&& ~~~cx.w.exited &&& ~~~(otherLanes cx.w cx.j)
          match laterOffsets s cx v a rec0 with
          | .error e => .error e
          | .ok (row, s) =>
            let base := readPair s cx.w b.toNat
            let target := fun l => base + (lane row l).signExtend 64
            match nextTarget c target (some g) with
            | none =>
              .ok (updWarp s cx.k fun w => w.putS 61 rec0, .jump (v + 4 + BitVec.ofNat 64 (4 * litCount (.vcalli d a b))))
            | some g' =>
              let m := groupMask c target g'
              if (stOf cx.w).toNat + 32 > (slimOf cx.w).toNat then .error (.trap (stackTrap cx (eff s cx)))
              else if unbound s cx g' then .error (linkFault cx g' m)
              else
                match stackStore s cx (stackVa cx.w rec0) (leBytes 8 g'.toNat) with
                | .error e => .error e
                | .ok s =>
                  match pushFrame s cx 0 (v + 1) 0 with
                  | .error e => .error e
                  | .ok s => .ok (enterTarget s cx.k cx.j g' m word, .done)
    | _ => .error (.trapHere (mkTrap .und word (eff s cx)))

/-- What stops a later group's call stops the RET that makes it, `cx`, with the state as before it: PC and NPC are the RET, and LANES and
MASK its own effective mask, or its split's mask for a fetch (R87, R140, R232). LINK names the lanes of the group. -/
def blameRet (cx : Cx) (e : Mask) : Stop → Stop
  | .trap t => .trapHere { t with lanes := e }
  | .trapHere t => .trapHere { t with lanes := e }
  | .faults fs => .faults (fs.map fun f =>
      if f.cause = .link then f else { f with lanes := if f.engine = 0 then cx.sp.mask else e })
  | x => x

/-- A restored mask, without lanes that have left and lanes of other live splits (R284, R333). -/
def restoredMask (w : Warp) (j : Nat) (m : Mask) : Mask := m &&& ~~~w.exited &&& ~~~(otherLanes w j)

/-- RET (R201, R333, R334). -/
def execRet (x : BitVec 6) (imm : Half) (s : State) : Host.Outcome State Fault Refusal :=
  runWord .scalar false (.ret x imm) s fun cx _ s =>
    let e := eff s cx
    if inBase cx.w then .error (.trap (stackTrap cx e))
    else
      afterSettle .scalar s cx fun s =>
        match readFrame s cx (fbOf cx.w) with
        | .error t => .error t
        | .ok (f, s) =>
          if f.marked then .error (.trap (stackTrap cx e))
          else
            let m := restoredMask cx.w cx.j f.mask
            let s := updWarp s cx.k fun w =>
              (({ w.putS 61 (fbOf cx.w) with mode := savedMode f.mode }).putS 60 (fbOf cx.w - f.link)).updSplit cx.j fun sp => { sp with mask := m }
            if m = 0 then
              match removeSplit s cx.k cx.j 40 cx.sp.path with
              | .error t => .error t
              | .ok s => .ok (s, .done)
            else if f.rpc.getLsbD 0 then
              match cxAt s cx.k cx.j with
              | none => .ok (s, .done)
              | some cx' =>
                match continueCall s { cx' with sp := { cx'.sp with pc := cx.sp.pc, clause := cx.sp.clause } } (f.rpc - 1) with
                | .error t => .error (blameRet cx e t)
                | .ok r => .ok r
            else .ok (s, .jump f.rpc)

/-! Mark frames (R202, R203, R317, R356). -/

/-- The word raises CONVERGE in an iteration warp (R103). -/
def iterTrap (i : Instr) (cx : Cx) (e : Mask) : Option Stop := if cx.w.iter.isSome then some (wordTrap .converge i e) else none

/-- MARK (R202, R317). -/
def execMark (x : BitVec 6) (imm : Half) (s : State) : Host.Outcome State Fault Refusal :=
  runWord .scalar true (.mark x imm) s fun cx _ s =>
    let e := eff s cx
    let off := readS s cx.w x.toNat
    if off.toNat % 4 ≠ 0 then .error (illop (.mark x imm) e)
    else
      match iterTrap (.mark x imm) cx e with
      | some t => .error t
      | none =>
        afterSettle .scalar s cx fun s =>
          match pushFrame s cx 0 (cx.sp.pc + off.signExtend 64) (0x80000000 + imm.setWidth 32) with
          | .error t => .error t
          | .ok s => .ok (s, .seq)

/-- UNMARK (R203, R356). -/
def execUnmark (x : BitVec 6) (imm : Half) (s : State) : Host.Outcome State Fault Refusal :=
  runWord .scalar true (.unmark x imm) s fun cx _ s =>
    if inBase cx.w then .error (.trap (stackTrap cx (eff s cx)))
    else
      afterSettle .scalar s cx fun s =>
        match readFrame s cx (fbOf cx.w) with
        | .error t => .error t
        | .ok (f, s) =>
          if f.marked then .ok (updWarp s cx.k fun w => (w.putS 61 (fbOf cx.w)).putS 60 (fbOf cx.w - f.link), .seq)
          else .error (.trap (stackTrap cx (eff s cx)))

/-! Slices (R204 to R207). -/

/-- One bit of CRC-32C, reflected (R204). -/
def crcBit (c : Word) : Word := if c.getLsbD 0 then (c >>> 1) ^^^ 0x82F63B78 else c >>> 1

/-- One byte of CRC-32C. -/
def crcByte (c : Word) (b : Byte) : Word :=
  crcBit (crcBit (crcBit (crcBit (crcBit (crcBit (crcBit (crcBit (c ^^^ b.setWidth 32))))))))

/-- CRC-32C of bytes: initial value and final XOR of ones (R204). -/
def crc32c (bs : List Byte) : Word := ~~~(bs.foldl crcByte 0xFFFFFFFF)

/-- A slice header (R204). -/
structure SliceHeader where
  asid : Nat
  frames : Nat
  tag : Half
  size : Nat
  fboff : Word
  origin : DWord
  resume : DWord
  mask : Mask
  sreg : List Word
  mode : Half
deriving DecidableEq, Repr

/-- Bytes +0 to +123 of a sealed slice header (R204). -/
def SliceHeader.bytes (h : SliceHeader) : List Byte :=
  leBytes 4 0x534C4943 ++ leBytes 4 1 ++ leBytes 2 h.asid ++ leBytes 2 h.frames ++ leBytes 2 h.tag.toNat ++ leBytes 2 0
    ++ leBytes 4 h.size ++ leBytes 4 h.fboff.toNat ++ leBytes 8 h.origin.toNat ++ leBytes 8 h.resume.toNat
    ++ leBytes 8 h.mask.toNat ++ (h.sreg.flatMap fun x => leBytes 4 x.toNat) ++ leBytes 4 h.mode.toNat ++ leBytes 8 0

/-- What CUT's walk finds: the mark frame with its header, and the lowest frame above it with the count of frames. -/
structure CutWalk where
  mark : Option (Word × Frame)
  low : Option Word
  count : Nat

/-- CUT's walk from FB down to a mark with the tag (R205). -/
def cutWalk (cx : Cx) (tag : Half) : Nat → Word → Option Word → Nat → State → Except Stop (CutWalk × State)
  | 0, _, c, n, s => .ok ({ mark := none, low := c, count := n }, s)
  | fuel + 1, f, c, n, s =>
    if f = sbaseOf cx.w - 32 then .ok ({ mark := none, low := c, count := n }, s)
    else
      match readFrame s cx f with
      | .error t => .error t
      | .ok (h, s) =>
        if h.marked && decide (h.markw.setWidth 16 = tag) then .ok ({ mark := some (f, h), low := c, count := n }, s)
        else if h.link = 0 ∨ f.toNat < h.link.toNat ∨ (f - h.link).toNat < (sbaseOf cx.w - 32).toNat then
          .error (.trap (stackTrap cx (eff s cx)))
        else cutWalk cx tag fuel (f - h.link) (some f) (n + 1) s

/-- Two ranges of addresses meet. -/
def rangesMeet (a n b m : Nat) : Bool := decide (a < b + m) && decide (b < a + n)

/-- The address after the split's clause (R204). -/
def clauseEnd (sp : Split) : DWord :=
  match sp.clause with
  | some cl => cl.addr + 4 + BitVec.ofNat 64 (4 * ((cl.word.extractLsb' 0 6).toNat + 1))
  | none => sp.pc + 4

/-- A split goes on at `pc` with a restored mask, and issues nothing until a flag clears (R205, R206). -/
def landSplit (s : State) (cx : Cx) (pc : DWord) (m : Mask) : Except Stop (State × Next) :=
  let s := dropTime (addOp s cx (cxFlag cx true) (s.now + nextTime s) true .none .hold)
  let s := updSplit s cx.k cx.j fun sp => { sp.jump s.now pc with mask := m }
  if m = 0 then
    match removeSplit s cx.k cx.j 40 cx.sp.path with
    | .error t => .error t
    | .ok s => .ok (s, .done)
  else .ok (s, .done)

/-- CUT: the frames above a mark are lifted into a sealed slice (R204, R205, R276). -/
def execCut (x : BitVec 6) (imm : Half) (s : State) : Host.Outcome State Fault Refusal :=
  runWord .scalar true (.cut x imm) s fun cx _ s => keepFlag <|
    let i := Instr.cut x imm
    let e := eff s cx
    if (cxFlag cx true).isNone then .error (wordTrap .clause i e)
    else
      match iterTrap i cx e with
      | some t => .error t
      | none =>
        let buf := readPair s cx.w x.toNat
        let cap := (readS s cx.w (x.toNat + 2)).toNat
        let slice : Except Stop (State × Next) := .error (.trap (mkTrap .slice (imm.setWidth 32) e))
        if buf.toNat % 8 ≠ 0 then .error (.trap (mkTrap .align (buf.setWidth 32) e))
        else
          afterSettle .scalar s cx fun s =>
            match cutWalk cx imm ((fbOf cx.w).toNat + 1) (fbOf cx.w) none 0 s with
            | .error t => .error t
            | .ok (r, s1) =>
              match r.mark, r.low with
              | some (f, fh), some origin =>
                let size := (stOf cx.w - origin).toNat
                if cap < 128 + size ∨ rangesMeet buf.toNat (128 + size) (stackVa cx.w origin).toNat size then slice
                else
                  match stackLoad s1 cx (stackVa cx.w origin) size with
                  | .error t => .error t
                  | .ok (frames, s2) =>
                    let h : SliceHeader :=
                      { asid := cx.w.asid, frames := r.count, tag := imm, size := size, fboff := fbOf cx.w - origin,
                        origin := stackVa cx.w origin, resume := clauseEnd cx.sp, mask := cx.sp.mask,
                        sreg := (List.range 16).map fun n => readS s cx.w (16 + n), mode := cx.w.mode }
                    let crc := crc32c (h.bytes ++ frames)
                    match stackStore s2 cx buf (h.bytes ++ leBytes 4 crc.toNat ++ frames) with
                    | .error t => .error t
                    | .ok s3 =>
                      let s4 := updWarp s3 cx.k fun w =>
                        { ((((w.putS 61 origin).putS 60 f).putS 0 (buf.setWidth 32)).putS 1 (buf.extractLsb' 32 32)).putS 2
                            (BitVec.ofNat 32 (128 + size)) with mode := savedMode fh.mode }
                      landSplit s4 cx fh.rpc (restoredMask cx.w cx.j fh.mask)
              | _, _ => slice

/-- Offsets of a slice's frames, from FBOFF down to 0; none where the structure fails (R290 check 5). -/
def sliceFrames (bs : List Byte) : Nat → Nat → Option (List Nat)
  | 0, _ => none
  | 1, off => if off = 0 then some [0] else none
  | n + 1, off =>
    let link := field bs off 4
    if off = 0 ∨ link = 0 ∨ link % 8 ≠ 0 ∨ off < link then none
    else (sliceFrames bs n (off - link)).map fun r => off :: r

/-- Replaces `new.length` bytes at an offset. -/
def patch (bs : List Byte) (off : Nat) (new : List Byte) : List Byte :=
  bs.take off ++ new ++ bs.drop (off + new.length)

/-- One stack address of a copied frame remapped (R207). -/
def remapPtr (origin : DWord) (size : Nat) (delta : DWord) (v : DWord) : DWord :=
  if origin.toNat ≤ v.toNat ∧ v.toNat < origin.toNat + size then v + delta else 0xDEAD000000000000

/-- The words of PMAP of a frame at `off` with top `top` remapped (R200, R207). -/
def remapFrame (origin : DWord) (size : Nat) (delta : DWord) (off top : Nat) (bs : List Byte) : List Byte :=
  (List.range 32).foldl (fun bs i =>
    let p := off + 32 + 8 * i
    if (field bs (off + 20) 4).testBit i && decide (p + 8 ≤ top) then
      patch bs p (leBytes 8 (remapPtr origin size delta (BitVec.ofNat 64 (field bs p 8))).toNat)
    else bs) bs

/-- All frames remapped; `offs` from the topmost down. -/
def remapAll (origin : DWord) (size : Nat) (delta : DWord) : List Nat → Nat → List Byte → List Byte
  | [], _, bs => bs
  | off :: r, top, bs => remapAll origin size delta r off (remapFrame origin size delta off top bs)

/-- GRAFT: a slice is copied onto the stack and resumed (R206, R207, R290, R291). -/
def execGraft (x : BitVec 6) (imm : Half) (s : State) : Host.Outcome State Fault Refusal :=
  runWord .scalar true (.graft x imm) s fun cx _ s => keepFlag <|
    let i := Instr.graft x imm
    let e := eff s cx
    let slice : Nat → Except Stop (State × Next) := fun n => .error (.trap (mkTrap .slice (BitVec.ofNat 32 n) e))
    if !lastInClause cx i then .error (illop i e)
    else if (cxFlag cx true).isNone then .error (wordTrap .clause i e)
    else
      match iterTrap i cx e with
      | some t => .error t
      | none =>
        let a := readPair s cx.w x.toNat
        if a.toNat % 8 ≠ 0 then .error (.trap (mkTrap .align (a.setWidth 32) e))
        else
          afterSettle .scalar s cx fun s =>
            match stackLoad s cx a 128 with
            | .error t => .error t
            | .ok (h, s1) =>
              let size := field h 16 4
              let fboff := field h 20 4
              let origin : DWord := BitVec.ofNat 64 (field h 24 8)
              let n := stOf cx.w
              if field h 0 4 ≠ 0x534C4943 then slice 1
              else if field h 4 4 ≠ 1 then slice 2
              else if field h 8 2 ≠ cx.w.asid then slice 3
              else if n.toNat + size > (slimOf cx.w).toNat then .error (.trap (stackTrap cx e))
              else
                match stackLoad s1 cx (a + 128) size with
                | .error t => .error t
                | .ok (bs, s2) =>
                  if crc32c (h.take 124 ++ bs) ≠ BitVec.ofNat 32 (field h 124 4) then slice 4
                  else if size < 32 ∨ size % 8 ≠ 0 ∨ fboff % 8 ≠ 0 ∨ size < fboff + 32 then slice 5
                  else
                    match sliceFrames bs (field h 10 2) fboff with
                    | none => slice 5
                    | some offs =>
                      let m := restoredMask cx.w cx.j (BitVec.ofNat 64 (field h 40 8) &&& cx.sp.mask)
                      if m = 0 then slice 6
                      else
                        let bs := remapAll origin size (stackVa cx.w n - origin) offs size bs
                        let bs := patch bs 0 (leBytes 4 (n - fbOf cx.w).toNat ++ leBytes 8 (cx.sp.pc + 4).toNat
                          ++ leBytes 4 cx.w.mode.toNat)
                        let bs := patch bs 24 (leBytes 8 cx.sp.mask.toNat)
                        match stackStore s2 cx (stackVa cx.w n) bs with
                        | .error t => .error t
                        | .ok s3 =>
                          let s4 := updWarp s3 cx.k fun w =>
                            let w := (List.range 16).foldl (fun w r => w.putS (16 + r) (BitVec.ofNat 32 (field h (48 + 4 * r) 4))) w
                            { (w.putS 60 (n + BitVec.ofNat 32 fboff)).putS 61 (n + BitVec.ofNat 32 size) with
                              mode := savedMode (BitVec.ofNat 16 (field h 112 4)) }
                          landSplit s4 cx (BitVec.ofNat 64 (field h 32 8)) m

end Sys2Proof.Machine
end

