-- ==== Sys2Proof/Machine/Packets.lean ====
section
/-! DEFINITION. Packets of command queues, their completion words, and launches that end (R240, R241, R244, R248, R249, R255,
R388). -/

namespace Sys2Proof.Machine

/-- The status of a completed packet (R248). -/
inductive Status where
  | done | noFit | badIsa | noImage | badObj | noRef | refused | changed | killed | badPkt | badLaunch | busy | noWarp
deriving DecidableEq, Repr

/-- Its code (R248). -/
def Status.code : Status → Nat
  | .done => 0
  | .noFit => 1
  | .badIsa => 2
  | .noImage => 3
  | .badObj => 4
  | .noRef => 5
  | .refused => 6
  | .changed => 7
  | .killed => 8
  | .badPkt => 9
  | .badLaunch => 10
  | .busy => 11
  | .noWarp => 12

/-- The ASID in which a tenancy's completion words and SIGNALs are translated: its first one (R244, entry 12). -/
def tenAsid (t : Tenancy) : Nat := t.asids.headD 0

/-- Queue `q` of tenancy `ten`. -/
def queueAt (s : State) (ten q : Nat) : Option Queue := (tenAt s ten).bind fun t => tget t.queues q

/-- The state with a queue changed. -/
def updQueue (s : State) (ten q : Nat) (f : Queue → Queue) : State :=
  match tenAt s ten with
  | none => s
  | some t =>
    match tget t.queues q with
    | none => s
    | some x => setTen s ten { t with queues := tset t.queues q (f x) }

/-- A request made for a packet of a queue (R388): the queue's own privilege, no core. -/
def queueReq (s : State) (ten q asid : Nat) (acc : Acc) : Req :=
  { slot := none, asid := asid, ten := ten, core := none
    svc := match queueAt s ten q with
      | some x => x.spec.service
      | none => false
    acc := acc, path := .queue }

/-- The records of the faulting pages of a packet's access: ENGINE 8, MASK 0, WARP 0 (R140, R388). -/
def queueFaults (ten asid : Nat) (acc : Acc) (fs : List PageFault) : List FaultInfo :=
  fs.map fun f =>
    { ten := ten, asid := asid, va := f.va, lanes := 0, cause := f.cause, engine := 8, warp := 0, info := faultInfo acc f.level }

/-- Byte `o` of the packet at index `i` of a queue's ring: indexes run freely (R240, entry 9). DESIGN CHOICE (entry 43): at REDUCED a ring
in compute HBM on stacks 4 to 7 is read as any other (R16). -/
def ringByte (x : Queue) (i o : Nat) : Nat :=
  (if x.spec.inHost then hostLoc 0 else hbmLoc 0) + x.spec.base + 64 * (i % 2 ^ x.spec.log) + o

/-- The 64 bytes of the packet at index `i` (R240). -/
def packetBytes (s : State) (x : Queue) (i : Nat) : List Byte := memBytes s.mem (ringByte x i 0) 64

/-- A handle is freed when no reference and no launch of it is left (R255). -/
def sweepHandles (s : State) : State :=
  { s with handles := s.handles.filter fun e => !e.2.refs.isEmpty || s.launches.any fun l => decide (l.2.handle = e.1) }

/-- The packet counts as completed (R249); the launch it made, if any, is at its end. -/
def leaveLive (s : State) (ten q index : Nat) : State :=
  let s := updQueue s ten q fun x => { x with live := x.live.filter fun i => decide (i ≠ index) }
  sweepHandles { s with launches := s.launches.filter fun l =>
    !(decide (l.2.ten = ten) && decide (l.2.queue = q) && decide (l.2.index = index)) }

/-- The completion word is stored, or waits for a replay, or cannot be stored (R244, R388). -/
def storeCpl (s : State) (c : Completion) : State :=
  match tenAt s c.ten with
  | none => s
  | some t =>
    if c.va.toNat % 8 ≠ 0 ∨ c.va = 0 then leaveLive s c.ten c.queue c.index
    else
      match storeNow s (queueReq s c.ten c.queue (tenAsid t) .store) c.va (leBytes 4 c.status ++ leBytes 4 c.result.toNat) with
      | .ok (_, s) => leaveLive s c.ten c.queue c.index
      | .error (.faults fs) =>
        let x := putFaults s (queueFaults c.ten (tenAsid t) .store fs)
        { x.1 with cpls := x.1.cpls ++ [{ c with faults := x.2 }] }
      | .error _ => leaveLive s c.ten c.queue c.index

/-- An earlier LAUNCH of the queue has not completed (R249). -/
def launchBefore (s : State) (ten q index : Nat) : Bool :=
  s.launches.any fun l => decide (l.2.ten = ten) && decide (l.2.queue = q) && decide (l.2.index < index)

/-- UNLOADs of a queue that wait and can take effect now (R249, R255). -/
def settleUnloads (s : State) (ten q : Nat) : List (Nat × Nat × DWord) → State
  | [] => s
  | u :: r =>
    if launchBefore s ten q u.1 then settleUnloads s ten q r
    else
      let s := updQueue s ten q fun x => { x with unloads := x.unloads.filter fun e => decide (e.1 ≠ u.1) }
      let s := { s with handles := match tget s.handles u.2.1 with
        | some h => tset s.handles u.2.1 { h with refs := h.refs.erase (ten * 16 + q) }
        | none => s.handles }
      settleUnloads (storeCpl s { ten := ten, queue := q, index := u.1, va := u.2.2, status := 0, result := 0, faults := [] })
        ten q r

/-- After a packet of a queue has completed. -/
def settleQueue (s : State) (ten q : Nat) : State :=
  match queueAt s ten q with
  | none => s
  | some x => settleUnloads s ten q x.unloads

/-- A packet completes (R244). -/
def complete (s : State) (ten q index : Nat) (va : DWord) (st : Status) (result : Word) : State :=
  settleQueue (storeCpl s { ten := ten, queue := q, index := index, va := va, status := st.code, result := result, faults := [] })
    ten q

/-- Completion words that wait for a record meeting `pr` are made again (R388). -/
def replayCpls (s : State) (pr : FaultRef → Bool) : State :=
  let go := s.cpls.filter fun c => c.faults.any pr
  go.foldl (fun s c => settleQueue (storeCpl s c) c.ten c.queue)
    { s with cpls := s.cpls.filter fun c => !(c.faults.any pr) }

/-- Workgroups of a launch (R18). -/
def Launch.total (l : Launch) : Nat := l.dims.1 * l.dims.2.1 * l.dims.2.2

/-- A LAUNCH completes when every workgroup of its kernel has retired (R249). -/
def launchEnded (s : State) (n : Nat) : State :=
  match tget s.launches n with
  | none => s
  | some l =>
    if l.retired = l.total then complete s l.ten l.queue l.index l.cpl (if l.killed then .killed else .done) 0 else s

/-- A workgroup of a launch has retired. -/
def workgroupRetired (s : State) (n : Nat) (killed : Bool) : State :=
  match tget s.launches n with
  | none => s
  | some l =>
    launchEnded { s with launches := tset s.launches n { l with retired := l.retired + 1, killed := l.killed || killed } } n

end Sys2Proof.Machine
end

