-- ==== Sys2Proof/Machine/Brew.lean ====
section
/-! DEFINITION. Warps that spawn and retire, register blocks, brews and their iteration warps, workgroup and quad barriers as
they complete (R22, R30 to R32, R91 to R105, R184, R261, R271, R275, R282, R349, R384). -/

namespace Sys2Proof.Machine

/-! Spawning (R22, R94, R244). -/

/-- The start of stack region `r` of a workgroup (R244). -/
def regionStart (g : Workgroup) (r : Nat) : DWord := g.block + BitVec.ofNat 64 (g.ssz * r)

/-- A direction of the zero code (R190). -/
def zeroDirection : Direction := { cls := .zero, codes := List.replicate 128 0 }

/-- The scalar registers a warp has at spawn in stack region `r` (R22, R94): `own` gives S0 to S59. -/
def spawnScalars (g : Workgroup) (r : Nat) (own : Nat → Word) : List Word :=
  let sb : Word := (regionStart g r).setWidth 32 + 1536
  (List.range 60).map own ++ [sb - 32, sb, sb, sb + BitVec.ofNat 32 g.slen]

/-- S56 to S59 of a warp of the workgroup, the rest zero (R22). -/
def launchScalar (g : Workgroup) (idx i : Nat) : Word :=
  if i = 56 then BitVec.ofNat 32 g.sram
  else if i = 57 then BitVec.ofNat 32 g.linear
  else if i = 58 then BitVec.ofNat 32 idx
  else if i = 59 then BitVec.ofNat 32 g.grid
  else 0

/-- The first split of a warp: all lanes but those of `out`, at a clause start (R22, R252). -/
def firstSplit (now : Nat) (pc : DWord) (out : Mask) : Split :=
  { mask := ~~~out, pc := pc, clause := none, resumeAt := none, path := [], latches := noLatches, park := .running,
    lastPass := none, lastIssue := now, unissued := true, wakeAt := now + 1, losses := 0, yielded := false, starving := false, group := 0
    stopped := false }

/-- Batches of a class at spawn: number 1 is open (R173). -/
def noBatches : Batches := { opened := 1, cmds := [], failed := [] }

/-- A warp at spawn in stack region `r` of workgroup number `gid` (R22, R94, R230). DESIGN CHOICE (entry 37): it spawns, or is
restored, even when its quadrant's pool of 64 instruction-buffer entries is full; only BRDIV asks for a free one (R81, R82). -/
def newWarp (gid : Nat) (g : Workgroup) (now idx r allot : Nat) (iter : Option Nat) (own : Nat → Word) (mode : Half)
    (pc : DWord) (out : Mask) : Warp :=
  { wg := gid, ten := g.ten, asid := g.asid, index := idx, iter := iter, born := now
    s := spawnScalars g r own
    v := List.replicate (8 * allot) zeroRow
    p := List.replicate 8 0, dirs := List.replicate 16 zeroDirection, norms := List.replicate 16 0xFF800000
    mode := mode, allot := allot, splits := [(0, firstSplit now pc out)], divCtr := 0, spills := [], groups := []
    exited := out, pend := [], ops := [], bK := noBatches, bA := noBatches, bN := noBatches, bG := noBatches
    waking := false
    svsp := (regionStart g r).setWidth 32
    sbase := (regionStart g r).setWidth 32 + 1536
    stkhi := g.block.extractLsb' 32 32
    frame := [], service := false, handler := none, deferred := [], bkpt := none, park := none
    parkSplit := 0, parkOrder := 0, arrivals := [], deferPresence := [], deferXrel := false }

/-- The state with a warp in slot `k`; its blocks leave the quadrant's pool (R31). -/
def putWarp (s : State) (k : Nat) (w : Warp) : State :=
  let q := quadAt s (coreOfSlot k) (quadOfSlot k)
  setWarp (setQuad s (coreOfSlot k) (quadOfSlot k) { q with pool := q.pool - w.allot }) k w

/-- Slot `k` holds no warp and is reserved by no workgroup as a brew slot (R19, R190). -/
def slotFree (s : State) (k : Nat) : Bool :=
  (warpAt s k).isNone && s.wgs.all fun g => !((g.2.slots.drop g.2.n).contains k)

/-! The claim queue (R32, R275, R349). -/

/-- Blocks that the warp's SURRs have still to return. -/
def surrHeld (w : Warp) : Nat :=
  (w.ops.map fun o => match o.kind with
    | .surr _ n => n
    | _ => 0).sum

/-- The request at the head of a quadrant's claim queue can be granted (R32). A warp that is still returning blocks waits. -/
def claimReady (s : State) (c q : Nat) : Bool :=
  match (quadAt s c q).claims with
  | [] => false
  | r :: _ =>
    match r.slot with
    | none => false
    | some k =>
      decide (r.n ≤ (quadAt s c q).pool)
        && (match warpAt s k with
            | some w => decide (surrHeld w = 0) && !(w.handled r.split && decide (w.allot + r.n > 10))
            | none => true)

/-- A split goes on after its CLAIM with `n` more zeroed blocks; latches of every split are cleared (R31, R32). -/
def Warp.grant (w : Warp) (j n : Nat) : Warp :=
  let w : Warp := { w with allot := w.allot + n, v := w.v.take (8 * w.allot) ++ List.replicate (8 * n) zeroRow }
  w.noLatch.updSplit j fun sp => { sp.pass 0 with park := .running }

/-- CLAIM_GRANT: the head of the claim queue of quadrant `quad` mod 4 of core `quad` div 4 is granted (R32). A grant beyond
10 blocks raises REGBOUND (entry 13). -/
def execClaimGrant (quad : Nat) (s : State) : Host.Outcome State Fault Refusal :=
  let c := quad / 4
  let q := quad % 4
  let x := quadAt s c q
  match x.claims with
  | [] => .next s
  | r :: rest =>
    if !claimReady s c q then .next s
    else
      match r.slot with
      | none => .next s
      | some k =>
        match cxAt s k r.split with
        | none => .next (setQuad s c q { x with claims := rest })
        | some cx =>
          if cx.w.allot + r.n > 10 then
            let s := updSplit (setQuad s c q { x with claims := rest }) k r.split fun sp => { sp with park := .running }
            let npc := cx.sp.pc + 4
            .next (takeTrap s k r.split (mkTrap .regbound (BitVec.ofNat 32 r.n) (eff s cx)) cx.sp.pc npc (hdrFor cx.sp npc) false)
          else
            .next (afterWord (updWarp (setQuad s c q { x with claims := rest, pool := x.pool - r.n }) k fun w => w.grant r.split r.n) k)

/-- CLAIM (R32, R275). -/
def execClaim (x : BitVec 6) (imm : Half) (s : State) : Host.Outcome State Fault Refusal :=
  runWord .scalar false (.claim x imm) s fun cx _ s =>
    let n := imm.toNat
    if cx.w.allot + n > 10 then .error (.trap (mkTrap .regbound (BitVec.ofNat 32 n) (eff s cx)))
    else
      let c := coreOfSlot cx.k
      let q := quadAt s c (quadOfSlot cx.k)
      let s := setQuad s c (quadOfSlot cx.k) { q with claims := q.claims ++ [{ slot := some cx.k, split := cx.j, n := n }] }
      .ok (updWarp s cx.k fun w =>
        w.noLatch.updSplit cx.j fun sp => { sp.issued s.now with park := .claim }, .done)

/-- SURR (R32, R349). The split issues nothing until the blocks have been returned. -/
def execSurr (x : BitVec 6) (imm : Half) (s : State) : Host.Outcome State Fault Refusal :=
  runWord .scalar false (.surr x imm) s fun cx _ s =>
    let n := imm.toNat
    if cx.w.allot < n then .error (.trap (mkTrap .regbound (BitVec.ofNat 32 n) (eff s cx)))
    else
      let s := addOp s cx none s.now true .none (.surr (cx.w.allot - n) n)
      .ok (updWarp s cx.k fun w => { w.noLatch with allot := w.allot - n }, .seq)

/-- Register `n` lies in blocks `lo` to `lo + m - 1`. -/
def inBlocks (lo m n : Nat) : Bool := decide (8 * lo ≤ n) && decide (n < 8 * (lo + m))

/-- The operation will write a register of the blocks. -/
def Op.writesBlocks (o : Op) (lo m : Nat) : Bool :=
  match o.kind with
  | .access a =>
    match a.dest with
    | .rows d n => (List.range n).any fun i => inBlocks lo m (d + i)
    | .one (.v d) => inBlocks lo m d
    | _ => false
  | .write outs _ => outs.any fun e =>
    match e.1 with
    | .v d => inBlocks lo m d
    | _ => false
  | .matrix x => (List.range 4).any fun i => inBlocks lo m (x.d + i)
  | _ => false

/-- The blocks of a SURR can be returned: no earlier write to them is in flight, and no partner reads them as B (R349). -/
def surrReady (s : State) (k : Nat) (w : Warp) (o : Op) : Bool :=
  match o.kind with
  | .surr lo n =>
    (w.pend.all fun p => match p.dest with
      | .v d => !(inBlocks lo n d && decide (p.seq < o.seq))
      | _ => true)
      && (w.ops.all fun e => !(decide (e.seq < o.seq) && e.writesBlocks lo n))
      && (s.warps.all fun e => e.2.ops.all fun x => match x.kind with
        | .matrix m => !(inBlocks lo n m.b && decide (s.now < m.start + 4) && m.partners.contains (some k))
        | _ => true)
  | _ => false

/-- The SURRs of a warp whose blocks can be returned. -/
def surrsReady (s : State) (k : Nat) (w : Warp) : List Op := w.ops.filter fun o => surrReady s k w o

/-- SURR_RETURN: the surrendered blocks of the warp in slot `slot` return to the pool (R349). -/
def execSurrReturn (slot : Nat) (s : State) : Host.Outcome State Fault Refusal :=
  match warpAt s slot with
  | none => .next s
  | some w =>
    match surrsReady s slot w with
    | [] => .next s
    | o :: _ =>
      let n := match o.kind with
        | .surr _ n => n
        | _ => 0
      let q := quadAt s (coreOfSlot slot) (quadOfSlot slot)
      let s := setQuad s (coreOfSlot slot) (quadOfSlot slot) { q with pool := q.pool + n }
      .next (afterWord (updWarp s slot fun w =>
        let w := w.setOp o.id none
        if surrHeld w = 0 then { w with v := w.v.take (8 * w.allot) } else w) slot)

/-! Barriers that complete (R184, R261, R264). -/

/-- A workgroup barrier that has seen no phase. -/
def Barrier.empty : Barrier := { phase := 0, count := 0, arrived := [] }

/-- Barrier `b` of a workgroup: 0 to 15 are the named ones, 16 is that of BARWG (R260, R264). -/
def barrierAt (g : Workgroup) (b : Nat) : Barrier := g.barriers.getD b Barrier.empty

/-- The open phase is complete (R261). -/
def barrierDone (g : Workgroup) (b : Nat) : Bool :=
  let x := barrierAt g b
  !x.arrived.isEmpty
    && (if x.count = 0 then g.warps.all fun e => x.arrived.contains e.1 else decide (x.arrived.length = x.count))

/-- Warps of a workgroup that are parked on `p` go on (R29). -/
def wakeParked (s : State) (gid : Nat) (p : Warp → Bool) : State :=
  { s with warps := s.warps.map fun e =>
      if e.2.wg = gid && p e.2 then (e.1, { e.2 with park := none }) else e }

/-- A complete phase is closed, an empty one opened, and the waiting warps are woken (R261). -/
def settleBarrier (s : State) (gid b : Nat) : State :=
  match wgAt s gid with
  | none => s
  | some g =>
    if barrierDone g b then
      let x := barrierAt g b
      wakeParked (setWg s gid { g with barriers := g.barriers.set b { phase := x.phase + 1, count := 0, arrived := [] } }) gid
        fun w => decide (w.park = some (.barrier b x.phase))
    else s

/-- The quad barrier of quad `n` completes when every partner that has not retired has arrived (R184). -/
def settleQuad (s : State) (gid n : Nat) : State :=
  match wgAt s gid with
  | none => s
  | some g =>
    let arrived := g.quads.getD n []
    if !arrived.isEmpty && (g.warps.all fun e => decide (e.1 / 4 ≠ n) || arrived.contains e.1) then
      wakeParked (setWg s gid { g with quads := g.quads.set n [] }) gid fun w =>
        decide (w.park = some .quadBarrier) && decide (w.index / 4 = n)
    else s

/-! The end of a brew (R92, R102). -/

/-- A parked BREW's host warp resumes at its resume clause (R102), while it is still parked there: after a KILL its slot may be another
warp's (R245). -/
def resumeHost (s : State) (b : Brew) : State :=
  updWarp s b.host fun w =>
    if w.wg = b.wg ∧ w.park = some .brew then
      { w with park := none, splits := w.splits.map fun e => (e.1, { e.2.land b.resume with park := .running }) }
    else w

/-- A parked BREW in its place among those of a core, in the order of arrival (R92, R105). -/
def insertWait (x : BrewWait) : List BrewWait → List BrewWait
  | [] => [x]
  | y :: r => if x.order < y.order then x :: y :: r else y :: insertWait x r

/-- The first parked BREW that may become active (R92): its workgroup is not being drained (R234). DESIGN CHOICE (entry 38): a later one of
another workgroup does not wait behind one whose workgroup is. -/
def nextBrew (s : State) (ws : List BrewWait) : Option Brew :=
  (ws.find? fun x => match wgAt s x.brew.wg with
    | some g => !g.draining && !g.killed
    | none => false).map fun x => x.brew

/-- BREW_ACTIVATE: parked BREWs in the order of arrival while no brew is active; one with no iterations ends at once
(R92, R102). -/
def activateBrew (c : Nat) : Nat → State → State
  | 0, s => s
  | n + 1, s =>
    let co := coreAt s c
    match co.brew, nextBrew s co.brewWait with
    | none, some b =>
      let ws := co.brewWait.filter fun x => decide (x.brew.host ≠ b.host)
      if b.n = 0 then activateBrew c n (resumeHost (setCore s c { co with brewWait := ws }) b)
      else setCore s c { co with brewWait := ws, brew := some b, blocks := [] }
    | _, _ => s

/-- Iteration warps a brew has in all (R93). -/
def Brew.count (b : Brew) : Nat := b.n + b.stages - 1

/-- Live iteration warps of a core. -/
def liveIters (s : State) (c : Nat) : List Nat :=
  s.warps.filterMap fun e => if coreOfSlot e.1 = c then e.2.iter else none

/-- BREW_END: when every iteration warp has retired (R102). -/
def settleBrew (s : State) (c : Nat) : State :=
  let co := coreAt s c
  match co.brew with
  | none => s
  | some b =>
    if b.next = b.count && (liveIters s c).isEmpty then
      activateBrew c 65 (resumeHost (setCore s c { co with brew := none, blocks := [] }) b)
    else s

/-! BREW and XREL. -/

/-- The scalar registers a BREW hands to its iteration warps (R94). -/
def brewRegs (s : State) (w : Warp) : List Word :=
  (List.range 60).map fun n => if n < 16 || 56 ≤ n then readS s w n else 0

/-- BREW (R91, R92, R271). -/
def execBrew (x : BitVec 6) (imm : Half) (s : State) : Host.Outcome State Fault Refusal :=
  runWord .scalar false (.brew x imm) s fun cx _ s =>
    let i := Instr.brew x imm
    let e := eff s cx
    let n := readS s cx.w x.toNat
    let off := readS s cx.w (x.toNat + 1)
    let f := (imm.extractLsb' 9 4).toNat + 1
    let a := (imm.extractLsb' 6 3).toNat + 1
    let d := 4 * ((imm.extractLsb' 0 3).toNat + 1)
    if cx.w.iter.isSome || othersLive cx.w cx.j then .error (wordTrap .converge i e)
    else if !lastInClause cx i then .error (illop i e)
    else if x.toNat > 62 ∨ f * a > 32 ∨ d > cx.g.brewSlots ∨ n.toNat ≥ 2 ^ 31 ∨ off.toNat % 4 ≠ 0 then .error (illop i e)
    else
      let c := coreOfSlot cx.k
      let b : Brew :=
        { wg := cx.w.wg, host := cx.k, n := n.toNat, stages := (imm.extractLsb' 13 3).toNat + 1, fresh := f, ages := a,
          blocks := (imm.extractLsb' 3 3).toNat, depth := d, resume := cx.sp.pc + off.signExtend 64, start := cx.sp.pc + 4,
          next := 0, regs := brewRegs s cx.w, mode := cx.w.mode, lastSpawn := none, requested := false }
      let s := updWarp s cx.k fun w =>
        (w.parkAs cx.j s.nextId .brew).updSplit cx.j fun sp => sp.issued s.now
      let co := coreAt s c
      .ok (activateBrew c 65 (dropName (setCore s c { co with brewWait := insertWait { brew := b, order := s.nextId } co.brewWait })), .done)

/-- XREL (R99, R100, R384). -/
def execXrel (x : BitVec 6) (imm : Half) (s : State) : Host.Outcome State Fault Refusal :=
  runWord .scalar false (.xrel x imm) s fun cx _ s =>
    if cx.w.iter.isNone then .error (illop (.xrel x imm) (eff s cx))
    else if !cx.w.single then .ok (updWarp s cx.k fun w => { w with deferXrel := true }, .seq)
    else .ok (releaseAll s cx.k cx.w, .seq)

/-! Iteration warps (R93 to R97). -/

/-- Block `m` of the brew file is free (R96): its owner and the warps that may read it have retired. -/
def blockFree (s : State) (c : Nat) (b : Brew) (m : Nat) : Bool :=
  match tget (coreAt s c).blocks m with
  | none => true
  | some k =>
    let live := liveIters s c
    (List.range b.ages).all fun i => decide (b.count ≤ k + i) || (decide (k + i < b.next) && !live.contains (k + i))

/-- A free brew slot of quadrant `q` among the first `d` of the workgroup (R93). DESIGN CHOICE (entry 38): the one that has been free
longest. -/
def freeBrewSlot (g : Workgroup) (q d : Nat) : Option Nat := g.freeBrew.find? fun j => decide (j < d) && decide (j % 4 = q)

/-- The next iteration warp may spawn but for its register blocks (R93). -/
def spawnRoom (s : State) (c : Nat) (b : Brew) : Bool :=
  match wgAt s b.wg with
  | none => false
  | some g =>
    decide (b.next < b.count) && decide ((liveIters s c).length < b.depth)
      && (freeBrewSlot g (b.next % 4) b.depth).isSome && blockFree s c b (b.next % brewBlocks b)
      && decide (b.lastSpawn ≠ some s.now) && !g.draining && !g.killed && running s c

/-- The request of the next iteration warp heads its queue, and the pool grants its blocks (R32, R93). -/
def spawnGranted (s : State) (c : Nat) (b : Brew) : Bool :=
  match (quadAt s c (b.next % 4)).claims with
  | r :: _ => b.requested && decide (r.slot = none) && decide (r.n ≤ (quadAt s c (b.next % 4)).pool)
  | [] => false

/-- The brew file with the block of warp `k` allocated: zeroed, and its presence cleared (R96, R99). -/
def allocBlock (co : Core) (b : Brew) (k : Nat) : Core :=
  let m := k % brewBlocks b
  let slots := (List.range b.fresh).map fun o => b.fresh * m + o
  { co with
    brewFile := slots.foldl (fun t sl => tdel t sl) co.brewFile
    presence := slots.foldl (fun p sl => p &&& ~~~(1#256 <<< sl)) co.presence
    blocks := tset co.blocks m k }

/-- The spawn of iteration warp `next` (R93, R94, R96). -/
def spawnIter (s : State) (c : Nat) (b : Brew) (g : Workgroup) (j : Nat) : State :=
  let k := b.next
  let w := newWarp b.wg g s.now (g.n + j) (g.n + j) b.blocks (some k) (fun i => b.regs.getD i 0) b.mode b.start 0
  let q := quadAt s c (k % 4)
  let s := setQuad s c (k % 4) { q with claims := q.claims.drop 1 }
  let s := setWg s b.wg { g with freeBrew := g.freeBrew.erase j }
  let s := setCore s c { allocBlock (coreAt s c) b k with
    brew := some { b with next := k + 1, lastSpawn := some s.now, requested := false } }
  putWarp s (g.slots.getD (g.n + j) 0) w

/-- ITERATION_SPAWN: the next iteration warp of core `core` enters the claim queue, and spawns once its request is granted
(R93). DESIGN CHOICE (entry 38): its request enters the queue once every other condition of R93 holds. -/
def execIterationSpawn (core : Nat) (s : State) : Host.Outcome State Fault Refusal :=
  match (coreAt s core).brew with
  | none => .next s
  | some b =>
    if !spawnRoom s core b then .next s
    else if !b.requested then
      let q := quadAt s core (b.next % 4)
      let s := setQuad s core (b.next % 4) { q with claims := q.claims ++ [{ slot := none, split := 0, n := b.blocks }] }
      .next (setCore s core { coreAt s core with brew := some { b with requested := true } })
    else if spawnGranted s core b then
      match wgAt s b.wg with
      | none => .next s
      | some g =>
        match freeBrewSlot g (b.next % 4) b.depth with
        | none => .next s
        | some j => .next (spawnIter s core b g j)
    else .next s

/-! Retirement (R31, R95, R99, R184, R261, R282). -/

/-- The retired partner gives no element of B any more (R183). -/
def dropPartner (s : State) (k : Nat) : State :=
  { s with warps := s.warps.map fun e =>
      (e.1, { e.2 with ops := e.2.ops.map fun o =>
        match o.kind with
        | .matrix m =>
          if decide (s.now < m.start + 4) && m.partners.contains (some k) then
            { o with kind := .matrix { m with
                bs := (m.partners.zip m.bs).map fun x => if x.1 = some k then [] else x.2
                partners := m.partners.map fun x => if x = some k then none else x } }
          else o
        | _ => o }) }

/-- A workgroup that has no warp left retires, its resources are free, and a brew of it is over (R245, R249). -/
def endWorkgroup (s : State) (gid : Nat) : State :=
  match wgAt s gid with
  | none => s
  | some g =>
    if g.warps.isEmpty && s.warps.all fun e => decide (e.2.wg ≠ gid) then
      let co := coreAt s g.core
      let mine := match co.brew with
        | some b => decide (b.wg = gid)
        | none => false
      let co := if mine then
          { co with
            brew := none, blocks := []
            quads := co.quads.map fun q => { q with claims := q.claims.filter fun r => r.slot.isSome } }
        else co
      let s := setCore s g.core { co with brewWait := co.brewWait.filter fun x => decide (x.brew.wg ≠ gid) }
      workgroupRetired (activateBrew g.core 65 { s with wgs := tdel s.wgs gid }) g.launch g.killed
    else s

/-- The effects on an iteration warp's brew (R95, R99). -/
def retireIter (s : State) (k : Nat) (w : Warp) (g : Workgroup) : State :=
  let c := coreOfSlot k
  let co := coreAt s c
  let s := setCore s c { co with presence := (ownSlots s k w).foldl (fun p sl => p ||| (1#256 <<< sl)) co.presence }
  setWg s w.wg { g with freeBrew := g.freeBrew ++ [w.index - g.n] }

/-- What a retiring warp leaves of its accesses: those that no flag holds any more are performed, and its reductions are placed, since
every access of the warp happens before what follows its end (R89, R138, R282, R283). -/
def retireAccesses (s : State) (k : Nat) : State :=
  match warpAt s k with
  | none => s
  | some w => placeReductions (settleOps s k (w.ops.map fun o => o.id)) fun r => decide (r.slot = k)

/-- THE RETIREMENT of the warp in slot `k` (R282): allotment, slot and headings return, and it counts as arrived at every
BARWG, BARQ and COUNT 0 phase; in an iteration warp presence is set and the brew slot is free. -/
def retireWarp (s : State) (k : Nat) : State :=
  let s := retireAccesses s k
  match warpAt s k with
  | none => s
  | some w =>
    match wgAt s w.wg with
    | none => { s with warps := tdel s.warps k }
    | some g =>
      let c := coreOfSlot k
      let q := quadAt s c (quadOfSlot k)
      let s := setQuad s c (quadOfSlot k)
        { q with pool := q.pool + w.allot + surrHeld w, claims := q.claims.filter fun r => decide (r.slot ≠ some k) }
      let s := dropPartner { s with warps := tdel s.warps k } k
      if w.iter.isSome then endWorkgroup (settleBrew (retireIter s k w g) c) w.wg
      else
        let s := setWg s w.wg { g with warps := tdel g.warps w.index }
        let s := (List.range 17).foldl (fun s b => settleBarrier s w.wg b) s
        endWorkgroup (settleQuad s w.wg (w.index / 4)) w.wg

/-- Everything that the ending warp waits for has completed (R282). -/
def exitReady (w : Warp) : Bool :=
  decide (w.park = some .exiting) && flagsIdle w && w.pend.isEmpty && w.bK.idle && w.bA.idle && w.bN.idle && w.bG.idle
    && !(w.ops.any Op.unsettled)

/-- The failed batch taken at the waiting EXIT, with its class (R174, R283). -/
def failedAtExit (w : Warp) : Option (EngineClass × FailedBatch) :=
  [EngineClass.K, .A, .N, .G].findSome? fun c => ((w.batches c).failed.head?).map fun f => (c, f)

/-- The workgroup of the warp is being ended by KILL or a tenancy reset (R245). -/
def wgKilled (s : State) (w : Warp) : Bool :=
  match wgAt s w.wg with
  | some g => g.killed
  | none => true

/-- WARP_RETIRE: the ending warp in slot `slot` retires once its flags and batches are complete; a failed batch is taken there
as a trap first (R282, R283). -/
def execWarpRetire (slot : Nat) (s : State) : Host.Outcome State Fault Refusal :=
  match warpAt s slot with
  | none => .next s
  | some w =>
    if !exitReady w || (!w.deferred.isEmpty && !wgKilled s w) then .next s
    else
      match failedAtExit w, wgKilled s w with
      | some (c, f), false =>
        let s := updWarp s slot fun w => (takeFailed w c f.batch).interrupt w.parkSplit
        match cxAt s slot w.parkSplit with
        | none => .next (retireWarp s slot)
        | some cx =>
          let npc := cx.sp.pc + 4
          .next (afterWord (takeTrap s slot cx.j { f.trap with lanes := eff s cx } cx.sp.pc npc (hdrFor cx.sp npc) false) slot)
      | _, _ => .next (retireWarp s slot)

end Sys2Proof.Machine
end

