-- ==== Sys2Proof/Machine/Engine.lean ====
section
/-! DEFINITION. What the engine commands share: their accesses to memory, their acceptance, their faults and their errors
(R138, R140, R142, R159, R165, R173, R174, R219). -/

namespace Sys2Proof.Machine

/-- An earlier range of the command touches the 64-byte sector of address `va` (R142). -/
def inSectors (seen : List (DWord × Nat)) (va : DWord) : Bool :=
  seen.any fun r => decide (0 < r.2) && decide (r.1.toNat / 64 ≤ va.toNat / 64)
    && decide (va.toNat / 64 ≤ (r.1.toNat + r.2 - 1) / 64)

/-- A and D bits, cached translations and access counters of an access made (R135, R137); a sector that an earlier range of
the command touches is not counted again (R142). -/
def noteRange (seen : List (DWord × Nat)) (s : State) (rq : Req) (va : DWord) (cs : List Chunk) : State :=
  countAll (touchAll s rq va cs) rq.ten rq.asid
    (chunkSectors va (cs.filter fun c => !inSectors seen (va + BitVec.ofNat 64 c.1)))

/-- An engine's read of `len` bytes after its ranges `seen`. Uncorrectable data raises POISON (R227). -/
def readAfter (seen : List (DWord × Nat)) (s : State) (rq : Req) (va : DWord) (len : Nat) : Except Bad (List Byte × State) :=
  match xlateAll s rq va len with
  | .error e => .error e
  | .ok cs =>
    if chunksPoisoned s cs then .error (.trap .poison (va.setWidth 32))
    else .ok (chunkBytes (touchAll s rq va cs) cs, noteRange seen s rq va cs)

/-- An engine's read of `len` bytes. -/
def readRange (s : State) (rq : Req) (va : DWord) (len : Nat) : Except Bad (List Byte × State) := readAfter [] s rq va len

/-- Several reads, one after another, after the ranges `seen`. -/
def readList (rq : Req) : List (DWord × Nat) → List (DWord × Nat) → State → Except Bad (List (List Byte) × State)
  | _, [], s => .ok ([], s)
  | seen, r :: rs, s =>
    match readAfter seen s rq r.1 r.2 with
    | .error e => .error e
    | .ok (b, s) =>
      match readList rq (r :: seen) rs s with
      | .error e => .error e
      | .ok (bs, s) => .ok (b :: bs, s)

/-- Several reads, one after another. -/
def readRanges (rq : Req) (rs : List (DWord × Nat)) (s : State) : Except Bad (List (List Byte) × State) := readList rq [] rs s

/-- An engine's write after its ranges `seen`. -/
def writeAfter (seen : List (DWord × Nat)) (s : State) (rq : Req) (va : DWord) (bs : List Byte) : Except Bad State :=
  match xlateAll s rq va bs.length with
  | .error e => .error e
  | .ok cs => .ok (chunkWrite (noteRange seen s rq va cs) cs bs)

/-- An engine's write. -/
def writeRange (s : State) (rq : Req) (va : DWord) (bs : List Byte) : Except Bad State := writeAfter [] s rq va bs

/-- Several writes, one after another, after the ranges `seen`. -/
def writeList (rq : Req) : List (DWord × Nat) → List (DWord × List Byte) → State → Except Bad State
  | _, [], s => .ok s
  | seen, r :: rs, s =>
    match writeAfter seen s rq r.1 r.2 with
    | .error e => .error e
    | .ok s => writeList rq ((r.1, r.2.length) :: seen) rs s

/-- Several writes, one after another; on an error none is made. -/
def writeRanges (rq : Req) (rs : List (DWord × List Byte)) (s : State) : Except Bad State := writeList rq [] rs s

/-- One range of a command's accesses. -/
structure Touch where
  acc : Acc
  va : DWord
  len : Nat
deriving DecidableEq, Repr

/-- The ranges that a command reads. -/
def loads (rs : List (DWord × Nat)) : List Touch := rs.map fun r => { acc := .load, va := r.1, len := r.2 }

/-- The ranges that a command writes. -/
def stores (rs : List (DWord × Nat)) : List Touch := rs.map fun r => { acc := .store, va := r.1, len := r.2 }

/-- The cores whose slices the ranges of a command lie in. -/
def touchSlices (s : State) (rq : Acc → Req) (ts : List Touch) : List Nat := ts.flatMap fun t => slicesOf s (rq t.acc) t.va t.len

/-- What is wrong with the accesses of a command, checked before any of them: the first trap, or else all its faulting pages, each
once (R138, R140). -/
def checkTouches (s : State) (rq : Acc → Req) : List Touch → Except (TrapClass × Word) (List (Acc × PageFault))
  | [] => .ok []
  | t :: ts =>
    match xlateAll s (rq t.acc) t.va t.len, checkTouches s rq ts with
    | .error (.trap c i), _ => .error (c, i)
    | _, .error x => .error x
    | .error (.faults fs), .ok gs => .ok ((fs.map fun f => (t.acc, f)) ++ gs.filter fun g => !fs.any fun f => f.same g.2)
    | .ok _, .ok gs => .ok gs

/-- How a command that met the error `e` ends: it stops with a trap, or parks on the records of its faulting pages (R138,
R140, R174). `f` gives the record of a page. -/
def touchStop (s : State) (rq : Acc → Req) (ts : List Touch) (acc : Acc) (f : Acc → PageFault → FaultInfo) :
    Bad → Except (TrapClass × Word) (List FaultInfo)
  | .trap c i => .error (c, i)
  | .faults fs =>
    match checkTouches s rq ts with
    | .error x => .error x
    | .ok [] => .ok (fs.map (f acc))
    | .ok gs => .ok (gs.map fun g => f g.1 g.2)

/-- The record of a replayable fault of an engine's data access (R140). -/
def engineFault (ten asid : Nat) (lanes : Mask) (engine : Nat) (warp : Word) (acc : Acc) (f : PageFault) : FaultInfo :=
  { ten := ten, asid := asid, va := f.va, lanes := lanes, cause := f.cause, engine := engine, warp := warp
    info := faultInfo acc f.level }

/-- An engine's read for a word, before its command is accepted (R165, R219). The word holds its flag while a fault of it waits
(R47). -/
def wordRead (s : State) (cx : Cx) (path : Path) (engine : Nat) (va : DWord) (len : Nat) : Except Stop (List Byte × State) :=
  match readRange s (cx.req .load path) va len with
  | .error e => keepFlag (.error (stopOf s cx .load engine e))
  | .ok r => onceAwake s (cx.req .load path) va len r

/-- The command is accepted: its word holds the split until the flag clears, at a time that is open (R165, R219, R387). -/
def acceptWord (s : State) (cx : Cx) : State :=
  dropTime (addOp s cx (cxFlag cx true) (s.now + nextTime s) true .none .hold)

/-- WARP of a record of the split's command (R140). -/
def Cx.warpWord (cx : Cx) : Word := warpId cx.k cx.j cx.w.iter.isSome

end Sys2Proof.Machine
end

