-- ==== Sys2Proof/Machine/Casks.lean ====
section
/-! DEFINITION. Casks and dependency counters (R29, R30, R155, R212 to R216, R277 to R280, R329 to R332). -/

namespace Sys2Proof.Machine

/-! Casks. -/

/-- Cask numbers (R212). -/
def caskCount : Nat := 4 * Config.cores

/-- The cask exists and is enabled (R214). -/
def caskOn (s : State) (c : Nat) : Bool := decide (c < caskCount) && (caskAt s c).en

/-- Records in a cask, and its free places (R213, R214). -/
def Cask.held (x : Cask) : Nat := x.recs.length + x.spilled
def Cask.room (x : Cask) : Nat := 32 + x.scap - x.held

/-- A push has its place: on chip, or at the spill tail (R213). DESIGN CHOICE (entry 41): while the spill ring is full, a cask with
fewer than 32 records on chip takes no push, though it has room by R214: neither place is free. -/
def Cask.takes (x : Cask) : Bool := (decide (x.spilled = 0) && decide (x.recs.length < 32)) || decide (x.spilled < x.scap)

/-- The request of a cask's spill ring (R212, entry 14). -/
def spillReq (c : Nat) (x : Cask) (acc : Acc) : Req :=
  { slot := none, asid := x.asid, ten := x.ten, core := some (c / 4), svc := true, acc := acc, path := .plain }

/-- The address of the spill ring's place `n` after the head. -/
def spillPlace (x : Cask) (n : Nat) : DWord := x.spill + BitVec.ofNat 64 (32 * ((x.head + n) % x.scap))

/-- A push into a cask with room (R213). -/
def pushCask (s : State) (c : Nat) (ws : List Word) : Except Bad State :=
  let x := caskAt s c
  if x.spilled = 0 ∧ x.recs.length < 32 then .ok (setCask s c { x with recs := x.recs ++ [ws] })
  else
    match writeRange s (spillReq c x .store) (spillPlace x x.spilled) (ws.flatMap fun w => leBytes 4 w.toNat) with
    | .error e => .error e
    | .ok s => .ok (setCask s c { x with spilled := x.spilled + 1 })

/-- The level of a record (R213). -/
def recLevel (ws : List Word) : Nat := (ws.headD 0).toNat % 4

/-- The position of the oldest on-chip record of the lowest level (R213). -/
def lowestRec (rs : List (List Word)) : Nat :=
  let n := rs.foldl (fun n r => min n (recLevel r)) 3
  rs.findIdx fun r => decide (recLevel r = n)

/-- A pop of an on-chip record (R213). -/
def popCask (s : State) (c : Nat) : Option (List Word × State) :=
  let x := caskAt s c
  let i := if x.pri then lowestRec x.recs else 0
  match x.recs[i]? with
  | none => none
  | some r => some (r, setCask s c { x with recs := x.recs.eraseIdx i })

/-- S8 to S15 (R214). -/
def recordRegs (s : State) (w : Warp) : List Word := (List.range 8).map fun i => readS s w (8 + i)

/-- The writes of a record to S8 to S15 (R330). -/
def recordOuts (ws : List Word) : List (Dest × Payload) := (List.range 8).map fun i => (.s (8 + i), .word (ws.getD i 0))

/-- A warp parked on cask `c` can go on: a record or a place is there, and its split waits for no replay (R29). -/
def caskReady (x : Cask) (c : Nat) (w : Warp) : Bool :=
  match w.park with
  | some (.cask d ws) =>
    decide (d = c) && (if ws.isEmpty then !x.recs.isEmpty else x.takes)
      && (match tget w.splits w.parkSplit with
          | some sp => decide (sp.park = .running)
          | none => false)
  | _ => false

/-- The first of the warps that can go on, in the order of parking (R30). -/
def firstOnCask (s : State) (c : Nat) : Option Nat :=
  ((s.warps.filter fun e => caskReady (caskAt s c) c e.2).foldl (fun (r : Option (Nat × Nat)) e =>
    match r with
    | none => some (e.2.parkOrder, e.1)
    | some x => if e.2.parkOrder < x.1 then some (e.2.parkOrder, e.1) else some x) none).map fun x => x.2

/-- The word completes: its split goes on, and issues nothing until its flag clears (R214). -/
def caskDone (s : State) (cx : Cx) (kd : OpKind) : State :=
  let s := updWarp s cx.k fun w => ({ w with park := none }).updSplit cx.j fun sp => sp.pass 0
  wakeCore (dropTime (addOp s cx (cxFlag cx true) (s.now + nextTime s) true .none kd)) (coreOfSlot cx.k)

/-- The warp is put among those that wait for the cask, with the record `ws` of a QPUSH or none for a QPOP, in its place in their
order (R30). -/
def waitOnCask (s : State) (cx : Cx) (c : Nat) (ws : List Word) : State :=
  let order := if cx.w.park = some (.cask c ws) then cx.w.parkOrder else s.nextId
  dropName (updWarp s cx.k fun w => { w with park := some (.cask c ws), parkSplit := cx.j, parkOrder := order })

/-- An error of a pusher on the spill ring: a replayable fault parks it, ENGINE 2, until the replay; another is taken at the
word (R214, R329). -/
def spillError (s : State) (cx : Cx) (c : Nat) (ws : List Word) : Bad → State
  | .faults fs =>
    let x := caskAt s c
    let y := putFaults s (fs.map (engineFault x.ten x.asid (eff s cx) 2 cx.warpWord .store))
    updWarp (waitOnCask y.1 cx c ws) cx.k fun w => w.noLatch.updSplit cx.j fun sp => { sp with park := .fault y.2 }
  | .trap cls i =>
    let npc := cx.sp.pc + 4
    takeTrap (updWarp s cx.k fun w => { w with park := none }) cx.k cx.j (mkTrap cls i (eff s cx)) cx.sp.pc npc (hdrFor cx.sp npc) false

/-- The split pushes its record (R213, R214). -/
def pushOne (s : State) (cx : Cx) (c : Nat) (ws : List Word) : State :=
  match pushCask s c ws with
  | .ok s => caskDone s cx .hold
  | .error e => spillError s cx c ws e

/-- A warp parked on a cask goes on: it pops its record or pushes it (R214). -/
def serveOne (s : State) (c : Nat) (cx : Cx) : State :=
  match cx.w.park with
  | some (.cask _ []) =>
    match popCask s c with
    | none => s
    | some (ws, s) => caskDone s cx (.write (recordOuts ws) (BitVec.allOnes 64))
  | some (.cask _ ws) => pushOne s cx c ws
  | _ => s

/-- Warps parked on cask `c` are served while one can go on (R29, R30, R258). -/
def serveCask (c : Nat) : Nat → State → State
  | 0, s => s
  | n + 1, s =>
    match firstOnCask s c with
    | none => s
    | some k =>
      match cxAt s k (((warpAt s k).map fun w => w.parkSplit).getD 0) with
      | none => s
      | some cx => serveCask c n (serveOne s c cx)

/-- As many servings as there can be. -/
def serveAll (s : State) (c : Nat) : State := serveCask c (2 * s.warps.length + 1) s

/-- The checks of QPUSH, QPOP and QTRY: CLAUSE, QUEUE, PROT, then a gated core is woken (R214, R258, R329). DESIGN CHOICE (entry 43):
at REDUCED a cask of a core that does not run yet (R16) takes part as any other. -/
def caskWord (i : Instr) (n : Nat) (release : Bool) (s : State) (f : Cx → Nat → State → Except Stop (State × Next)) :
    Host.Outcome State Fault Refusal :=
  runWord .scalar false i s fun cx _ s =>
    let v := readS s cx.w n
    let c := v.toNat
    if (cxFlag cx true).isNone then .error (wordTrap .clause i (eff s cx))
    else if !caskOn s c then .error (.trap (mkTrap .queue v (eff s cx)))
    else if !inCoreSet s cx.w.ten (c / 4) then .error (.trap (mkTrap .prot v (eff s cx)))
    else if release && !accessesDone cx.w then .error .wait
    else onceRuns s cx (c / 4) (f cx c)

/-- The warp waits for the cask and is served in its turn: at once when it can go on, else it parks (R29, R30, R35). -/
def parkOnCask (s : State) (cx : Cx) (c : Nat) (ws : List Word) : State :=
  updWarp (serveAll (waitOnCask s cx c ws) c) cx.k fun w => if w.park = some (.cask c ws) then w.noLatch else w

/-- QPUSH (R214, R331): S8 to S15 are read at issue. The pops of its cycle come after it, those of parked warps included. -/
def execQpush (x : BitVec 6) (imm : Half) (s : State) : Host.Outcome State Fault Refusal :=
  caskWord (.qpush x imm) x.toNat true s fun cx c s =>
    let ws := recordRegs s cx.w
    let s := markIssued s cx
    .ok (if (caskAt s c).takes then pushOne s cx c ws else parkOnCask s cx c ws, .done)

/-- QPOP (R214, R330). -/
def execQpop (x : BitVec 6) (imm : Half) (s : State) : Host.Outcome State Fault Refusal :=
  caskWord (.qpop x imm) x.toNat false s fun cx c s => .ok (parkOnCask (markIssued s cx) cx c [], .done)

/-- QTRY (R214, R332): warps parked on the cask are served before it. -/
def execQtry (x : BitVec 6) (imm : Half) (s : State) : Host.Outcome State Fault Refusal :=
  caskWord (.qtry x imm) x.toNat false s fun cx c s =>
    let s := serveAll s c
    let r := popCask s c
    let s1 := match r with
      | some p => p.2
      | none => s
    let free : Word := BitVec.ofNat 32 ((if r.isSome then 2 ^ 31 else 0) + (caskAt s1 c).room)
    let outs := match r with
      | some p => (recordOuts p.1).filter fun e => decide (e.1 ≠ .s (x.toNat + 1))
      | none => []
    let s2 := dropTime (addOp s1 cx (cxFlag cx true) (s.now + nextTime s1) true .none
      (.write (outs ++ [(.s (x.toNat + 1), .word free)]) (BitVec.allOnes 64)))
    .ok (serveAll s2 c, .seq)

/-- A refill of cask `c` is due: 24 or fewer on chip, and the spill ring not empty nor stopped (R213, R214). -/
def refillDue (x : Cask) : Bool := decide (x.recs.length ≤ 24) && decide (0 < x.spilled) && x.faults.isEmpty

/-- What a refill or release stopped by an error that is no replayable fault waits for: a REPLAY write that covers sequence 0
(entry 14). -/
def stoppedRef (x : Cask) : FaultRef := { ten := x.ten, seq := 0, cause := .malformed, asid := x.asid, va := x.spill, lanes := 0 }

/-- The places of the spill ring that a refill reads (R213). -/
def refillRanges (x : Cask) : List (DWord × Nat) := (List.range (min 8 x.spilled)).map fun i => (spillPlace x i, 32)

/-- The cores in whose slices those places lie. -/
def refillSlices (s : State) (cask : Nat) : List Nat :=
  touchSlices s (spillReq cask (caskAt s cask)) (loads (refillRanges (caskAt s cask)))

/-- CASK_REFILL: min(8, spilled) records move on chip in order; a fault stops the refill until the replay (R213, R214). It waits until the
cores in whose slices the spill ring lies run (R258). -/
def execCaskRefill (cask : Nat) (s : State) : Host.Outcome State Fault Refusal :=
  let x := caskAt s cask
  if !refillDue x then .next s
  else if asleep s (refillSlices s cask) then .next (wakeAll s (refillSlices s cask))
  else
    let n := min 8 x.spilled
    match readRanges (spillReq cask x .load) (refillRanges x) s with
    | .ok (bs, s) =>
      let rs := bs.map fun b => (List.range 8).map fun i => BitVec.ofNat 32 (field b (4 * i) 4)
      .next (serveAll (setCask s cask { x with recs := x.recs ++ rs, spilled := x.spilled - n, head := (x.head + n) % x.scap }) cask)
    | .error (.faults fs) =>
      let y := putFaults s (fs.map (engineFault x.ten x.asid 0 2 0 .load))
      .next (setCask y.1 cask { x with faults := y.2 })
    | .error _ => .next (setCask s cask { x with faults := [stoppedRef x] })

/-! Counters. -/

/-- Counter numbers (R215). -/
def counterCount : Nat := 256 * Config.cores

/-- The checks of DCSET, DCDEC and DCATT: QUEUE, PROT, then a gated core is woken (R215, R258, R277, R278, R280). DESIGN CHOICE
(entry 43): at REDUCED a counter of a core that does not run yet takes part as any other (R16). DESIGN CHOICE (entry 42): the open time
until the split's next instruction may issue (R387) is none. -/
def counterWord (i : Instr) (n : Nat) (release : Bool) (s : State) (f : Cx → Nat → State → Except Stop (State × Next)) :
    Host.Outcome State Fault Refusal :=
  runWord .scalar false i s fun cx _ s =>
    let v := readS s cx.w n
    if v.toNat ≥ counterCount then .error (.trap (mkTrap .queue v (eff s cx)))
    else if !inCoreSet s cx.w.ten (v.toNat / 256) then .error (.trap (mkTrap .prot v (eff s cx)))
    else if release && !accessesDone cx.w then .error .wait
    else onceRuns s cx (v.toNat / 256) (f cx v.toNat)

/-- DCSET (R215, R280). -/
def execDcset (x : BitVec 6) (imm : Half) (s : State) : Host.Outcome State Fault Refusal :=
  counterWord (.dcset x imm) x.toNat false s fun _ n s => .ok (setCounter s n { counterAt s n with value := imm }, .seq)

/-- DCATT (R215, R277). -/
def execDcatt (x : BitVec 6) (imm : Half) (s : State) : Host.Outcome State Fault Refusal :=
  counterWord (.dcatt x imm) x.toNat false s fun cx n s =>
    let v := readS s cx.w (x.toNat + 1)
    if !caskOn s v.toNat then .error (.trap (mkTrap .queue v (eff s cx)))
    else if !inCoreSet s cx.w.ten (v.toNat / 4) then .error (.trap (mkTrap .prot v (eff s cx)))
    else .ok (setCounter s n { counterAt s n with att := some (recordRegs s cx.w, v.toNat) }, .seq)

/-- Releases in the order of their cycle, then of their counter (R216). -/
def insertRelease (r : Release) : List Release → List Release
  | [] => [r]
  | x :: xs => if r.cycle = x.cycle ∧ r.counter < x.counter then r :: x :: xs else x :: insertRelease r xs

/-- DCDEC (R215, R216, R278): the record of an attachment at zero goes to the counter unit, from where it reaches its cask
in a later cycle. -/
def execDcdec (x : BitVec 6) (imm : Half) (s : State) : Host.Outcome State Fault Refusal :=
  counterWord (.dcdec x imm) x.toNat true s fun cx n s =>
    let y := counterAt s n
    if y.value = 0 then .error (.trap (mkTrap .counter (BitVec.ofNat 32 n) (eff s cx)))
    else
      match y.att with
      | some (ws, c) =>
        if y.value = 1 then
          let s := setCounter s n { value := 0, att := none }
          let co := coreAt s (n / 256)
          let r : Release := { words := ws, cask := c, counter := n, cycle := s.now, faults := [] }
          .ok (setCore s (n / 256) { co with releases := insertRelease r co.releases }, .seq)
        else .ok (setCounter s n { y with value := y.value - 1 }, .seq)
      | none => .ok (setCounter s n { y with value := y.value - 1 }, .seq)

/-- The first release of a core's counter unit can be pushed, or must wake its cask's core (R216, R258). -/
def releaseDue (s : State) (core : Nat) : Option Release :=
  match (coreAt s core).releases with
  | [] => none
  | r :: _ =>
    if decide (r.cycle < s.now) && r.faults.isEmpty && caskOn s r.cask && (caskAt s r.cask).takes then some r else none

/-- COUNTER_RELEASE_DEFERRED: the first release of the counter unit of core `core` reaches its cask once it has room and is
enabled; it is a wake message for the cask's core, up to whose commit cycle it aborts the gating (R216, R258, R277). -/
def execCounterReleaseDeferred (core : Nat) (s : State) : Host.Outcome State Fault Refusal :=
  match releaseDue s core with
  | none => .next s
  | some r =>
    let rest := (coreAt s core).releases.drop 1
    let s := wakeCore s (r.cask / 4)
    if !running s (r.cask / 4) then .next s
    else
      match pushCask s r.cask r.words with
      | .ok s => .next (serveAll (setCore s core { coreAt s core with releases := rest }) r.cask)
      | .error (.faults fs) =>
        let x := caskAt s r.cask
        let y := putFaults s (fs.map (engineFault x.ten x.asid 0 2 0 .store))
        .next (setCore y.1 core { coreAt y.1 core with releases := { r with faults := y.2 } :: rest })
      | .error _ => .next (setCore s core { coreAt s core with releases := { r with faults := [stoppedRef (caskAt s r.cask)] } :: rest })

/-- The cask, or the release, goes on when it waits for a record meeting `pr`. -/
def Cask.replayed (x : Cask) (pr : FaultRef → Bool) : Cask := if x.faults.any pr then { x with faults := [] } else x
def Release.replayed (r : Release) (pr : FaultRef → Bool) : Release := if r.faults.any pr then { r with faults := [] } else r

/-- Refills, releases and parked pushers that wait for a record meeting `pr` go on; the splits are made to run by the
replay itself (R141, R214). -/
def replayCasks (s : State) (pr : FaultRef → Bool) : State :=
  let cs := s.casks.map fun e => (e.1, e.2.replayed pr)
  let cores := s.cores.map fun e => (e.1, { e.2 with releases := e.2.releases.map fun r => r.replayed pr })
  (s.casks.map fun e => e.1).foldl serveAll { s with casks := cs, cores := cores }

end Sys2Proof.Machine
end

