-- ==== Sys2Proof/Machine/Real.lean ====
section
/-! DEFINITION. Correctly rounded real functions by integer bounds of rising precision, and the heading arithmetic
(R118, R126, R191 to R194, R222). -/

namespace Sys2Proof.Machine

/-- floor(sqrt n), from bit `i - 1` down. -/
def isqrtFrom (n : Nat) : Nat → Nat → Nat
  | 0, r => r
  | i + 1, r => isqrtFrom n i (if (r + 2 ^ i) * (r + 2 ^ i) ≤ n then r + 2 ^ i else r)

/-- floor(sqrt n). -/
def isqrt (n : Nat) : Nat := isqrtFrom n (Nat.log2 n / 2 + 1) 0

/-- An irrational value between lo × 2^e and hi × 2^e, both excluded, rounded when every value between rounds alike. -/
def roundOpen (f : Fmt) (m : FMode) (lo hi e : Int) : Option Nat :=
  if 0 ≤ lo ∨ hi ≤ 0 then
    let a := roundF f m.rm m.sat m.dnz (ofInt (2 * lo + 1) (e - 1) false)
    let b := roundF f m.rm m.sat m.dnz (ofInt (2 * hi - 1) (e - 1) false)
    if a = b then some a else none
  else none

/-- The first precision that decides the rounding, from `ps`; the last fallback is never needed. -/
def refine (f : Nat → Option Nat) : List Nat → Nat
  | [] => 0
  | p :: ps =>
    match f p with
    | some x => x
    | none => refine f ps

/-- The precisions tried: the last decides every sum of two headings whose norms are not further apart than `sumVec` keeps exact. -/
def precisions : List Nat := [96, 224, 480, 992, 2016, 4064, 8480]

/-- Σ 2^p ÷ ((2i + 1) k^(2i + 1)), from term `i` with 2^p ÷ k^(2i + 1) = `t`. -/
def atanhSum (k2 : Nat) : Nat → Nat → Nat → Nat
  | 0, _, _ => 0
  | n + 1, i, t => t / (2 * i + 1) + atanhSum k2 n (i + 1) (t / k2)

/-- ln 2 × 2^p, within [r, r + 2p + 8]. -/
def ln2Fix (p : Nat) : Nat := 2 * atanhSum 9 p 0 (2 ^ p / 3)

/-- Slack of `ln2Fix`. -/
def ln2Slack (p : Nat) : Nat := 2 * p + 8

/-- Σ z^i ÷ i! from term `t`. -/
def expSum (z p : Nat) : Nat → Nat → Nat → Nat
  | 0, _, _ => 0
  | n + 1, i, t => t + expSum z p n (i + 1) (t * z / (2 ^ p * (i + 1)))

/-- 2^y × 2^p for y = Y ÷ 2^p up to one unit above, 0 ≤ y < 1: bounds. -/
def exp2Frac (p y : Nat) : Nat × Nat :=
  let z := y * ln2Fix p / 2 ^ p
  let lo := expSum z p p 0 (2 ^ p)
  (lo, lo + 2 * p + 3 * (ln2Slack p + 3) + 4)

/-- Σ w^(2i + 1) ÷ (2i + 1) from term `t`. -/
def atanhSeries (w2 p : Nat) : Nat → Nat → Nat → Nat
  | 0, _, _ => 0
  | n + 1, i, t => t / (2 * i + 1) + atanhSeries w2 p n (i + 1) (t * w2 / 2 ^ p)

/-- log2 of num ÷ den in [1, 2), × 2^p: bounds. -/
def log2Frac (p num den : Nat) : Nat × Nat :=
  let w := 2 ^ p * (num - den) / (num + den)
  let lo := 2 * atanhSeries (w * w / 2 ^ p) p p 0 w
  let hi := lo + 4 * p + 16
  (lo * 2 ^ p / (ln2Fix p + ln2Slack p), hi * 2 ^ p / ln2Fix p + 1)

/-- log2 of a positive integer × 2^p: bounds; exact powers of two are handled before. -/
def log2Nat (p m : Nat) : Int × Int :=
  let e := Nat.log2 m
  let r := log2Frac p m (2 ^ e)
  ((e : Int) * 2 ^ p + r.1, (e : Int) * 2 ^ p + r.2 + 1)

/-- Σ (−1)^i 2^p ÷ ((2i + 1) k^(2i + 1)) (Machin). -/
def atanSum (k2 : Nat) : Nat → Nat → Nat → Int
  | 0, _, _ => 0
  | n + 1, i, t => (if i % 2 = 0 then ((t / (2 * i + 1) : Nat) : Int) else -((t / (2 * i + 1) : Nat) : Int)) + atanSum k2 n (i + 1) (t / k2)

/-- π × 2^p, within 20p + 40 of the true value. -/
def piFix (p : Nat) : Nat := (16 * atanSum 25 p 0 (2 ^ p / 5) - 4 * atanSum 57121 p 0 (2 ^ p / 239)).toNat

/-- Alternating series of sine (from term a) or cosine (from term 1): t × a² ÷ ((i + 1)(i + 2)). -/
def trigSum (a2 p : Nat) : Nat → Nat → Nat → Int
  | 0, _, _ => 0
  | n + 1, i, t => (t : Int) - trigSum a2 p n (i + 2) (t * a2 / (2 ^ p * ((i + 1) * (i + 2))))

/-- sin(π u ÷ 2^k) × 2^p for 0 < u ÷ 2^k < 1/2, u over 2^k exact: bounds. -/
def sinPi (p u k : Nat) : Int × Int :=
  let slack : Int := 24 * p + 80
  if 4 * u ≤ 2 ^ k then
    let a := u * piFix p / 2 ^ k
    let v := trigSum (a * a / 2 ^ p) p p 1 a
    (v - slack, v + slack)
  else
    let a := (2 ^ k - 2 * u) * piFix p / 2 ^ (k + 1)
    let v := trigSum (a * a / 2 ^ p) p p 0 (2 ^ p)
    (v - slack, v + slack)

/-- The function of an SFU instruction (R118). -/
inductive SfuOp where
  | rcp | rsq | sqrt | ex2 | lg2 | sin | cos | tnh
deriving DecidableEq, Repr

/-- The exact result of 1/x, 1/√x or √x, or one with a sticky lowest bit far below the rounding position. -/
def algebraic (op : SfuOp) (neg : Bool) (m : Nat) (e : Int) : FVal :=
  match op with
  | .rcp =>
    let q := 2 ^ 160 / m
    .fin neg (2 * q + (if q * m = 2 ^ 160 then 0 else 1)) (-e - 161)
  | .sqrt =>
    let odd := decide (e % 2 ≠ 0)
    let n := (if odd then 2 * m else m) * 2 ^ 128
    let g := if odd then e - 1 else e
    let q := isqrt n
    .fin false (2 * q + (if q * q = n then 0 else 1)) (g / 2 - 65)
  | _ =>
    let odd := decide (e % 2 ≠ 0)
    let n := if odd then 2 * m else m
    let g := if odd then e - 1 else e
    let q := isqrt (2 ^ 240 / n)
    .fin false (2 * q + (if q * q * n = 2 ^ 240 then 0 else 1)) (-(g / 2) - 121)

/-- 2^x for finite nonzero x. -/
def exp2Round (f : Fmt) (md : FMode) (neg : Bool) (m : Nat) (e : Int) : Nat :=
  let big := decide (floorLog m e ≥ 12)
  if big then roundF f md.rm md.sat md.dnz (.fin false 3 (if neg then -4000 else 4000))
  else
    -- x = n + y, 0 ≤ y < 1, over 2^k
    let k := (-e).toNat
    let x : Int := if neg then -((m * 2 ^ e.toNat : Nat) : Int) else ((m * 2 ^ e.toNat : Nat) : Int)
    let n := x / (2 ^ k : Nat)
    let y := (x % (2 ^ k : Nat)).toNat
    if y = 0 then roundF f md.rm md.sat md.dnz (.fin false 1 n)
    else refine (fun p =>
      let r := exp2Frac p (y * 2 ^ p / 2 ^ k)
      let lo := if r.1 < 2 ^ p then 2 ^ p else r.1
      let hi := if 2 ^ (p + 1) < r.2 then 2 ^ (p + 1) else r.2
      roundOpen f md lo hi (n - p)) precisions

/-- log2 x for finite positive x. -/
def log2Round (f : Fmt) (md : FMode) (m : Nat) (e : Int) : Nat :=
  let l := Nat.log2 m
  if m = 2 ^ l then roundF f md.rm md.sat md.dnz (ofInt (l + e) 0 false)
  else refine (fun p =>
    let r := log2Nat p m
    roundOpen f md (e * 2 ^ p + r.1) (e * 2 ^ p + r.2) (-(p : Int))) precisions

/-- sin πx for x = u ÷ 2^k, 0 ≤ x < 2, by halves; zeros as +0. -/
def sinRound (f : Fmt) (md : FMode) (u k : Nat) : Nat :=
  let neg := decide (2 ^ k ≤ u)
  let u := u % 2 ^ k
  if u = 0 then 0
  else if 2 * u = 2 ^ k then roundF f md.rm md.sat md.dnz (.fin neg 1 0)
  else
    let v := if 2 * u > 2 ^ k then 2 ^ k - u else u
    refine (fun p =>
      let r := sinPi p v k
      if neg then roundOpen f md (-r.2) (-r.1) (-(p : Int)) else roundOpen f md r.1 r.2 (-(p : Int))) precisions

/-- tanh x for finite nonzero x of magnitude m × 2^e. -/
def tanhRound (f : Fmt) (md : FMode) (neg : Bool) (m : Nat) (e : Int) : Nat :=
  let sgn (lo hi q : Int) := if neg then roundOpen f md (-hi) (-lo) q else roundOpen f md lo hi q
  if floorLog m e ≥ 6 then (sgn (2 ^ 180 - 1) (2 ^ 180) (-180)).getD 0
  else if floorLog m e < -40 then
    let x : Int := (m : Int) * 2 ^ (2 - 2 * e).toNat
    let c : Int := ((4 * m * m * m / 3 : Nat) : Int)
    (sgn (x - c - 1) (x - c + 1) (3 * e - 2)).getD 0
  else refine (fun p =>
    -- e^(2x) = 2^y with y = 2x ÷ ln 2
    let num := m * 2 ^ (e + 1).toNat * 2 ^ (2 * p)
    let y := num / (2 ^ (-(e + 1)).toNat * (ln2Fix p + ln2Slack p))
    let yh := num / (2 ^ (-(e + 1)).toNat * ln2Fix p) + 1
    let n := y / 2 ^ p
    let lo := (exp2Frac p (y % 2 ^ p)).1
    let hi := (exp2Frac p (y % 2 ^ p)).2 + 4 * (yh - y)
    let a := lo * 2 ^ n
    let b := hi * 2 ^ n
    sgn (((a - 2 ^ p) * 2 ^ p / (a + 2 ^ p) : Nat) : Int) (((b - 2 ^ p) * 2 ^ p / (b + 2 ^ p) + 1 : Nat) : Int) (-(p : Int))) precisions

/-- An SFU result on an F32 code (R115, R118). -/
def sfuWord (op : SfuOp) (md : FMode) (x : Nat) : Nat :=
  let f := fF32
  let r := fun v => roundF f md.rm md.sat md.dnz v
  match readF f md.dnz x with
  | .nan => f.nanCode
  | .inf neg =>
    match op with
    | .rcp => f.signed neg 0
    | .rsq => if neg then f.nanCode else 0
    | .sqrt => if neg then f.nanCode else f.infCode
    | .ex2 => if neg then 0 else f.infCode
    | .lg2 => if neg then f.nanCode else f.infCode
    | .sin => f.nanCode
    | .cos => f.nanCode
    | .tnh => r (.fin neg 1 0)
  | .fin neg m e =>
    if m = 0 then
      match op with
      | .rcp => f.signed neg f.infCode
      | .rsq => f.signed neg f.infCode
      | .sqrt => f.signed neg 0
      | .ex2 => r (.fin false 1 0)
      | .lg2 => f.signed true f.infCode
      | .sin => f.signed neg 0
      | .cos => r (.fin false 1 0)
      | .tnh => f.signed neg 0
    else
      match op with
      | .rcp => r (algebraic .rcp neg m e)
      | .rsq => if neg then f.nanCode else r (algebraic .rsq neg m e)
      | .sqrt => if neg then f.nanCode else r (algebraic .sqrt neg m e)
      | .ex2 => exp2Round f md neg m e
      | .lg2 => if neg then f.nanCode else log2Round f md m e
      | .tnh => tanhRound f md neg m e
      | .sin =>
        let k := (-e).toNat
        let u := m * 2 ^ e.toNat
        if u % 2 ^ k = 0 then f.signed neg 0
        else
          let v := u % 2 ^ (k + 1)
          sinRound f md (if neg then 2 ^ (k + 1) - v else v) k
      | .cos =>
        let k := (-e).toNat + 1
        sinRound f md ((2 * m * 2 ^ e.toNat + 2 ^ (k - 1)) % 2 ^ (k + 1)) k

/-! Headings: exact vectors u_i = (p_i + q_i t) × 2^a with t = 2^δ, δ ≤ 0 (R126, R191). -/

/-- A dyadic number mant × 2^exp. -/
structure Dyadic where
  mant : Int
  exp : Int
deriving DecidableEq, Repr

/-- The sum of two dyadic numbers. -/
def Dyadic.add (x y : Dyadic) : Dyadic :=
  let q := min x.exp y.exp
  { mant := x.mant * 2 ^ (x.exp - q).toNat + y.mant * 2 ^ (y.exp - q).toNat, exp := q }

/-- The negation. -/
def Dyadic.neg (x : Dyadic) : Dyadic := { x with mant := -x.mant }

/-- floor of a dyadic number, and its fraction as numerator over 2^k. -/
def Dyadic.split (x : Dyadic) : Int × Nat × Nat :=
  if 0 ≤ x.exp then (x.mant * 2 ^ x.exp.toNat, 0, 0)
  else
    let k := (-x.exp).toNat
    (x.mant / (2 ^ k : Nat), (x.mant % (2 ^ k : Nat)).toNat, k)

/-- A vector of a heading sum: `t` is 2^(−K + f), f = fn ÷ 2^fk; `far` says that K is beyond every precision. -/
structure HVec where
  ps : List Int
  qs : List Int
  a : Dyadic
  K : Nat
  fn : Nat
  fk : Nat
  far : Bool
deriving DecidableEq, Repr

/-- A rational vector × 2^a. -/
def HVec.rational (ps : List Int) (a : Dyadic) : HVec :=
  { ps := ps, qs := ps.map fun _ => 0, a := a, K := 0, fn := 0, fk := 0, far := false }

/-- The sign of an integer. -/
def sgn (x : Int) : Int := if x < 0 then -1 else if x = 0 then 0 else 1

/-- Bounds of τ = 2^f × 2^p, for f > 0. -/
def HVec.tau (v : HVec) (p : Nat) : Nat × Nat := exp2Frac p (v.fn * 2 ^ p / 2 ^ v.fk)

/-- Lower and upper bounds of c × [lo, hi]. -/
def mulBounds (c : Int) (lo hi : Nat) : Int × Int :=
  if 0 ≤ c then (c * lo, c * hi) else (c * hi, c * lo)

/-- Bounds of (α 4^K + β 2^K τ + γ τ²) × 2^(2p). -/
def HVec.polyBounds (v : HVec) (p : Nat) (al be ga : Int) : Int × Int :=
  let t := v.tau p
  let x := al * 4 ^ v.K * 2 ^ (2 * p)
  let y := mulBounds (be * 2 ^ (v.K + p)) t.1 t.2
  let z := mulBounds ga (t.1 * t.1) (t.2 * t.2)
  (x + y.1 + z.1, x + y.2 + z.2)

/-- The sign decided by bounds of rising precision. -/
def HVec.polyRefine (v : HVec) (al be ga : Int) : List Nat → Int
  | [] => 0
  | p :: ps =>
    let b := v.polyBounds p al be ga
    if 0 < b.1 then 1 else if b.2 < 0 then -1 else v.polyRefine al be ga ps

/-- The exact sign of α + β t + γ t². -/
def HVec.polySign (v : HVec) (al be ga : Int) : Int :=
  if v.far then (if al ≠ 0 then sgn al else if be ≠ 0 then sgn be else sgn ga)
  else if v.fn = 0 then sgn (al * 4 ^ v.K + be * 2 ^ v.K + ga)
  else if 2 * v.fn = 2 ^ v.fk then
    -- τ = √2: sign of x + y √2
    let x := al * 4 ^ v.K + 2 * ga
    let y := be * 2 ^ v.K
    if sgn x = sgn y then sgn x
    else if y = 0 then sgn x
    else if x = 0 then sgn y
    else if x * x > 2 * y * y then sgn x else sgn y
  else if al = 0 ∧ be = 0 ∧ ga = 0 then 0
  else v.polyRefine al be ga precisions

/-- The sign of component (p, q). -/
def HVec.compSign (v : HVec) (p q : Int) : Int := v.polySign p q 0

/-- Σ p², 2 Σ p q and Σ q². -/
def HVec.sums (v : HVec) : Int × Int × Int :=
  ((v.ps.map fun x => x * x).sum, 2 * (v.ps.zip v.qs |>.map fun x => x.1 * x.2).sum, (v.qs.map fun x => x * x).sum)

/-- The largest h with h ≤ 2^15 |u| ÷ n, by bits: h² Σ ≤ 2^30 u². -/
def HVec.halfCode (v : HVec) (s : Int × Int × Int) (p q : Int) : Nat → Nat → Nat
  | 0, h => h
  | i + 1, h =>
    let g : Int := ((h + 2 ^ i) * (h + 2 ^ i) : Nat)
    let ok := decide (0 ≤ v.polySign (2 ^ 30 * p * p - g * s.1) (2 ^ 31 * p * q - g * s.2.1) (2 ^ 30 * q * q - g * s.2.2))
    v.halfCode s p q i (if ok then h + 2 ^ i else h)

/-- RoundNE(u ÷ n, Q1.14) (R126). -/
def HVec.code (v : HVec) (s : Int × Int × Int) (p q : Int) : Half :=
  let h := v.halfCode s p q 16 0
  let g : Int := ((h * h : Nat) : Int)
  let exact := decide (v.polySign (2 ^ 30 * p * p - g * s.1) (2 ^ 31 * p * q - g * s.2.1) (2 ^ 30 * q * q - g * s.2.2) = 0)
  let k := h / 2
  let r := if h % 2 = 0 then k else if exact && decide (k % 2 = 0) then k else k + 1
  if v.compSign p q < 0 then BitVec.ofInt 16 (-(r : Int)) else BitVec.ofNat 16 r

/-- RNE, no saturation, subnormals kept: the mode of engines (R112). -/
def engineMode : FMode := { rm := .rne, sat := false, dnz := false }

/-- a + (b ÷ 2) rounded to F32 where b lies strictly between lo and hi, over 2^p. -/
def roundHalfSum (a : Dyadic) (lo hi : Int) (p : Nat) : Option Nat :=
  let q := min a.exp (-(p : Int) - 1)
  let x := a.mant * 2 ^ (a.exp - q).toNat
  let sc : Int := 2 ^ (-(p : Int) - 1 - q).toNat
  roundOpen fF32 engineMode (x + lo * sc) (x + hi * sc) q

/-- RoundNE(a + ½ log2 m, F32) for a positive integer m (R126). -/
def logNormNat (a : Dyadic) (m : Nat) : Nat :=
  let l := Nat.log2 m
  if m = 2 ^ l then
    let s := a.add { mant := l, exp := -1 }
    roundNE fF32 (ofInt s.mant s.exp false)
  else refine (fun p =>
    let r := log2Nat p m
    roundHalfSum a r.1 r.2 p) precisions

/-- RoundNE(log2 n, F32) of a vector that is not zero (R126). -/
def HVec.norm (v : HVec) (s : Int × Int × Int) : Nat :=
  let aK := v.a.add { mant := -(v.K : Int), exp := 0 }
  if v.far then
    let l := Nat.log2 s.1.toNat
    if s.1 = 2 ^ l then
      -- an exact centre moved by less than any precision, toward the sign of the rest
      let c := v.a.add { mant := l, exp := -1 }
      let d := if s.2.1 ≠ 0 then sgn s.2.1 else sgn s.2.2
      let x := c.mant * 2 ^ 400
      if d < 0 then (roundOpen fF32 engineMode (x - 1) x (c.exp - 400)).getD 0
      else if d = 0 then roundNE fF32 (ofInt c.mant c.exp false)
      else (roundOpen fF32 engineMode x (x + 1) (c.exp - 400)).getD 0
    else refine (fun p =>
      let r := log2Nat p s.1.toNat
      roundHalfSum v.a (r.1 - 1) (r.2 + 1) p) precisions
  else if v.fn = 0 then logNormNat aK (s.1 * 4 ^ v.K + s.2.1 * 2 ^ v.K + s.2.2).toNat
  else if 2 * v.fn = 2 ^ v.fk ∧ s.2.1 = 0 then logNormNat aK (s.1 * 4 ^ v.K + 2 * s.2.2).toNat
  else refine (fun p =>
    let b := v.polyBounds (p + 64) s.1 s.2.1 s.2.2
    if b.1 ≤ 1 then none
    else
      let lo := log2Nat p b.1.toNat
      let hi := log2Nat p (b.2.toNat + 1)
      let sh : Int := (2 * (p + 64) : Nat) * 2 ^ p
      roundHalfSum aK (lo.1 - sh - 1) (hi.2 - sh + 1) p) precisions

/-- 2W zero codes. -/
def zeroCodes : List Half := List.replicate 128 0

/-- Renorm of a finite vector (R126): the codes and the norm, or the zero code. -/
def renorm (v : HVec) : HeadClass × List Half × Word :=
  let s := v.sums
  if (v.ps.zip v.qs).all fun e => decide (v.compSign e.1 e.2 = 0) then (.zero, zeroCodes, 0xFF800000)
  else (.normal, (v.ps.zip v.qs).map fun e => v.code s e.1 e.2, BitVec.ofNat 32 (v.norm s))

/-- The NaN code (R126). -/
def nanHeading : HeadClass × List Half × Word := (.nan, zeroCodes, 0x7FC00000)

/-- The zero code (R126). -/
def zeroHeading : HeadClass × List Half × Word := (.zero, zeroCodes, 0xFF800000)

/-- A norm-file entry as a dyadic number; 0 unless finite. -/
def normDyadic (w : Word) : Dyadic :=
  match decodeF fF32 w.toNat with
  | .fin neg m e => { mant := if neg then -(m : Int) else m, exp := e }
  | _ => { mant := 0, exp := 0 }

/-- The sum of codes × 2^x and ±codes × 2^y (R293). -/
def sumVec (cs ds : List Int) (x y : Dyadic) : HVec :=
  if cs.all (fun c => decide (c = 0)) then HVec.rational ds y
  else if ds.all (fun c => decide (c = 0)) then HVec.rational cs x
  else
    let d := y.add x.neg
    let swap := decide (0 < d.mant)
    let del := if swap then d else d.neg
    -- −del = −K + f
    let big := decide (0 ≤ del.exp) && decide (13 ≤ del.exp) && decide (del.mant ≠ 0)
    let sp := if big then (0, 0, 0) else del.split
    let K := (if sp.2.1 = 0 then sp.1 else sp.1 + 1).toNat
    let fn := if sp.2.1 = 0 then 0 else 2 ^ sp.2.2 - sp.2.1
    let far := big || decide (K > 4096)
    { ps := if swap then ds else cs, qs := if swap then cs else ds, a := if swap then y else x,
      K := if far then 0 else K, fn := if far then 0 else fn, fk := if far then 0 else sp.2.2, far := far }

/-- c × 2^(x) rounded to F32, for an integer c and a dyadic x (R297, R298). -/
def scaleRound (c : Int) (x : Dyadic) : Nat :=
  if c = 0 then 0
  else
    let far := decide (13 ≤ x.exp) && decide (x.mant ≠ 0)
    let sp := if far then ((if x.mant < 0 then -100000 else 100000 : Int), 0, 0) else x.split
    let n := if sp.1 < -5000 then -5000 else if sp.1 > 5000 then 5000 else sp.1
    if sp.2.1 = 0 ∨ n ≠ sp.1 then roundNE fF32 (ofInt c n false)
    else refine (fun p =>
      let r := exp2Frac p (sp.2.1 * 2 ^ p / 2 ^ sp.2.2)
      let b := mulBounds c r.1 r.2
      roundOpen fF32 engineMode b.1 b.2 (n - p)) precisions

end Sys2Proof.Machine
end

