-- ==== Sys2Proof/Machine/Headings.lean ====
section
/-! DEFINITION. The heading instructions and their commits (R190 to R197, R292 to R303, R342). -/

namespace Sys2Proof.Machine

/-- A heading as read: both parts at the instruction's issue (R196, R292). -/
structure Heading where
  cls : HeadClass
  codes : List Int
  norm : Word
deriving DecidableEq, Repr

/-- Heading `n` of a warp. -/
def readH (w : Warp) (n : Nat) : Heading :=
  let d := w.dirs.getD n { cls := .zero, codes := [] }
  { cls := d.cls, codes := d.codes.map fun c => c.toInt, norm := w.norms.getD n 0 }

/-- The value of a heading as read: NaN, the zero vector, or codes × 2^x (R191, R292). -/
inductive HVal where
  | nan
  | zero
  | val (codes : List Int) (x : Dyadic)
deriving DecidableEq, Repr

/-- HVal of the parts as read (R191, R292); codes count in units of 2^−14. -/
def Heading.val (h : Heading) : HVal :=
  match decodeF fF32 h.norm.toNat with
  | .nan => .nan
  | .inf true => if h.cls = .nan then .nan else .zero
  | .inf false => .nan
  | .fin _ _ _ =>
    match h.cls with
    | .nan => .nan
    | .zero => .zero
    | .normal => .val h.codes ((normDyadic h.norm).add { mant := -14, exp := 0 })

/-- A heading as written: class, codes and norm (R126). -/
abbrev HOut := HeadClass × List Half × Word

/-- Both parts of a heading are written: the direction at 8 cycles, the norm at 16 (R196). -/
def emitHeading (s : State) (k j n : Nat) (h : HOut) (stalls : Nat) : State :=
  emit (emit s k j (.dir n) (.dir { cls := h.1, codes := h.2.1 }) (BitVec.allOnes 64) (8 + stalls)) k j (.norm n) (.word h.2.2)
    (BitVec.allOnes 64) (16 + stalls)

/-- A heading word that writes a heading: `f` gives the result from the rows read, of the vector operands `srcs`, which begin at position
`lead` (R35, R192, R193). -/
def headingWord (i : Instr) (lead : Nat) (srcs : List (BitVec 7)) (d : BitVec 7) (s : State) (f : State → Cx → VIn → HOut) :
    Host.Outcome State Fault Refusal :=
  runWord (.vector true) false i s fun cx ls s =>
    match readOperands i cx ls { VSpec.simple d srcs with dst := none, both := true, port := some .heading, lead := lead } s with
    | .error t => .error t
    | .ok x => .ok (emitHeading x.s cx.k cx.j d.toNat (f s cx x) x.stalls, .seq)

/-- Finite float values as integers over one power of two; none when one is infinite or NaN (R126). -/
def commonScale (xs : List FVal) : Option (List Int × Int) :=
  if xs.all fun x => match x with
      | .fin _ _ _ => true
      | _ => false then
    let q := xs.foldl (fun q x => match x with
      | .fin _ m e => if m = 0 then q else min q e
      | _ => q) 200
    some (xs.map fun x => match x with
      | .fin n m e => if m = 0 then 0 else (if n then -1 else 1) * (m : Int) * 2 ^ (e - q).toNat
      | _ => 0, q)
  else none

/-- Renorm of a vector of float values (R126). -/
def renormFloats (xs : List FVal) : HOut :=
  match commonScale xs with
  | none => nanHeading
  | some (ps, q) => renorm (HVec.rational ps { mant := q, exp := 0 })

/-- HCVT: components 2l and 2l + 1 from a and b, 0 outside the mask (R294). -/
def execHcvt (d a b : BitVec 7) (s : State) : Host.Outcome State Fault Refusal :=
  headingWord (.hcvt d a b) 0 [a, b] d s fun s cx x =>
    renormFloats ((List.range 64).flatMap fun l =>
      if (eff s cx).getLsbD l then [decodeF fF32 (lane (x.row 0) l).toNat, decodeF fF32 (lane (x.row 1) l).toNat]
      else [.fin false 0 0, .fin false 0 0])

/-- HCVTB: components from the halves of a (R295). -/
def execHcvtb (d a b : BitVec 7) (s : State) : Host.Outcome State Fault Refusal :=
  headingWord (.hcvtb d a b) 0 [a] d s fun s cx x =>
    renormFloats ((List.range 64).flatMap fun l =>
      if (eff s cx).getLsbD l then
        [decodeF fBF16 ((lane (x.row 0) l).toNat % 2 ^ 16), decodeF fBF16 ((lane (x.row 0) l).toNat / 2 ^ 16)]
      else [.fin false 0 0, .fin false 0 0])

/-- Renorm of a sum of heading values (R293). -/
def addHeadings (x y : HVal) : HOut :=
  match x, y with
  | .nan, _ => nanHeading
  | _, .nan => nanHeading
  | .zero, .zero => zeroHeading
  | .zero, .val c e => renorm (HVec.rational c e)
  | .val c e, .zero => renorm (HVec.rational c e)
  | .val c e, .val c' e' => renorm (sumVec c c' e e')

/-- The negated value of a heading. -/
def negHeading : HVal → HVal
  | .val c e => .val (c.map fun x => -x) e
  | v => v

/-- HADD (R293). -/
def execHadd (d a b : BitVec 7) (s : State) : Host.Outcome State Fault Refusal :=
  headingWord (.hadd d a b) 0 [] d s fun _ cx _ => addHeadings (readH cx.w a.toNat).val (readH cx.w b.toNat).val

/-- HSUB (R303). -/
def execHsub (d a b : BitVec 7) (s : State) : Host.Outcome State Fault Refusal :=
  headingWord (.hsub d a b) 0 [] d s fun _ cx _ => addHeadings (readH cx.w a.toNat).val (negHeading (readH cx.w b.toNat).val)

/-- A code negated: −32,768 gives +32,767 (R299). -/
def negCode (c : Int) : Half := if c = -32768 then 32767 else BitVec.ofInt 16 (-c)

/-- HNEG (R299). -/
def execHneg (d a b : BitVec 7) (s : State) : Host.Outcome State Fault Refusal :=
  headingWord (.hneg d a b) 0 [] d s fun _ cx _ =>
    let h := readH cx.w a.toNat
    (h.cls, h.codes.map negCode, h.norm)

/-- HSCL: one addition to the norm (R301). -/
def execHscl (d a b : BitVec 7) (s : State) : Host.Outcome State Fault Refusal :=
  headingWord (.hscl d a b) 0 [] d s fun s cx _ =>
    let h := readH cx.w a.toNat
    let n := roundNE fF32 (addF .rne (decodeF fF32 h.norm.toNat) (decodeF fF32 (readS s cx.w b.toNat).toNat))
    match decodeF fF32 n with
    | .nan => nanHeading
    | .inf false => nanHeading
    | .inf true => zeroHeading
    | .fin _ _ _ => (h.cls, h.codes.map fun c => BitVec.ofInt 16 c, BitVec.ofNat 32 n)

/-- The rotated components of one lane: HVal × (cs, sn), the factors as integers over 2^q (R300). -/
def rotatePair (x y cs sn : Int) : List Int := [x * cs - y * sn, x * sn + y * cs]

/-- HROT: every lane's pair is rotated; lanes outside the mask use cs = 1, sn = 0; the vector operand is in position b (R193, R300). -/
def execHrot (d a b : BitVec 7) (s : State) : Host.Outcome State Fault Refusal :=
  headingWord (.hrot d a b) 1 [b] d s fun s cx x =>
    let fs := (List.range 64).flatMap fun l =>
      if (eff s cx).getLsbD l then
        [decodeF fBF16 ((lane (x.row 0) l).toNat % 2 ^ 16), decodeF fBF16 ((lane (x.row 0) l).toNat / 2 ^ 16)]
      else [FVal.fin false 1 0, FVal.fin false 0 0]
    match commonScale fs with
    | none => nanHeading
    | some (ps, q) =>
      match (readH cx.w a.toNat).val with
      | .nan => nanHeading
      | .zero => zeroHeading
      | .val c e =>
        renorm (HVec.rational ((List.range 64).flatMap fun l =>
          rotatePair (c.getD (2 * l) 0) (c.getD (2 * l + 1) 0) (ps.getD (2 * l) 0) (ps.getD (2 * l + 1) 0))
          (e.add { mant := q, exp := 0 }))

/-- Component `n` of a heading value, rounded to F32 (R298). -/
def componentF (v : HVal) (n : Nat) : Word :=
  match v with
  | .nan => 0x7FC00000
  | .zero => 0
  | .val c e => BitVec.ofNat 32 (scaleRound (c.getD n 0) e)

/-- HEXP: the two rows of components, visible after 8 cycles (R298). -/
def execHexp (d a b : BitVec 7) (s : State) : Host.Outcome State Fault Refusal :=
  runWord (.vector true) false (.hexp d a b) s fun cx ls s =>
    match readOperands (.hexp d a b) cx ls
        { VSpec.simple d [] with dst := none, more := [d.toNat, d.toNat + 1], both := true, port := some .heading } s with
    | .error t => .error t
    | .ok x =>
      let v := (readH cx.w a.toNat).val
      let s1 := emit x.s cx.k cx.j (.v d.toNat) (.row (rowOf fun l => componentF v (2 * l))) (eff s cx) (8 + x.stalls)
      .ok (emit s1 cx.k cx.j (.v (d.toNat + 1)) (.row (rowOf fun l => componentF v (2 * l + 1))) (eff s cx) (8 + x.stalls), .seq)

/-- A heading word with one vector result, the same in every active lane, visible after 8 cycles (R196). -/
def headingDot (i : Instr) (d : BitVec 7) (s : State) (f : Cx → Word) : Host.Outcome State Fault Refusal :=
  runWord (.vector true) false i s fun cx ls s =>
    match readOperands i cx ls { VSpec.simple d [] with both := true, port := some .heading } s with
    | .error t => .error t
    | .ok x => .ok (emit x.s cx.k cx.j x.dest (.row (List.replicate 64 (f cx))) (eff s cx) (8 + x.stalls), .seq)

/-- Σ of the products of two lists of codes. -/
def dotCodes (c c' : List Int) : Int := ((c.zip c').map fun e => e.1 * e.2).sum

/-- min(1.0, max(−1.0, RoundNE(x × 2^−28, F32))) (R296). -/
def cosineF (x : Int) : Word :=
  if x ≥ 2 ^ 28 then 0x3F800000 else if x ≤ -(2 ^ 28) then 0xBF800000
  else BitVec.ofNat 32 (roundNE fF32 (ofInt x (-28) false))

/-- HDOT: from the direction parts alone (R296). -/
def execHdot (d a b : BitVec 7) (s : State) : Host.Outcome State Fault Refusal :=
  headingDot (.hdot d a b) d s fun cx =>
    let x := readH cx.w a.toNat
    let y := readH cx.w b.toNat
    if x.cls = .nan ∨ y.cls = .nan then 0x7FC00000 else cosineF (dotCodes x.codes y.codes)

/-- HDOTN: the full dot product with one rounding (R297). -/
def execHdotn (d a b : BitVec 7) (s : State) : Host.Outcome State Fault Refusal :=
  headingDot (.hdotn d a b) d s fun cx =>
    match (readH cx.w a.toNat).val, (readH cx.w b.toNat).val with
    | .nan, _ => 0x7FC00000
    | _, .nan => 0x7FC00000
    | .val c e, .val c' e' => BitVec.ofNat 32 (scaleRound (dotCodes c c') (e.add e'))
    | _, _ => 0

/-- SHLN: the norm part as committed at issue (R342). -/
def execShln (x : BitVec 6) (imm : Half) (s : State) : Host.Outcome State Fault Refusal :=
  runWord .scalar false (.shln x imm) s fun cx _ s =>
    .ok (emit s cx.k cx.j (.s x.toNat) (.word (cx.w.norms.getD imm.toNat 0)) (eff s cx) 2, .seq)

/-- HSETN (R302). -/
def execHsetn (x : BitVec 6) (imm : Half) (s : State) : Host.Outcome State Fault Refusal :=
  runWord .scalar false (.hsetn x imm) s fun cx _ s =>
    let h := readH cx.w imm.toNat
    let v := readS s cx.w x.toNat
    let zero := h.codes.all fun c => decide (c = 0)
    .ok (match decodeF fF32 v.toNat with
      | .nan => emitHeading s cx.k cx.j imm.toNat nanHeading 0
      | .inf false => emitHeading s cx.k cx.j imm.toNat nanHeading 0
      | .inf true => emitHeading s cx.k cx.j imm.toNat zeroHeading 0
      | .fin _ _ _ =>
        if zero then emitHeading s cx.k cx.j imm.toNat zeroHeading 0
        else emit s cx.k cx.j (.norm imm.toNat) (.word v) (BitVec.allOnes 64) 16, .seq)

/-! Commits of short-latency results (R51, R196). -/

/-- The result is a part of a heading. -/
def Dest.heading : Dest → Bool
  | .dir _ => true
  | .norm _ => true
  | _ => false

/-- The results still to come after `p` has: an earlier-issued write to the same destination that would complete later is
discarded (R51). -/
def supersede (ps : List PendWrite) (p : PendWrite) : List PendWrite :=
  ps.filter fun q => decide (q.seq ≠ p.seq) && !(decide (q.dest = p.dest) && decide (q.seq < p.seq))

/-- A short-latency result becomes visible (R51, R99). A new ST may end an exclusive group (R86). -/
def writeback (s : State) (k : Nat) (p : PendWrite) : State :=
  let s := updWarp s k fun w => { w with pend := supersede w.pend p }
  let s := commit s k p.dest p.payload p.lanes
  match p.dest with
  | .brew sl => if p.present then setPresence s (coreOfSlot k) sl else s
  | .s n => if n = 61 then afterWord s k else s
  | _ => s

/-- The pending result `seq` of a slot, once its cycle has come. -/
def pendAt (s : State) (slot seq : Nat) : Option PendWrite :=
  (warpAt s slot).bind fun w => w.pend.find? fun p => decide (p.seq = seq) && decide (p.due ≤ s.now)

/-- SHORT_LATENCY_WRITEBACK (R51). -/
def execShortLatencyWriteback (slot seq : Nat) (s : State) : Host.Outcome State Fault Refusal :=
  .next (match pendAt s slot seq with
    | some p => if p.dest.heading then s else writeback s slot p
    | none => s)

/-- HEADING_COMMIT (R196). -/
def execHeadingCommit (slot seq : Nat) (s : State) : Host.Outcome State Fault Refusal :=
  .next (match pendAt s slot seq with
    | some p => if p.dest.heading then writeback s slot p else s
    | none => s)

end Sys2Proof.Machine
end

