-- ==== Sys2Proof/Machine/Kiln.lean ====
section
/-! DEFINITION. The Kiln: layout records, expansion into tiles, packing, and lattice tables (R111, R121 to R125, R127, R165 to R174,
R305 to R309). -/

namespace Sys2Proof.Machine

/-- The formats of a layout record (R166). -/
inductive KilnFmt where
  | bf16 | f16 | f32 | e4m3 | e5m2 | e2m1 | cbk2
deriving DecidableEq, Repr

/-- The format of a code (R166). -/
def kilnFmt (n : Nat) : KilnFmt :=
  match n with
  | 0 => .bf16
  | 1 => .f16
  | 2 => .f32
  | 3 => .e4m3
  | 4 => .e5m2
  | 5 => .e2m1
  | _ => .cbk2

/-- The element format. -/
def KilnFmt.fmt : KilnFmt → Fmt
  | .bf16 => fBF16
  | .f16 => fF16
  | .f32 => fF32
  | .e4m3 => fE4M3
  | .e5m2 => fE5M2
  | .e2m1 => fE2M1
  | .cbk2 => fBF16

/-- Bytes of an element of the plain formats, and the alignment of data (R166, R306). -/
def KilnFmt.bytes : KilnFmt → Nat
  | .f32 => 4
  | .bf16 => 2
  | .f16 => 2
  | .cbk2 => 2
  | _ => 1

/-- A microscaled format (R111). -/
def KilnFmt.mx : KilnFmt → Bool
  | .e4m3 => true
  | .e5m2 => true
  | .e2m1 => true
  | _ => false

/-- A layout record (R166). -/
structure Layout where
  mem : DWord
  rows : Nat
  cols : Nat
  stride : DWord
  scl : DWord
  sstr : Nat
  fmt : Nat
  lut : Nat
  flags : Nat
  tile : DWord
  fill : Nat
deriving DecidableEq, Repr

/-- The record of 64 bytes (R166). -/
def layoutOf (b : List Byte) : Layout :=
  { mem := BitVec.ofNat 64 (field b 0 8), rows := field b 8 4, cols := field b 12 4, stride := BitVec.ofNat 64 (field b 16 8),
    scl := BitVec.ofNat 64 (field b 24 8), sstr := field b 32 4, fmt := field b 36 1, lut := field b 37 1, flags := field b 38 1,
    tile := BitVec.ofNat 64 (field b 40 8), fill := field b 48 4 }

/-- TR and TT (R166). -/
def Layout.tr (r : Layout) : Bool := r.flags.testBit 0
def Layout.tt (r : Layout) : Bool := r.flags.testBit 1

/-- Ceiling of a quotient. -/
def ceilDiv (a b : Nat) : Nat := (a + b - 1) / b

/-- Elements in a row of a tile (R168). -/
def Layout.width (r : Layout) : Nat := if r.tt then 16 else 32

/-- Rows and columns of the tiled matrix (R168). -/
def Layout.shape (r : Layout) : Nat × Nat := if r.tr then (r.cols, r.rows) else (r.rows, r.cols)

/-- Tiles in a tile row, and in all (R168). -/
def Layout.perRow (r : Layout) : Nat := ceilDiv r.shape.2 r.width
def Layout.tiles (r : Layout) : Nat := ceilDiv r.shape.1 16 * r.perRow

/-- Bytes of a tile element. -/
def Layout.eb (r : Layout) : Nat := if r.tt then 4 else 2

/-- Byte offset in the tile range of an element of the tiled matrix (R127, R168). -/
def Layout.offset (r : Layout) (a b : Nat) : Nat :=
  (a / 16 * r.perRow + b / r.width) * 1024 + 64 * (a % 16) + r.eb * (b % r.width)

/-- The memory element a place of the tile range holds; none beyond the matrix (R168). -/
def Layout.source (r : Layout) (n : Nat) : Option (Nat × Nat) :=
  let e := n / 2 / (r.eb / 2)
  let t := e / (16 * r.width)
  let i := t / r.perRow * 16 + e % (16 * r.width) / r.width
  let j := t % r.perRow * r.width + e % r.width
  if i < r.shape.1 ∧ j < r.shape.2 then some (if r.tr then (j, i) else (i, j)) else none

/-- The address is in an SRAM window (R130, R167). -/
def isWindow (va : DWord) : Bool :=
  match region va with
  | .window _ _ => true
  | .localWindow _ => true
  | _ => false

/-- The addresses and strides that must be aligned, in order (R306). -/
def Layout.aligned (r : Layout) : List Nat :=
  [r.mem.toNat, r.stride.toNat] ++ (if kilnFmt r.fmt = .cbk2 then [r.scl.toNat, r.sstr] else [])

/-- The checks of a record, in order; `tile` is what a window access to TILE raises (R130, R167, R306). -/
def checkLayout (i : Instr) (pack : Bool) (r : Layout) (tile : Option Stop) (e : Mask) : Option Stop :=
  if r.fmt > 6 ∨ r.lut > 15 ∨ r.flags > 3 ∨ r.fill ≠ 0 ∨ r.rows > 65536 ∨ r.cols > 65536
      ∨ (r.tt ∧ r.fmt = 6) ∨ (pack ∧ r.fmt = 6) ∨ r.tiles > 1024 then some (illop i e)
  else if !isWindow r.tile then some (.trap (mkTrap .memkind 0xFE e))
  else if !oneRegion r.tile (1024 * r.tiles) then some (.trap (mkTrap .prot (r.tile.setWidth 32) e))
  else if tile.isSome then tile
  else if r.tile.toNat % 1024 ≠ 0 then some (.trap (mkTrap .align (r.tile.setWidth 32) e))
  else
    match r.aligned.find? fun x => decide (x % (kilnFmt r.fmt).bytes ≠ 0) with
    | some x => some (.trap (mkTrap .align (BitVec.ofNat 32 x) e))
    | none => none

/-- What a window access to the TILE of a record that names tiles raises (R130, R257). -/
def tileStop (s : State) (cx : Cx) (r : Layout) : Option Stop :=
  if r.tiles = 0 then none
  else
    match xlateAll s (cx.req .store .kiln) r.tile 1 with
    | .ok _ => none
    | .error e => some (stopOf s cx .store 4 e)

/-! Acceptance. -/

/-- The table that a command accepted now decodes with (R171, R172): the last KLUT accepted for it, or the core's table. -/
def tableFor (co : Core) (t : Nat) : List Word :=
  co.kiln.foldl (fun r c =>
    match c.job with
    | .lattice u ws => if u = t then ws else r
    | _ => r) (tgetD co.lattice t (List.replicate 256 0))

/-- The command joins the core's Kiln queue and the open K batch (R165, R173). -/
def pushKiln (s : State) (cx : Cx) (job : KilnJob) : State :=
  let c := coreOfSlot cx.k
  let co := coreAt s c
  let cmd : KilnCmd :=
    { id := s.nextId, slot := cx.k, ten := cx.w.ten, asid := cx.w.asid, service := cx.w.service, lanes := eff s cx, warp := cx.warpWord,
      job := job, due := s.now + nextTime s, faults := [] }
  dropTime (dropName (updWarp (setCore s c { co with kiln := co.kiln ++ [cmd] }) cx.k fun w => joinBatch w .K cmd.id))

/-- The address a Kiln word names, and its checks before the read (R165, R307). -/
def kilnAddr (i : Instr) (s : State) (cx : Cx) (n align : Nat) : Except Stop DWord :=
  let va := readPair s cx.w n
  if (cxFlag cx true).isNone then .error (wordTrap .clause i (eff s cx))
  else if va.toNat % align ≠ 0 then .error (.trap (mkTrap .align (va.setWidth 32) (eff s cx)))
  else .ok va

/-- KLD and KST: the record is read, checked, and accepted (R165, R305, R307, R309). -/
def kilnWord (i : Instr) (pack : Bool) (n : Nat) (s : State) : Host.Outcome State Fault Refusal :=
  runWord .scalar false i s fun cx _ s =>
    match kilnAddr i s cx n 64 with
    | .error t => .error t
    | .ok va =>
      afterSettle .scalar s cx fun s =>
        match wordRead s cx .plain 4 va 64 with
        | .error t => .error t
        | .ok (b, s) =>
          match checkLayout i pack (layoutOf b) (tileStop s cx (layoutOf b)) (eff s cx) with
          | some t => .error t
          | none =>
            let s := acceptWord s cx
            if (layoutOf b).tiles = 0 then .ok (s, .seq)
            else
              .ok (pushKiln s cx (if pack then .pack b else .expand b (tableFor (coreAt s (coreOfSlot cx.k)) (layoutOf b).lut)), .seq)

/-- KLD (R305). -/
def execKld (x : BitVec 6) (imm : Half) (s : State) : Host.Outcome State Fault Refusal := kilnWord (.kld x imm) false x.toNat s

/-- KST (R309). -/
def execKst (x : BitVec 6) (imm : Half) (s : State) : Host.Outcome State Fault Refusal := kilnWord (.kst x imm) true x.toNat s

/-- KLUT: the image is read before the flag clears (R165, R308). -/
def execKlut (x : BitVec 6) (imm : Half) (s : State) : Host.Outcome State Fault Refusal :=
  runWord .scalar false (.klut x imm) s fun cx _ s =>
    match kilnAddr (.klut x imm) s cx x.toNat 1024 with
    | .error t => .error t
    | .ok va =>
      afterSettle .scalar s cx fun s =>
        match wordRead s cx .kiln 4 va 1024 with
        | .error t => .error t
        | .ok (b, s) =>
          let ws := (List.range 256).map fun e => BitVec.ofNat 32 (field b (4 * e) 4)
          .ok (pushKiln (acceptWord s cx) cx (.lattice (imm.toNat % 16) ws), .seq)

/-! Conversion. -/

/-- Bytes of a memory row and of its scales: whole blocks for the block formats (R111, R124, R166). -/
def memRowBytes (f : KilnFmt) (cols : Nat) : Nat × Nat :=
  match f with
  | .cbk2 => (32 * ceilDiv cols 128, 2 * ceilDiv cols 128)
  | .e2m1 => (16 * ceilDiv cols 32, ceilDiv cols 32)
  | .e4m3 => (32 * ceilDiv cols 32, ceilDiv cols 32)
  | .e5m2 => (32 * ceilDiv cols 32, ceilDiv cols 32)
  | _ => (f.bytes * cols, 0)

/-- The code of element `c` of a memory row (R111, R166). -/
def elemCode (f : KilnFmt) (row : List Byte) (c : Nat) : Nat :=
  match f with
  | .e2m1 => field row (c / 2) 1 / 16 ^ (c % 2) % 16
  | .e4m3 => field row c 1
  | .e5m2 => field row c 1
  | _ => field row (f.bytes * c) f.bytes

/-- The value of element `c` of a memory row (R123 to R125, R169). -/
def elemValue (f : KilnFmt) (table : List Word) (row scl : List Byte) (c : Nat) : FVal :=
  match f with
  | .cbk2 =>
    let v := mulF (decodeF fBF16 (field scl (2 * (c / 128)) 2))
      (cbkValue table (field row (32 * (c / 128) + 2 * (c % 128 / 8)) 2) (c % 8))
    v
  | _ => if f.mx then mxValue f.fmt (field scl (c / 32) 1) (elemCode f row c) else decodeF f.fmt (elemCode f row c)

/-- The tile format. -/
def Layout.tileFmt (r : Layout) : Fmt := if r.tt then fF32 else fBF16

/-- The bytes of the whole tile range that KLD writes (R168, R169). -/
def expandBytes (r : Layout) (table : List Word) (rows scls : List (List Byte)) : List Byte :=
  (List.range (r.tiles * 1024 / r.eb)).flatMap fun n =>
    leBytes r.eb (match r.source (n * r.eb) with
      | some (a, b) => roundNE r.tileFmt (elemValue (kilnFmt r.fmt) table (rows.getD a []) (scls.getD a []) b)
      | none => 0)

/-- Row `a` of the memory matrix as values from the tiles (R168, R170): `n` of them, +0 beyond COLS. -/
def tileRow (r : Layout) (tiles : List Byte) (a n : Nat) : List FVal :=
  (List.range n).map fun b =>
    if b < r.cols then
      decodeF r.tileFmt (field tiles (if r.tr then r.offset b a else r.offset a b) r.eb)
    else .fin false 0 0

/-- Bytes of a list of element codes (R111). -/
def codeBytes (f : KilnFmt) (cs : List Nat) : List Byte :=
  match f with
  | .e2m1 => (List.range (cs.length / 2)).map fun i => BitVec.ofNat 8 (cs.getD (2 * i) 0 + 16 * cs.getD (2 * i + 1) 0)
  | _ => cs.flatMap fun c => leBytes f.bytes c

/-- The row and its scale bytes that KST writes (R121, R122, R170). -/
def packRow (r : Layout) (tiles : List Byte) (a : Nat) : List Byte × List Byte :=
  let f := kilnFmt r.fmt
  if f.mx then
    let nb := ceilDiv r.cols 32
    let xs := tileRow r tiles a (32 * nb)
    let blocks := (List.range nb).map fun i => (xs.drop (32 * i)).take 32
    let codes := blocks.map fun b => mxScale f.fmt b
    (codeBytes f ((blocks.zip codes).flatMap fun e => e.1.map fun x => mxElement f.fmt e.2 x), codes.map fun c => BitVec.ofNat 8 c)
  else (codeBytes f ((tileRow r tiles a r.cols).map fun x => roundNE f.fmt x), [])

/-! The commands run. -/

/-- Addresses of memory row `a` and of its scales (R166). -/
def Layout.rowVa (r : Layout) (a : Nat) : DWord := r.mem + BitVec.ofNat 64 (a * r.stride.toNat)
def Layout.sclVa (r : Layout) (a : Nat) : DWord := r.scl + BitVec.ofNat 64 (a * r.sstr)

/-- A command's request at core `c`. -/
def KilnCmd.req (cmd : KilnCmd) (c : Nat) (acc : Acc) : Req :=
  { slot := some cmd.slot, asid := cmd.asid, ten := cmd.ten, core := some c, svc := cmd.service, acc := acc, path := .kiln }

/-- The ranges of the memory rows that a command names, and those of their scales (R166). -/
def Layout.rowRanges (r : Layout) : List (DWord × Nat) :=
  (List.range r.rows).map fun a => (r.rowVa a, (memRowBytes (kilnFmt r.fmt) r.cols).1)
def Layout.sclRanges (r : Layout) : List (DWord × Nat) :=
  (List.range r.rows).map fun a => (r.sclVa a, (memRowBytes (kilnFmt r.fmt) r.cols).2)

/-- An error of a command's access, with its kind. -/
abbrev KilnErr := Bad × Acc

/-- The effect of an expansion (R168, R169). -/
def runExpand (s : State) (c : Nat) (cmd : KilnCmd) (r : Layout) (table : List Word) : Except KilnErr State :=
  match readRanges (cmd.req c .load) r.rowRanges s with
  | .error e => .error (e, .load)
  | .ok (rows, s) =>
    match readList (cmd.req c .load) r.rowRanges r.sclRanges s with
    | .error e => .error (e, .load)
    | .ok (scls, s) =>
      match writeRange s (cmd.req c .store) r.tile (expandBytes r table rows scls) with
      | .error e => .error (e, .store)
      | .ok s => .ok s

/-- The effect of a packing (R170). -/
def runPack (s : State) (c : Nat) (cmd : KilnCmd) (r : Layout) : Except KilnErr State :=
  match readRange s (cmd.req c .load) r.tile (1024 * r.tiles) with
  | .error e => .error (e, .load)
  | .ok (tiles, s) =>
    match writeRanges (cmd.req c .store) ((List.range r.rows).flatMap fun a =>
        let p := packRow r tiles a
        [(r.rowVa a, p.1), (r.sclVa a, p.2)]) s with
    | .error e => .error (e, .store)
    | .ok s => .ok s

/-- The accesses a command makes (R169, R170). -/
def KilnJob.touches : KilnJob → List Touch
  | .expand b _ =>
    let r := layoutOf b
    loads (r.rowRanges ++ r.sclRanges) ++ stores [(r.tile, 1024 * r.tiles)]
  | .pack b =>
    let r := layoutOf b
    loads [(r.tile, 1024 * r.tiles)] ++ stores (r.rowRanges ++ r.sclRanges)
  | .lattice _ _ => []

/-- The effect of a command of the core (R168 to R171). -/
def runKiln (s : State) (c : Nat) (cmd : KilnCmd) : Except KilnErr State :=
  match cmd.job with
  | .expand b table => runExpand s c cmd (layoutOf b) table
  | .pack b => runPack s c cmd (layoutOf b)
  | .lattice t ws =>
    let co := coreAt s c
    .ok (setCore s c { co with lattice := tset co.lattice t ws })

/-- The next command that can run: in the order of acceptance, parked ones passed over (R172, R174). -/
def nextKiln (s : State) (c : Nat) : Option KilnCmd :=
  match (coreAt s c).kiln.find? fun k => k.faults.isEmpty with
  | some k => if k.due ≤ s.now then some k else none
  | none => none

/-- The Kiln queue of a core with a command changed or removed. -/
def updKiln (s : State) (c id : Nat) (x : Option KilnCmd) : State :=
  let co := coreAt s c
  setCore s c { co with kiln := co.kiln.filterMap fun k => if k.id = id then x else some k }

/-- A command completes, parks on a replayable fault, or stops with an error that fails its batch (R138, R173, R174). It waits until
every slice that it reaches runs (R258). -/
def finishKiln (s : State) (c : Nat) (cmd : KilnCmd) : State :=
  if asleep s (touchSlices s (cmd.req c) cmd.job.touches) then
    updKiln (wakeAll s (touchSlices s (cmd.req c) cmd.job.touches)) c cmd.id (some { cmd with due := s.now + 1 })
  else
  match runKiln s c cmd with
  | .ok s => updWarp (updKiln s c cmd.id none) cmd.slot fun w => leaveBatch w .K cmd.id none
  | .error (e, acc) =>
    match touchStop s (cmd.req c) cmd.job.touches acc (engineFault cmd.ten cmd.asid cmd.lanes 4 cmd.warp) e with
    | .ok fs =>
      let x := putFaults s fs
      updKiln x.1 c cmd.id (some { cmd with faults := x.2 })
    | .error (cls, i) =>
      updWarp (updKiln s c cmd.id none) cmd.slot fun w => leaveBatch w .K cmd.id (some (mkTrap cls i cmd.lanes))

/-- The next command of core `c` runs when its job meets `p`. -/
def kilnEvent (s : State) (c : Nat) (p : KilnJob → Bool) : Host.Outcome State Fault Refusal :=
  match nextKiln s c with
  | none => .next s
  | some cmd => .next (if p cmd.job then finishKiln s c cmd else s)

/-- KILN_EXPAND (R168, R169, entry 27). -/
def execKilnExpand (core : Nat) (s : State) : Host.Outcome State Fault Refusal :=
  kilnEvent s core fun j =>
    match j with
    | .expand _ _ => true
    | _ => false

/-- KILN_PACK (R170). -/
def execKilnPack (core : Nat) (s : State) : Host.Outcome State Fault Refusal :=
  kilnEvent s core fun j =>
    match j with
    | .pack _ => true
    | _ => false

/-- LATTICE_LOAD (R171, R172, R308). -/
def execLatticeLoad (core : Nat) (s : State) : Host.Outcome State Fault Refusal :=
  kilnEvent s core fun j =>
    match j with
    | .lattice _ _ => true
    | _ => false

/-- Kiln commands that wait for a record meeting `pr` are made again (R138, R141). -/
def replayKilns (s : State) (pr : FaultRef → Bool) : State :=
  { s with cores := s.cores.map fun e =>
      (e.1, { e.2 with kiln := e.2.kiln.map fun k =>
        if k.faults.any pr then { k with faults := [], due := s.now + 1 } else k }) }

end Sys2Proof.Machine
end

