-- ==== Sys2Proof/Machine/Lantern.lean ====
section
/-! DEFINITION. The Lantern dies: commands, sequences, blocks and pools, appends, attention, control operations and prefetching
(R217 to R226, R310 to R312, R314 to R316). -/

namespace Sys2Proof.Machine

/-! Dies. -/

/-- Lantern die `d`. -/
def dieAt (s : State) (d : Nat) : LanternDie := s.lanterns.getD d LanternDie.empty

/-- The state with Lantern die `d` set. -/
def setDie (s : State) (d : Nat) (x : LanternDie) : State := { s with lanterns := s.lanterns.set d x }

/-- The sequence of a tenancy on a die (R217). -/
def LanternDie.seq (x : LanternDie) (ten id : Nat) : Option LanternSeq :=
  x.seqs.find? fun q => decide (q.ten = ten) && decide (q.id = id)

/-- The die with a sequence set or removed. -/
def LanternDie.setSeq (x : LanternDie) (ten id : Nat) (q : Option LanternSeq) : LanternDie :=
  { x with seqs := (x.seqs.filter fun y => !(decide (y.ten = ten) && decide (y.id = id))) ++ q.toList }

/-! Records (R221, R223, R224, R226, R311). -/

/-- SEQ of a record: [23:0] the id. -/
def seqField (b : List Byte) : Nat := field b 0 4 % 2 ^ 24

/-- The sequence id a command names; LCTL holds it at +4 (R221, R311). -/
def recSeq (op : LanternOp) (b : List Byte) : Nat :=
  match op with
  | .control => field b 4 4 % 2 ^ 24
  | _ => seqField b

/-- OP of a control record (R311). -/
def recOp (b : List Byte) : Nat := field b 0 1

/-- The layer and KV head a record names. -/
def recTriple (op : LanternOp) (b : List Byte) : Nat × Nat :=
  match op with
  | .control => (field b 8 1, field b 9 1)
  | _ => (field b 4 1, field b 5 1)

/-- Bytes `o` to `o + n - 1` are zero. -/
def zeroBytes (b : List Byte) (o n : Nat) : Bool := ((b.drop o).take n).all fun x => decide (x = 0)

/-- Query heads G and rows R of a query record (R221). -/
def recG (b : List Byte) : Nat := field b 6 1 + 1
def recR (b : List Byte) : Nat := field b 8 2

/-- CAUSAL and OF32 (R221). -/
def recCausal (b : List Byte) : Bool := (field b 7 1).testBit 0
def recF32 (b : List Byte) : Bool := (field b 7 1).testBit 1

/-- A doubleword of a record. -/
def recVa (b : List Byte) (o : Nat) : DWord := BitVec.ofNat 64 (field b o 8)

/-- The static fields of a query record (R221). -/
def queryLegal (b : List Byte) : Bool :=
  zeroBytes b 3 1 && decide (recG b ≤ 16) && decide (field b 7 1 < 4) && decide (1 ≤ recR b) && decide (recR b ≤ 256)
    && decide (recG b * recR b ≤ 256) && zeroBytes b 10 2 && zeroBytes b 36 4 && zeroBytes b 56 8

/-- The static fields of an append record (R223, R310). -/
def appendLegal (b : List Byte) : Bool :=
  zeroBytes b 3 1 && decide (1 ≤ field b 6 2) && decide (field b 6 2 ≤ 256) && zeroBytes b 24 40

/-- The static fields of a prefetch hint (R226, R314). -/
def hintLegal (b : List Byte) : Bool := zeroBytes b 3 1 && zeroBytes b 5 59

/-- A tier. -/
def tierLegal (n : Nat) : Bool := decide (n = 1) || decide (n = 2)

/-- The static fields of a control record, operands and zero bytes (R311, R312). -/
def controlLegal (b : List Byte) : Bool :=
  let op := recOp b
  let head := zeroBytes b 2 2 && zeroBytes b 7 1 && (decide (op = 3) || zeroBytes b 1 1) && (decide (op < 4) || zeroBytes b 4 4)
  head && (match op with
    | 0 => decide (field b 9 1 < 128) && decide (field b 10 1 < 2) && decide (field b 11 1 < 2) && zeroBytes b 12 4 && zeroBytes b 24 40
    | 1 => zeroBytes b 8 56
    | 2 => zeroBytes b 10 2 && zeroBytes b 16 48
    | 3 =>
      zeroBytes b 10 2 && (match field b 1 1 with
        | 0 => decide (field b 16 2 < 512) && tierLegal (field b 18 1) && zeroBytes b 19 1 && zeroBytes b 24 40
        | 1 => zeroBytes b 16 48
        | _ => false)
    | 4 => tierLegal (field b 12 1) && decide (field b 13 1 < 2) && zeroBytes b 14 2 && zeroBytes b 20 44
    | 5 => decide (field b 8 1 < 2) && tierLegal (field b 9 1) && zeroBytes b 10 2 && zeroBytes b 20 44
    | 6 => tierLegal (field b 12 1) && decide (field b 13 1 < 2) && zeroBytes b 14 50
    | 7 => decide (field b 8 1 < 2) && decide (field b 9 1 < 3) && zeroBytes b 10 54
    | _ => false)

/-- The addresses of a record that must be aligned, with their alignment, in order (R310, R315). -/
def recAligned (op : LanternOp) (b : List Byte) : List (DWord × Nat) :=
  match op with
  | .query => [(recVa b 16, 2), (recVa b 40, if recF32 b then 4 else 2), (recVa b 48, 4)]
  | .append => [(recVa b 8, 2), (recVa b 16, 2)]
  | _ => []

/-- The record of an operation is legal. -/
def recLegal (op : LanternOp) (b : List Byte) : Bool :=
  match op with
  | .query => queryLegal b
  | .append => appendLegal b
  | .control => controlLegal b
  | .hint => hintLegal b

/-- The die holds the sequence once the commands it has accepted have completed. -/
def LanternDie.willHold (x : LanternDie) (ten id : Nat) : Bool :=
  x.cmds.foldl (fun h c =>
    if decide (c.op = .control) && decide (recOp c.record < 2) && decide (c.ten = ten) && decide (recSeq c.op c.record = id) then
      decide (recOp c.record = 0)
    else h) (x.seq ten id).isSome

/-- The home die of a sequence, which its CREATE names, accepted or complete (R219, R224); die 0 stands for one that no die holds. -/
def homeOf (s : State) (ten id : Nat) : Nat :=
  if (dieAt s 1).willHold ten id && !(((dieAt s 0).seq ten id).isSome && (dieAt s 0).willHold ten id) then 1 else 0

/-- The die a command goes to (R219, R312). -/
def dieOf (s : State) (op : LanternOp) (ten : Nat) (b : List Byte) : Nat :=
  match op with
  | .control =>
    match recOp b with
    | 0 => field b 11 1
    | 4 => field b 13 1
    | 5 => field b 8 1
    | 6 => field b 13 1
    | 7 => field b 8 1
    | _ => homeOf s ten (recSeq op b)
  | _ => homeOf s ten (recSeq op b)

/-! Order at a die (R220, R224). -/

/-- The command works on a sequence. -/
def LanternCmd.hasSeq (c : LanternCmd) : Bool := decide (c.op ≠ .control) || decide (recOp c.record < 4)

/-- Two commands name one sequence. -/
def sameSeq (a b : LanternCmd) : Bool :=
  a.hasSeq && b.hasSeq && decide (a.ten = b.ten) && decide (recSeq a.op a.record = recSeq b.op b.record)

/-- Two commands name one sequence, layer and KV head. -/
def sameTriple (a b : LanternCmd) : Bool := sameSeq a b && decide (recTriple a.op a.record = recTriple b.op b.record)

/-- CREATE or FREE. -/
def LanternCmd.whole (c : LanternCmd) : Bool := decide (c.op = .control) && decide (recOp c.record < 2)

/-- Command `c` comes after `e`, which the die accepted before it (R220, R224, R310). A MAP2 or POOL does not wait for a command that
waits for a mapping, nor a POOL for a SETTIER that may wait for a block. -/
def waitsFor (c e : LanternCmd) : Bool :=
  if !c.hasSeq then !e.hasSeq && e.faults.isEmpty && !(decide (recOp c.record = 5) && decide (recOp e.record = 6))
  else if e.whole then sameSeq c e
  else
    match c.op with
    | .hint => false
    | .query => sameTriple c e && decide (e.op ≠ .query) && decide (e.op ≠ .hint)
    | .append => sameTriple c e && decide (e.op ≠ .query) && decide (e.op ≠ .hint)
    | .control =>
      match recOp c.record with
      | 0 => sameSeq c e
      | 1 => sameSeq c e
      | _ => sameTriple c e

/-- Commands accepted before `id`. -/
def earlier (cs : List LanternCmd) (id : Nat) : List LanternCmd := cs.takeWhile fun c => decide (c.id ≠ id)

/-- The commands that wait for a mapping, and those that come after one of them. -/
def stuckCmds (cs : List LanternCmd) : List LanternCmd :=
  cs.foldl (fun st c => if (c.faults.any fun f => decide (f.cause = .lantern)) || st.any (waitsFor c) then st ++ [c] else st) []

/-- The stage-1 entry of a block (R218). -/
def LanternDie.entry (x : LanternDie) (ten seq layer head block : Nat) : Option Stage1 :=
  x.stage1.find? fun e => decide (e.ten = ten) && decide (e.seq = seq) && decide (e.layer = layer) && decide (e.head = head)
    && decide (e.block = block)

/-- A MAP1 of a block that has no entry: it may be what a command waits for, and changes what none reads (R218, R220). -/
def supplies (x : LanternDie) (c : LanternCmd) : Bool :=
  decide (c.op = .control) && decide (recOp c.record = 3) && decide (field c.record 1 1 = 0)
    && (x.entry c.ten (recSeq c.op c.record) (recTriple c.op c.record).1 (recTriple c.op c.record).2 (field c.record 12 4)).isNone

/-- The command may run now: those that it comes after have completed; a MAP1 that supplies a mapping does not wait for those that wait
for one. -/
def cmdReady (s : State) (d : Nat) (c : LanternCmd) : Bool :=
  let x := dieAt s d
  c.faults.isEmpty && decide (c.due ≤ s.now)
    && (earlier x.cmds c.id).all fun e => !waitsFor c e || (supplies x c && (stuckCmds x.cmds).contains e)

/-- What an accepted command leaves of the sequence of `c` and of its length, when it completes: none for no such sequence. A CREATE of
one that is there stops, and so does an append past the longest length (R219, R223, R224). -/
def projectStep (c : LanternCmd) (n : Option Nat) (e : LanternCmd) : Option Nat :=
  if e.whole then (if recOp e.record = 0 then some (n.getD 0) else none)
  else if !sameTriple c e then n
  else
    match e.op with
    | .append => n.map fun m => if 2 ^ 31 ≤ e.start + field e.record 6 2 then m else e.start + field e.record 6 2
    | .control => if recOp e.record = 2 then n.map fun m => min m (field e.record 12 4) else n
    | _ => n

/-- The length of a sequence, layer and head once the commands accepted so far have completed (R220, R223, R224). -/
def projected (x : LanternDie) (c : LanternCmd) : Nat :=
  let t := recTriple c.op c.record
  let n := (x.seq c.ten (recSeq c.op c.record)).map fun q => tgetD q.lens (t.1 * 128 + t.2) 0
  ((x.cmds.filter fun e => sameSeq c e).foldl (projectStep c) n).getD 0

/-! Acceptance (R219, R221, R223, R226). -/

/-- LANTERN code `n` as a trap (R219). -/
def lanternTrap (n : Nat) (m : Mask) : Trap := mkTrap .lantern (BitVec.ofNat 32 n) m

/-- Of the LQRYs accepted since the last swap some sequence has had one of the layer before `layer` after one of `layer`: it is in
another pass over its layers (R226). -/
def passesAgain (layer : Nat) : List (Nat × Nat × Nat) → Bool
  | [] => false
  | e :: r => (decide (e.2.2 = layer) && r.any fun f => decide (f.1 = e.1) && decide (f.2.1 = e.2.1) && decide (f.2.2 + 1 = layer))
      || passesAgain layer r

/-- The LQRY is of the layer that its sequence was last seen in. -/
def sameLayer (seen : List (Nat × Nat × Nat)) (ten id layer : Nat) : Bool :=
  decide (((seen.filter fun e => decide (e.1 = ten) && decide (e.2.1 = id)).map fun e => e.2.2).getLast? = some layer)

/-- An accepted LQRY moves the prefetcher on: the first one of the layer after one that has had LQRYs since the last swap swaps the
buffers; a later one of its layer does not, until a sequence that has been there comes to the layer before it again (R226; DEDUCED, entry
57). -/
def LanternDie.noteQuery (x : LanternDie) (ten id layer : Nat) : LanternDie :=
  if (x.seen.any fun e => decide (e.2.2 + 1 = layer))
      && (!(x.seen.any fun e => decide (e.2.2 = layer)) || passesAgain layer x.seen) then
    { x with seen := [(ten, id, layer)], staged := x.filling, filling := [] }
  else if sameLayer x.seen ten id layer then x
  else { x with seen := x.seen ++ [(ten, id, layer)] }

/-- The command is accepted at its die and joins the open A batch (R173, R219). -/
def pushLantern (s : State) (cx : Cx) (op : LanternOp) (b : List Byte) (va : DWord) : State :=
  let d := dieOf s op cx.w.ten b
  let x := dieAt s d
  let c : LanternCmd :=
    { id := s.nextId, op := op, slot := cx.k, ten := cx.w.ten, asid := cx.w.asid, service := cx.w.service, record := b, recVa := va,
      lanes := eff s cx, warp := cx.warpWord, start := 0, due := s.now + nextTime s, faults := [] }
  let c := { c with start := projected x c }
  let x := if op = .query then x.noteQuery cx.w.ten (recSeq op b) (field b 4 1) else x
  dropTime (dropName (updWarp (setDie s d { x with cmds := x.cmds ++ [c] }) cx.k fun w => joinBatch w .A c.id))

/-- LQRY, LAPP, LCTL and LPF (R219, R257, R310 to R315). -/
def lanternWord (i : Instr) (op : LanternOp) (n : Nat) (s : State) : Host.Outcome State Fault Refusal :=
  runWord .scalar false i s fun cx _ s =>
    let e := eff s cx
    let va := readPair s cx.w n
    if (cxFlag cx true).isNone then .error (wordTrap .clause i e)
    else if s.level < 2 then .error (.trap (mkTrap .memkind 0xFE e))
    else if va.toNat % 64 ≠ 0 then .error (.trap (mkTrap .align (va.setWidth 32) e))
    else
      afterSettle .scalar s cx fun s =>
        match wordRead s cx .plain 6 va 64 with
        | .error t => .error t
        | .ok (b, s) =>
          if !recLegal op b then .error (illop i e)
          else if decide (op = .control) && (decide (recOp b = 4) || decide (recOp b = 5) || decide (recOp b = 7)) && !cx.w.service then
            .error (.trap (mkTrap .priv 0x6A e))
          else
            match (recAligned op b).find? fun x => decide (x.1.toNat % x.2 ≠ 0) with
            | some x => .error (.trap (mkTrap .align (x.1.setWidth 32) e))
            | none => .ok (pushLantern (acceptWord s cx) cx op b va, .seq)

/-- LQRY (R219, R315). -/
def execLqry (x : BitVec 6) (imm : Half) (s : State) : Host.Outcome State Fault Refusal := lanternWord (.lqry x imm) .query x.toNat s

/-- LAPP (R219, R310). -/
def execLapp (x : BitVec 6) (imm : Half) (s : State) : Host.Outcome State Fault Refusal := lanternWord (.lapp x imm) .append x.toNat s

/-- LCTL (R219, R311, R312). -/
def execLctl (x : BitVec 6) (imm : Half) (s : State) : Host.Outcome State Fault Refusal := lanternWord (.lctl x imm) .control x.toNat s

/-- LPF (R219, R314). -/
def execLpf (x : BitVec 6) (imm : Half) (s : State) : Host.Outcome State Fault Refusal := lanternWord (.lpf x imm) .hint x.toNat s

/-! Commands at the die. -/

/-- How a command ends otherwise than by its effect. -/
inductive LanternStop where
  /-- It stops with this error, and its batch fails (R174, R219). -/
  | fail (t : Trap)
  /-- It parks on replayable faults (R138, R218). -/
  | park (fs : List FaultInfo)
  /-- It waits for a free block (R223). -/
  | wait
deriving DecidableEq, Repr

/-- Stops with a code (R219). -/
def LanternCmd.code (c : LanternCmd) (n : Nat) : LanternStop := .fail (lanternTrap n c.lanes)

/-- The request of a command; local windows are those of the issuing core. -/
def LanternCmd.req (c : LanternCmd) (acc : Acc) : Req :=
  { slot := some c.slot, asid := c.asid, ten := c.ten, core := some (coreOfSlot c.slot), svc := c.service, acc := acc, path := .lantern }

/-- The K and V rows that an append reads (R223). -/
def keyRanges (b : List Byte) : List (DWord × Nat) :=
  (List.range (field b 6 2)).map fun i => (recVa b 8 + BitVec.ofNat 64 (256 * i), 256)
def valueRanges (b : List Byte) : List (DWord × Nat) :=
  (List.range (field b 6 2)).map fun i => (recVa b 16 + BitVec.ofNat 64 (256 * i), 256)

/-- Bytes of an output element (R221). -/
def outBytes (b : List Byte) : Nat := if recF32 b then 4 else 2

/-- The query rows, log-sum-exps and output rows of a query (R221). -/
def queryRanges (b : List Byte) : List (DWord × Nat) :=
  (List.range (recG b * recR b)).map fun i => (recVa b 16 + BitVec.ofNat 64 (256 * i), 256)
def lseRanges (b : List Byte) : List (DWord × Nat) :=
  (List.range (recG b * recR b)).map fun i => (recVa b 48 + BitVec.ofNat 64 (4 * i), 4)
def outRanges (b : List Byte) : List (DWord × Nat) :=
  (List.range (recG b * recR b)).map fun i => (recVa b 40 + BitVec.ofNat 64 (128 * outBytes b * i), 128 * outBytes b)

/-- The data accesses of a command (R221, R223, R311). -/
def LanternCmd.touches (c : LanternCmd) : List Touch :=
  match c.op with
  | .query => loads (queryRanges c.record) ++ stores (lseRanges c.record ++ outRanges c.record)
  | .append => loads (keyRanges c.record ++ valueRanges c.record)
  | .control =>
    if recOp c.record = 0 ∧ field c.record 10 1 = 1 then loads [(Machine.recVa c.record 16, 8 * (field c.record 8 1 + 1))] else []
  | .hint => []

/-- An error of a data access as the stop of a command: ENGINE 6 (R219). -/
def LanternCmd.stop (c : LanternCmd) (s : State) (acc : Acc) (e : Bad) : LanternStop :=
  match touchStop s c.req c.touches acc (engineFault c.ten c.asid c.lanes 6 c.warp) e with
  | .ok fs => .park fs
  | .error (cls, i) => .fail (mkTrap cls i c.lanes)

/-- Rows read by a command after its ranges `seen`. -/
def LanternCmd.reads (c : LanternCmd) (s : State) (seen rs : List (DWord × Nat)) : Except LanternStop (List (List Byte) × State) :=
  match readList (c.req .load) seen rs s with
  | .error e => .error (c.stop s .load e)
  | .ok r => .ok r

/-- Rows written by a command after its ranges `seen`. -/
def LanternCmd.writes (c : LanternCmd) (s : State) (seen : List (DWord × Nat)) (rs : List (DWord × List Byte)) :
    Except LanternStop State :=
  match writeList (c.req .store) seen rs s with
  | .error e => .error (c.stop s .store e)
  | .ok s => .ok s

/-- The fault of a block without an entry at `stage` (R218). -/
def LanternCmd.miss (c : LanternCmd) (stage layer head block : Nat) : LanternStop :=
  .park [{ ten := c.ten, asid := c.asid, va := c.recVa, lanes := c.lanes, cause := .lantern, engine := 6, warp := c.warp,
           info := BitVec.ofNat 32 (stage + 2 * layer + 2 ^ 9 * head + 2 ^ 17 * (block % 2 ^ 15)) }]

/-- The stage-2 entry of a global block of this node, with its die (R218). -/
def stage2Of (s : State) (global : Nat) : Option (Nat × Stage2) :=
  match (dieAt s 0).stage2.find? fun e => decide (e.global = global) with
  | some e => some (0, e)
  | none => ((dieAt s 1).stage2.find? fun e => decide (e.global = global)).map fun e => (1, e)

/-- What the die of another node answers for a global block: 0 it has the block for the tenancy, 1 it has no stage-2 entry, 2 another
tenancy owns it. Its tables are not of this package, and a free value answers (R218, R225, entry 40). -/
def farAnswer (s : State) (node global : Nat) : Nat := choose s (2 * (2 ^ 70 + node * 2 ^ 32 + global)) 3

/-- Where a block lies (R218, R225). -/
def blockLoc (s : State) (d : Nat) (c : LanternCmd) (seq layer head block : Nat) : Except LanternStop Nat :=
  match (dieAt s d).entry c.ten seq layer head block with
  | none => .error (c.miss 0 layer head block)
  | some e =>
    if e.node ≠ Config.node then
      (if farAnswer s e.node e.global = 0 then .ok (farBlockLoc e.node e.global 0)
      else if farAnswer s e.node e.global = 1 then .error (c.miss 1 layer head block)
      else .error (c.code 5))
    else
      match stage2Of s e.global with
      | none => .error (c.miss 1 layer head block)
      | some (die, x) => if x.ten ≠ c.ten then .error (c.code 5) else .ok (lanternLoc die x.tier (x.phys * Config.blockBytes))

/-- The locations of several blocks, in order. -/
def blockLocs (s : State) (d : Nat) (c : LanternCmd) (seq layer head : Nat) : List Nat → Except LanternStop (List (Nat × Nat))
  | [] => .ok []
  | b :: r =>
    match blockLoc s d c seq layer head b with
    | .error e => .error e
    | .ok l =>
      match blockLocs s d c seq layer head r with
      | .error e => .error e
      | .ok ls => .ok ((b, l) :: ls)

/-- Offset of the K or V row `t` mod 256 in a block, and its bytes (R217, entry 15). -/
def rowPlace (e4m3 v : Bool) (t : Nat) : Nat × Nat :=
  if e4m3 then ((if v then 32768 else 0) + 128 * (t % 256), 128) else ((if v then 65536 else 0) + 256 * (t % 256), 256)

/-! Appends (R223). -/

/-- A free block of a tenancy's pools on a die: tier 1 before tier 2, the first of its pool (entry 15). -/
def freeBlock (x : LanternDie) (ten : Nat) : Option PoolBlock :=
  match x.pool.find? fun p => decide (p.ten = ten) && decide (p.tier = 1) with
  | some p => some p
  | none => x.pool.find? fun p => decide (p.ten = ten)

/-- The lowest global block number of no entry of the node (entry 15). -/
def freshGlobal (s : State) : Nat :=
  let used := ((dieAt s 0).stage2 ++ (dieAt s 1).stage2).map fun e => e.global
  ((List.range (used.length + 1)).find? fun n => !used.contains n).getD 0

/-- LANTERN_BLOCK_ALLOCATE (R223, R225). -/
def allocLantern (s : State) (d : Nat) (c : LanternCmd) (seq layer head block : Nat) : Option State :=
  let x := dieAt s d
  match freeBlock x c.ten with
  | none => none
  | some p =>
    let g := freshGlobal s
    let e : Stage1 := { ten := c.ten, seq := seq, layer := layer, head := head, block := block, node := Config.node, tier := p.tier, global := g }
    let old := fun (y : Stage1) => decide (y.ten = c.ten) && decide (y.seq = seq) && decide (y.layer = layer) && decide (y.head = head)
      && decide (y.block = block)
    some (setDie s d { x with
      pool := x.pool.erase p
      stage1 := (x.stage1.filter fun y => !old y) ++ [e]
      stage2 := x.stage2 ++ [{ global := g, tier := p.tier, phys := p.phys, ten := c.ten }] })

/-- The quotient of two values, with a sticky lowest bit far below any rounding position. -/
def divF : FVal → FVal → FVal
  | .nan, _ => .nan
  | _, .nan => .nan
  | .inf a, .inf _ => if a then .nan else .nan
  | .inf a, .fin b _ _ => .inf (a != b)
  | .fin a _ _, .inf b => .fin (a != b) 0 0
  | .fin a m e, .fin b n g =>
    if n = 0 then (if m = 0 then .nan else .inf (a != b))
    else
      let k := 96 + Nat.log2 n
      let q := m * 2 ^ k / n
      .fin (a != b) (2 * q + (if q * n = m * 2 ^ k then 0 else 1)) (e - g - k - 1)

/-- An element stored in E4M3: RoundNE of x ÷ s, saturated first (R122, R223). -/
def e4m3Of (scale : Word) (x : Nat) : Nat :=
  match divF (decodeF fBF16 x) (decodeF fF32 scale.toNat) with
  | .nan => fE4M3.nanCode
  | .inf n => fE4M3.signed n fE4M3.maxCode
  | v => mxElement fE4M3 127 v

/-- A row of 128 BF16 elements as it is stored. -/
def storedRow (q : LanternSeq) (scale : Word) (row : List Byte) : List Byte :=
  if q.e4m3 then (List.range 128).map fun i => BitVec.ofNat 8 (e4m3Of scale (field row (2 * i) 2)) else row

/-- A row stored in its block; of a block of another node the package keeps what it wrote (R218, entry 40). -/
def storeRow (s : State) (loc : Nat) (bytes : List Byte) : State :=
  let s := writeBytes s none loc bytes
  if farBlock loc && !s.farRows.contains (loc, bytes.length) then
    { s with farRows := s.farRows ++ [(loc, bytes.length)] }
  else s

/-- Row `i` of an append written at its place, with a block allocated at a boundary (R223). -/
def appendRows (d : Nat) (c : LanternCmd) (q : LanternSeq) (ks vs : List (List Byte)) : List Nat → State → Except LanternStop State
  | [], s => .ok s
  | i :: is, s =>
    let layer := field c.record 4 1
    let head := field c.record 5 1
    let t := c.start + i
    let s1 := if t % 256 = 0 then allocLantern s d c q.id layer head (t / 256) else some s
    match s1 with
    | none => .error .wait
    | some s =>
      match blockLoc s d c q.id layer head (t / 256) with
      | .error e => .error e
      | .ok l =>
        let k := rowPlace q.e4m3 false t
        let v := rowPlace q.e4m3 true t
        let s := storeRow s (l + k.1) (storedRow q (q.sK.getD layer 0) (ks.getD i []))
        appendRows d c q ks vs is (storeRow s (l + v.1) (storedRow q (q.sV.getD layer 0) (vs.getD i [])))

/-- A sequence and its layer and head are there (R219). -/
def checkSeq (s : State) (d : Nat) (c : LanternCmd) (layer head : Option Nat) : Except LanternStop LanternSeq :=
  match (dieAt s d).seq c.ten (recSeq c.op c.record) with
  | none => .error (c.code 1)
  | some q =>
    if decide (q.layers ≤ layer.getD 0) || decide (q.heads ≤ head.getD 0) then .error (c.code 2) else .ok q

/-- The effect of a LAPP (R223). -/
def runAppend (s : State) (d : Nat) (c : LanternCmd) : Except LanternStop State :=
  let b := c.record
  let layer := field b 4 1
  let head := field b 5 1
  let n := field b 6 2
  match checkSeq s d c (some layer) (some head) with
  | .error e => .error e
  | .ok q =>
    if 2 ^ 31 ≤ c.start + n then .error (c.code 3)
    else
      match c.reads s [] (keyRanges b) with
      | .error e => .error e
      | .ok (ks, s) =>
        match c.reads s (keyRanges b) (valueRanges b) with
        | .error e => .error e
        | .ok (vs, s) =>
          match appendRows d c q ks vs (List.range n) s with
          | .error e => .error e
          | .ok s =>
            let x := dieAt s d
            .ok (setDie s d (x.setSeq c.ten q.id (some { q with lens := tset q.lens (layer * 128 + head) (c.start + n) })))

/-! Attention (R221, R222). -/

/-- The running state of one query row: marked NaN, m, l and the accumulators, as F32 codes. -/
structure RowState where
  bad : Bool
  m : Nat
  l : Nat
  acc : List Nat
deriving DecidableEq, Repr

/-- Before the first block. -/
def RowState.start : RowState := { bad := false, m := 0xFF800000, l := 0, acc := List.replicate 128 0 }

/-- An F32 sum and product, rounded to nearest even. -/
def add32 (x y : Nat) : Nat := roundNE fF32 (addF .rne (decodeF fF32 x) (decodeF fF32 y))
def mul32 (x y : Nat) : Nat := roundNE fF32 (mulF (decodeF fF32 x) (decodeF fF32 y))

/-- x − y (R222). -/
def sub32 (x y : Nat) : Nat := roundNE fF32 (addF .rne (decodeF fF32 x) (negF (decodeF fF32 y)))

/-- Exp2 of R222. -/
def exp2Of (x : Nat) : Nat := sfuWord .ex2 engineMode x

/-- The value of element `j` of a stored row (R217, R222). -/
def keyValue (q : LanternSeq) (scale : Word) (row : List Byte) (j : Nat) : FVal :=
  if q.e4m3 then mulF (decodeF fE4M3 (field row j 1)) (decodeF fF32 scale.toNat) else decodeF fBF16 (field row (2 * j) 2)

/-- The score of a token (R222). -/
def scoreOf (qs ks : List FVal) (scale : Nat) : Nat :=
  let g := fun i => windowSum (((qs.zip ks).drop (32 * i)).take 32 |>.map fun e => mulF e.1 e.2)
  mul32 (add32 (add32 (add32 (g 0) (g 1)) (g 2)) (g 3)) scale

/-- The larger of two F32 codes, neither NaN. -/
def maxCode32 (x y : Nat) : Nat := if cmpF (decodeF fF32 x) (decodeF fF32 y) < 0 then y else x

/-- One attended token's part (R222). -/
def addToken (mb : Nat) (r : RowState) (e : Nat × List FVal) : RowState :=
  let p := exp2Of (sub32 e.1 mb)
  { r with
    l := add32 r.l p
    acc := (r.acc.zip e.2).map fun z => roundNE fF32 (addF .rne (decodeF fF32 z.1) (mulF (decodeF fF32 p) z.2)) }

/-- One block: its attended tokens with their scores and V rows (R222). -/
def rowBlock (r : RowState) (ts : List (Nat × List FVal)) : RowState :=
  if ts.isEmpty || r.bad then r
  else if ts.any fun e => (decodeF fF32 e.1).isNan || decide (e.1 = 0x7F800000) then { r with bad := true }
  else
    let mb := ts.foldl (fun m e => maxCode32 m e.1) r.m
    if mb = 0xFF800000 then r
    else
      let c := exp2Of (sub32 r.m mb)
      let r : RowState := { r with l := mul32 r.l c, acc := r.acc.map fun x => mul32 x c }
      { ts.foldl (addToken mb) r with m := mb }

/-- The row's output elements and log-sum-exp (R222). -/
def rowResult (f32 : Bool) (r : RowState) : List Nat × Nat :=
  let f := if f32 then fF32 else fBF16
  if r.bad then (List.replicate 128 f.nanCode, 0x7FC00000)
  else if r.m = 0xFF800000 then (List.replicate 128 0, 0xFF800000)
  else
    (r.acc.map fun x => roundNE f (divF (decodeF fF32 x) (decodeF fF32 r.l)), add32 r.m (sfuWord .lg2 engineMode r.l))

/-- The end of the tokens that query row `r` attends (R221). -/
def rowEnd (b : List Byte) (r : Nat) : Nat :=
  if recCausal b then min (field b 32 4) (field b 12 4 + r + 1) else field b 32 4

/-- The blocks that hold an attended token of some row (R221). -/
def attended (b : List Byte) : List Nat :=
  let lo := field b 28 4
  let hi := rowEnd b (recR b - 1)
  if lo < hi then (List.range ((hi - 1) / 256 + 1)).drop (lo / 256) else []

/-- The tokens of block `n` that row `r` attends. -/
def rowTokens (b : List Byte) (n r : Nat) : List Nat :=
  (List.range 256).filterMap fun i =>
    let t := 256 * n + i
    if field b 28 4 ≤ t ∧ t < rowEnd b r then some t else none

/-- Bytes of a block: what this package has written to a block of another node, and free values where it has written nothing there
(R218, entry 40). -/
def blockData (s : State) (loc n : Nat) : List Byte :=
  if farBlock loc then
    (List.range n).map fun i =>
      if s.farRows.any fun r => decide (r.1 ≤ loc + i) && decide (loc + i < r.1 + r.2) then memByte s.mem (loc + i)
      else Config.freeByte s.fresh none (loc + i)
  else memBytes s.mem loc n

/-- K and V rows of the tokens of the blocks, as values. -/
def blockRows (s : State) (q : LanternSeq) (layer : Nat) (v : Bool) (l t : Nat) : List FVal :=
  let p := rowPlace q.e4m3 v t
  let row := blockData s (l + p.1) p.2
  (List.range 128).map fun j => keyValue q ((if v then q.sV else q.sK).getD layer 0) row j

/-- Query row (h, r) over the blocks (R222). -/
def queryRow (s : State) (q : LanternSeq) (b : List Byte) (locs : List (Nat × Nat)) (qrow : List Byte) (r : Nat) : RowState :=
  let qs := (List.range 128).map fun j => decodeF fBF16 (field qrow (2 * j) 2)
  let layer := field b 4 1
  locs.foldl (fun st e =>
    rowBlock st ((rowTokens b e.1 r).map fun t =>
      (scoreOf qs (blockRows s q layer false e.2 t) (field b 24 4), blockRows s q layer true e.2 t))) RowState.start

/-- Uncorrectable data in a row that is read (R227). -/
def rowsPoisoned (s : State) (q : LanternSeq) (b : List Byte) (locs : List (Nat × Nat)) : Bool :=
  !s.poison.isEmpty && locs.any fun e => (rowTokens b e.1 (recR b - 1)).any fun t =>
    let k := rowPlace q.e4m3 false t
    let v := rowPlace q.e4m3 true t
    poisoned s (e.2 + k.1) k.2 || poisoned s (e.2 + v.1) v.2

/-- The effect of an LQRY (R220 to R222, R316): O is written after LSE (entry 15). -/
def runQuery (s : State) (d : Nat) (c : LanternCmd) : Except LanternStop State :=
  let b := c.record
  let layer := field b 4 1
  let head := field b 5 1
  match checkSeq s d c (some layer) (some head) with
  | .error e => .error e
  | .ok q =>
    let len := min c.start (tgetD q.lens (layer * 128 + head) 0)
    if len < field b 32 4 then .error (c.code 3)
    else
      match blockLocs s d c q.id layer head (attended b) with
      | .error e => .error e
      | .ok locs =>
        if rowsPoisoned s q b locs then .error (.fail (mkTrap .poison 0 c.lanes))
        else
          let n := recG b * recR b
          match c.reads s [] (queryRanges b) with
          | .error e => .error e
          | .ok (qs, s) =>
            let res := (List.range n).map fun i => rowResult (recF32 b) (queryRow s q b locs (qs.getD i []) (i % recR b))
            let lse := (List.range n).map fun i => (recVa b 48 + BitVec.ofNat 64 (4 * i), leBytes 4 (res.getD i ([], 0)).2)
            let o := (List.range n).map fun i => (recVa b 40 + BitVec.ofNat 64 (128 * outBytes b * i),
              (res.getD i ([], 0)).1.flatMap fun x => leBytes (outBytes b) x)
            c.writes (dropFresh s) (queryRanges b) (lse ++ o)

/-! Control operations (R224, R225, R311, R312). -/

/-- Blocks of a die's tier; global numbers count over both (R312, entry 15). -/
def tierBlocks (tier : Nat) : Nat := Config.lanternBytes tier / Config.blockBytes
def globalBlocks : Nat := tierBlocks 1 + tierBlocks 2

/-- Returns a global block of the tenancy to its pool and removes its stage-2 entry; one of another tenancy stays (R225). -/
def releaseGlobal (s : State) (ten g : Nat) : State :=
  match stage2Of s g with
  | none => s
  | some (d, e) =>
    if e.ten ≠ ten then s
    else
      let x := dieAt s d
      setDie s d { x with
        stage2 := x.stage2.filter fun y => decide (y.global ≠ g)
        pool := x.pool ++ [{ ten := e.ten, tier := e.tier, phys := e.phys }] }

/-- Stage-1 entries of a tenancy that meet `p` removed, their blocks of this node freed. -/
def freeEntries (s : State) (d ten : Nat) (p : Stage1 → Bool) : State :=
  let x := dieAt s d
  let gone := x.stage1.filter p
  gone.foldl (fun s e => if e.node = Config.node then releaseGlobal s ten e.global else s)
    (setDie s d { x with stage1 := x.stage1.filter fun e => !p e })

/-- A global block of this node is owned by another tenancy (R225). -/
def foreign (s : State) (ten g : Nat) : Bool :=
  match stage2Of s g with
  | some (_, e) => decide (e.ten ≠ ten)
  | none => false

/-- A global block of any node is owned by another tenancy: the die of another node answers for its own (R225, entry 40). -/
def foreignAt (s : State) (ten node g : Nat) : Bool :=
  if node = Config.node then foreign s ten g else decide (farAnswer s node g = 2)

/-- CREATE (R217, R224, R311). -/
def runCreate (s : State) (d : Nat) (c : LanternCmd) : Except LanternStop State :=
  let b := c.record
  let id := recSeq c.op b
  let n := field b 8 1 + 1
  let q : LanternSeq := { ten := c.ten, id := id, layers := n, heads := field b 9 1 + 1, e4m3 := decide (field b 10 1 = 1), home := d,
                          sK := [], sV := [], lens := [] }
  if ((dieAt s 0).seq c.ten id).isSome || ((dieAt s 1).seq c.ten id).isSome then .error (c.code 1)
  else if q.e4m3 then
    match c.reads s [] [(recVa b 16, 8 * n)] with
    | .error e => .error e
    | .ok (bs, s) =>
      let at? := fun o i => BitVec.ofNat 32 (field (bs.headD []) (8 * i + o) 4)
      .ok (setDie s d ((dieAt s d).setSeq c.ten id (some { q with sK := (List.range n).map (at? 0), sV := (List.range n).map (at? 4) })))
  else .ok (setDie s d ((dieAt s d).setSeq c.ten id (some q)))

/-- FREE (R224). -/
def runFree (s : State) (d : Nat) (c : LanternCmd) : Except LanternStop State :=
  match checkSeq s d c none none with
  | .error e => .error e
  | .ok q =>
    let s := freeEntries s d c.ten fun e => decide (e.ten = c.ten) && decide (e.seq = q.id)
    .ok (setDie s d ((dieAt s d).setSeq c.ten q.id none))

/-- TRUNC (R224). -/
def runTrunc (s : State) (d : Nat) (c : LanternCmd) : Except LanternStop State :=
  let layer := field c.record 8 1
  let head := field c.record 9 1
  let n := field c.record 12 4
  match checkSeq s d c (some layer) (some head) with
  | .error e => .error e
  | .ok q =>
    if tgetD q.lens (layer * 128 + head) 0 < n then .error (c.code 3)
    else
      let s := freeEntries s d c.ten fun e =>
        decide (e.ten = c.ten) && decide (e.seq = q.id) && decide (e.layer = layer) && decide (e.head = head) && decide (n ≤ 256 * e.block)
      .ok (setDie s d ((dieAt s d).setSeq c.ten q.id (some { q with lens := tset q.lens (layer * 128 + head) n })))

/-- The entry a MAP1 or UNMAP1 names. -/
def names (c : LanternCmd) (q : LanternSeq) (e : Stage1) : Bool :=
  decide (e.ten = c.ten) && decide (e.seq = q.id) && decide (e.layer = field c.record 8 1) && decide (e.head = field c.record 9 1)
    && decide (e.block = field c.record 12 4)

/-- MAP1 (R224, R225, R311). -/
def runMap1 (s : State) (d : Nat) (c : LanternCmd) : Except LanternStop State :=
  let b := c.record
  let node := field b 16 2
  let g := field b 20 4
  match checkSeq s d c (some (field b 8 1)) (some (field b 9 1)) with
  | .error e => .error e
  | .ok q =>
    if globalBlocks ≤ g then .error (c.code 4)
    else if foreignAt s c.ten node g then .error (c.code 5)
    else
      let x := dieAt s d
      let e : Stage1 := { ten := c.ten, seq := q.id, layer := field b 8 1, head := field b 9 1, block := field b 12 4, node := node,
                          tier := field b 18 1, global := g }
      .ok (setDie s d { x with stage1 := (x.stage1.filter fun y => !names c q y) ++ [e] })

/-- UNMAP1 (R224, R225, R311). -/
def runUnmap1 (s : State) (d : Nat) (c : LanternCmd) : Except LanternStop State :=
  match checkSeq s d c (some (field c.record 8 1)) (some (field c.record 9 1)) with
  | .error e => .error e
  | .ok q =>
    let x := dieAt s d
    if x.stage1.any fun e => names c q e && foreignAt s c.ten e.node e.global then .error (c.code 5)
    else .ok (setDie s d { x with stage1 := x.stage1.filter fun y => !names c q y })

/-- A physical block of die `d` is in another tenancy's pool or holds one of its global blocks (R225). -/
def physForeign (s : State) (d ten tier phys : Nat) : Bool :=
  ((dieAt s d).pool.any fun p => decide (p.ten ≠ ten) && decide (p.tier = tier) && decide (p.phys = phys))
    || (dieAt s d).stage2.any fun e => decide (e.ten ≠ ten) && decide (e.tier = tier) && decide (e.phys = phys)

/-- MAP2 (R224, R225): the global block's entry on this die, and on no other of the node. -/
def runMap2 (s : State) (d : Nat) (c : LanternCmd) : Except LanternStop State :=
  let b := c.record
  let g := field b 8 4
  let tier := field b 12 1
  let phys := field b 16 4
  if globalBlocks ≤ g ∨ tierBlocks tier ≤ phys then .error (c.code 4)
  else if foreign s c.ten g || physForeign s d c.ten tier phys then .error (c.code 5)
  else
    let x := dieAt s d
    let s := { s with lanterns := s.lanterns.map fun y => { y with stage2 := y.stage2.filter fun e => decide (e.global ≠ g) } }
    .ok (setDie s d { x with
      stage2 := (x.stage2.filter fun e => decide (e.global ≠ g)) ++ [{ global := g, tier := tier, phys := phys, ten := c.ten }]
      pool := x.pool.filter fun p => !(decide (p.tier = tier) && decide (p.phys = phys)) })

/-- POOL (R224, R225). -/
def runPool (s : State) (d : Nat) (c : LanternCmd) : Except LanternStop State :=
  let b := c.record
  let tier := field b 9 1
  let first := field b 12 4
  let n := field b 16 4
  if tierBlocks tier < first + n then .error (c.code 4)
  else if (List.range n).any fun i => physForeign s d c.ten tier (first + i) then .error (c.code 5)
  else
    let x := dieAt s d
    let held := fun ph => (x.pool.any fun p => decide (p.tier = tier) && decide (p.phys = ph))
      || x.stage2.any fun e => decide (e.tier = tier) && decide (e.phys = ph)
    let add := ((List.range n).map fun i => first + i).filter fun ph => !held ph
    .ok (setDie s d { x with pool := x.pool ++ add.map fun ph => { ten := c.ten, tier := tier, phys := ph } })

/-- SETTIER: the block moves, with its uncorrectable marks, and stage 2 is rewritten (R224, R225, R312). -/
def runSettier (s : State) (d : Nat) (c : LanternCmd) : Except LanternStop State :=
  let g := field c.record 8 4
  let tier := field c.record 12 1
  if globalBlocks ≤ g then .error (c.code 4)
  else if foreign s c.ten g then .error (c.code 5)
  else
    let x := dieAt s d
    match x.stage2.find? fun e => decide (e.global = g) with
    | none => .error (c.miss 1 0 0 0)
    | some e =>
      if e.tier = tier then .ok s
      else
        match x.pool.find? fun p => decide (p.ten = c.ten) && decide (p.tier = tier) with
        | none => .error .wait
        | some p =>
          let src := lanternLoc d e.tier (e.phys * Config.blockBytes)
          let dst := lanternLoc d tier (p.phys * Config.blockBytes)
          let marks := marksOf s src Config.blockBytes
          let s := markBytes (writeBytes s none dst (memBytes s.mem src Config.blockBytes)) dst marks
          .ok (setDie s d { x with
            pool := x.pool.erase p ++ [{ ten := c.ten, tier := e.tier, phys := e.phys }]
            stage2 := x.stage2.map fun y => if y.global = g then { y with tier := tier, phys := p.phys } else y })

/-- PFMODE (R224, R226). -/
def runPfmode (s : State) (d : Nat) (c : LanternCmd) : Except LanternStop State :=
  .ok (setDie s d { dieAt s d with mode := field c.record 9 1 })

/-- LPF (R226, R314). -/
def runHint (s : State) (d : Nat) (c : LanternCmd) : Except LanternStop State :=
  let layer := field c.record 4 1
  match checkSeq s d c (some layer) none with
  | .error e => .error e
  | .ok q =>
    let x := dieAt s d
    .ok (if x.mode = 2 then s else setDie s d { x with hints := x.hints ++ [(c.ten, q.id, layer)] })

/-! Running commands. -/

/-- The die without a command. -/
def dropCmd (s : State) (d id : Nat) : State :=
  let x := dieAt s d
  setDie s d { x with cmds := x.cmds.filter fun c => decide (c.id ≠ id) }

/-- The command is made again in the next cycle. -/
def retryCmd (s : State) (d id : Nat) : State :=
  let x := dieAt s d
  setDie s d { x with cmds := x.cmds.map fun e => if e.id = id then { e with due := s.now + 1 } else e }

/-- The effect of a command of the die that is ready and meets `p`: it completes, parks, waits, or stops (R138, R173, R174). It waits
until every slice that it reaches runs (R258). -/
def lanternEvent (s : State) (d id : Nat) (p : LanternCmd → Bool) (f : State → Nat → LanternCmd → Except LanternStop State) :
    Host.Outcome State Fault Refusal :=
  match (dieAt s d).cmds.find? fun c => decide (c.id = id) with
  | none => .next s
  | some c =>
    if !(p c && cmdReady s d c) then .next s
    else if asleep s (touchSlices s c.req c.touches) then .next (retryCmd (wakeAll s (touchSlices s c.req c.touches)) d id)
    else
      match f s d c with
      | .ok s => .next (updWarp (dropCmd s d id) c.slot fun w => leaveBatch w .A id none)
      | .error (.fail t) => .next (updWarp (dropCmd s d id) c.slot fun w => leaveBatch w .A id (some t))
      | .error (.park fs) =>
        let y := putFaults s fs
        let x := dieAt y.1 d
        .next (setDie y.1 d { x with cmds := x.cmds.map fun e => if e.id = id then { e with faults := y.2 } else e })
      | .error .wait => .next (retryCmd s d id)

/-- The command is the control operation `op`. -/
def isControl (op : Nat) (c : LanternCmd) : Bool := decide (c.op = .control) && decide (recOp c.record = op)

/-- LANTERN_APPEND (R223). -/
def execLanternAppend (die cmd : Nat) (s : State) : Host.Outcome State Fault Refusal :=
  lanternEvent s die cmd (fun c => decide (c.op = .append)) runAppend

/-- LANTERN_QUERY (R222). -/
def execLanternQuery (die cmd : Nat) (s : State) : Host.Outcome State Fault Refusal :=
  lanternEvent s die cmd (fun c => decide (c.op = .query)) runQuery

/-- LCTL_CREATE (R224). -/
def execLctlCreate (die cmd : Nat) (s : State) : Host.Outcome State Fault Refusal :=
  lanternEvent s die cmd (isControl 0) runCreate

/-- LCTL_FREE (R224). -/
def execLctlFree (die cmd : Nat) (s : State) : Host.Outcome State Fault Refusal :=
  lanternEvent s die cmd (isControl 1) runFree

/-- LCTL_TRUNC (R224). -/
def execLctlTrunc (die cmd : Nat) (s : State) : Host.Outcome State Fault Refusal :=
  lanternEvent s die cmd (isControl 2) runTrunc

/-- LCTL_MAP1 (R311). -/
def execLctlMap1 (die cmd : Nat) (s : State) : Host.Outcome State Fault Refusal :=
  lanternEvent s die cmd (fun c => isControl 3 c && decide (field c.record 1 1 = 0)) runMap1

/-- LCTL_UNMAP1 (R311). -/
def execLctlUnmap1 (die cmd : Nat) (s : State) : Host.Outcome State Fault Refusal :=
  lanternEvent s die cmd (fun c => isControl 3 c && decide (field c.record 1 1 = 1)) runUnmap1

/-- LCTL_MAP2 (R224). -/
def execLctlMap2 (die cmd : Nat) (s : State) : Host.Outcome State Fault Refusal :=
  lanternEvent s die cmd (isControl 4) runMap2

/-- LCTL_POOL (R225). -/
def execLctlPool (die cmd : Nat) (s : State) : Host.Outcome State Fault Refusal :=
  lanternEvent s die cmd (isControl 5) runPool

/-- LCTL_SETTIER (R224). -/
def execLctlSettier (die cmd : Nat) (s : State) : Host.Outcome State Fault Refusal :=
  lanternEvent s die cmd (isControl 6) runSettier

/-- LCTL_PFMODE (R224). -/
def execLctlPfmode (die cmd : Nat) (s : State) : Host.Outcome State Fault Refusal :=
  lanternEvent s die cmd (isControl 7) runPfmode

/-- LANTERN_PREFETCH_HINT (R226, R314). -/
def execLanternPrefetchHint (die cmd : Nat) (s : State) : Host.Outcome State Fault Refusal :=
  lanternEvent s die cmd (fun c => decide (c.op = .hint)) runHint

/-! Prefetching (R226). -/

/-- The block a stage-1 entry maps to lies in tier 2; one without a mapping does not (R226). Of a block of another node, the entry says
its tier. -/
def Stage1.cold (s : State) (e : Stage1) : Bool :=
  if e.node ≠ Config.node then decide (e.tier = 2) && decide (farAnswer s e.node e.global = 0)
  else
    match stage2Of s e.global with
    | some (_, x) => decide (x.tier = 2) && decide (x.ten = e.ten)
    | none => false

/-- Blocks in tier 2 of a sequence's layer, as node × 2^32 + global number; a missing mapping is passed over (R226). -/
def coldBlocks (s : State) (d : Nat) (ten seq layer : Nat) : List Nat :=
  ((dieAt s d).stage1.filter fun e => decide (e.ten = ten) && decide (e.seq = seq) && decide (e.layer = layer) && e.cold s).map fun e =>
    e.node * 2 ^ 32 + e.global

/-- The blocks the prefetcher puts into the idle buffer (R226). -/
def fillBlocks (s : State) (d : Nat) : List Nat :=
  let x := dieAt s d
  let auto := if x.mode = 0 then x.seen.flatMap fun q => coldBlocks s d q.1 q.2.1 (q.2.2 + 1) else []
  let hinted := if x.mode = 2 then [] else x.hints.flatMap fun h => coldBlocks s d h.1 h.2.1 h.2.2
  (auto ++ hinted).filter fun g => !x.filling.contains g

/-- The prefetcher has something to fill. -/
def fillDue (s : State) (d : Nat) : Bool := !(fillBlocks s d).isEmpty || !(dieAt s d).hints.isEmpty

/-- STAGING_FILL (R226). -/
def execStagingFill (die : Nat) (s : State) : Host.Outcome State Fault Refusal :=
  let x := dieAt s die
  .next (setDie s die { x with filling := x.filling ++ (fillBlocks s die).eraseDups, hints := [] })

/-- Lantern commands that wait for a record meeting `pr` are made again (R138, R141). -/
def replayLanterns (s : State) (pr : FaultRef → Bool) : State :=
  let again := fun (c : LanternCmd) => if c.faults.any pr then { c with faults := [], due := s.now + 1 } else c
  { s with lanterns := s.lanterns.map fun x => { x with cmds := x.cmds.map again } }

/-- REMOTE_BLOCK_FETCH: the die of another node reads, for a tenancy, a global block that Lantern die `die` of this node holds, by
stage 2 of the named die (R218). A block of another tenancy is not given (R225). -/
def execRemoteBlockFetch (who : BlockAsker) (die global : Nat) (s : State) : Host.Outcome State Fault Refusal :=
  if who.node = Config.node then .next s
  else
    match (dieAt s die).stage2.find? fun e => decide (e.global = global) && decide (e.ten = who.ten) with
    | none => .next { s with remoteResp := some .error }
    | some e =>
      .next { s with remoteResp := some (.data (memBytes s.mem (lanternLoc die e.tier (e.phys * Config.blockBytes)) Config.blockBytes)) }

end Sys2Proof.Machine
end

