-- ==== Sys2Proof/Machine/Objects.lean ====
section
/-! DEFINITION. Code objects: the header and its tables, the choice of an image, the check of a T1 image (R68, R251 to R254). -/

namespace Sys2Proof.Machine

/-- An image table entry (R251). -/
structure ImageEntry where
  rev : Nat
  mask : Nat
  off : Nat
  size : Nat
deriving DecidableEq, Repr

/-- A symbol table entry (R254). -/
structure Symbol where
  kind : Nat
  image : Nat
  value : Nat
  size : Nat
deriving DecidableEq, Repr

/-- A code object read (R251, R254). -/
structure CodeObject where
  images : List ImageEntry
  symbols : List Symbol
  binds : List (Nat × Nat)
deriving DecidableEq, Repr

/-- `n` bytes from `o` on are zero. -/
def zeroField (b : List Byte) (o n : Nat) : Bool := decide (field b o n = 0)

/-- A name: an offset in the string table, with its ending zero inside it (R254). -/
def nameOk (b : List Byte) (strT strS name : Nat) : Bool :=
  decide (name < strS) && ((b.drop (strT + name)).take (strS - name)).any fun x => decide (x = 0)

/-- The image table entry at `o` (R251). -/
def readImage (b : List Byte) (o : Nat) : Option ImageEntry :=
  let e : ImageEntry := { rev := field b o 4, mask := field b (o + 4) 4, off := field b (o + 8) 4, size := field b (o + 12) 4 }
  if 1 ≤ e.rev ∧ e.rev ≤ 3 ∧ e.off + e.size ≤ b.length then some e else none

/-- A keg descriptor of a kernel descriptor: COUNT and the reserved bits are zero (R36, R254). DESIGN CHOICE (entry 51): a word with a
reserved bit set lies outside R254's ranges, and the object is refused with BADOBJ; R5 could have the bit ignored. -/
def kegWordOk (w : Nat) : Bool := decide (w % 4096 = 0)

/-- The kernel descriptor at offset `o` of an image (R254). -/
def readKernel (b : List Byte) (im : ImageEntry) (o : Nat) : Option Kernel :=
  let p := im.off + o
  let k : Kernel :=
    { entry := field b p 8, warps := field b (p + 8) 1, allot := field b (p + 9) 1, brew := field b (p + 10) 1
      sram := field b (p + 12) 4, kegs := (List.range 8).map fun i => BitVec.ofNat 32 (field b (p + 16 + 4 * i) 4) }
  if o % 64 = 0 ∧ o + 64 ≤ im.size ∧ k.entry % 4 = 0 ∧ k.entry + 4 ≤ im.size ∧ 1 ≤ k.warps ∧ k.warps ≤ 64 ∧ k.allot ≤ 10
      ∧ k.brew ≤ 32 ∧ k.brew % 4 = 0 ∧ k.sram % 256 = 0 ∧ k.sram ≤ Config.sliceBytes
      ∧ ((List.range 8).all fun i => kegWordOk (field b (p + 16 + 4 * i) 4)) ∧ zeroField b (p + 11) 1 ∧ zeroField b (p + 48) 16 then
    some k
  else none

/-- The symbol table entry at `o` (R254). -/
def readSymbol (b : List Byte) (strT strS : Nat) (ims : List ImageEntry) (o : Nat) : Option Symbol :=
  let y : Symbol := { kind := field b (o + 4) 1, image := field b (o + 5) 1, value := field b (o + 8) 8, size := field b (o + 16) 8 }
  match ims[y.image]? with
  | none => none
  | some im =>
    if nameOk b strT strS (field b o 4) ∧ y.kind ≤ 2 ∧ zeroField b (o + 6) 2 ∧ zeroField b (o + 24) 8
        ∧ y.value + y.size ≤ im.size ∧ (y.kind ≠ 2 ∨ (readKernel b im y.value).isSome) then
      some y
    else none

/-- The binding table entry at `o`: image and blob offset (R254). -/
def readBinding (b : List Byte) (strT strS : Nat) (ims : List ImageEntry) (o : Nat) : Option (Nat × Nat) :=
  let im := field b (o + 4) 1
  let off := field b (o + 8) 8
  match ims[im]? with
  | none => none
  | some e =>
    if nameOk b strT strS (field b o 4) ∧ zeroField b (o + 5) 3 ∧ off % 16 = 0 ∧ off + 16 ≤ e.size then some (im, off) else none

/-- `n` entries of `size` bytes from `o` on, all of them sound. -/
def readTable {α : Type} (f : Nat → Option α) (o size : Nat) : Nat → Option (List α)
  | 0 => some []
  | n + 1 =>
    match f o, readTable f (o + size) size n with
    | some x, some r => some (x :: r)
    | _, _ => none

/-- The code object, or none where LOAD completes with BADOBJ (R248, R251, R254). -/
def readObject (b : List Byte) : Option CodeObject :=
  let imN := field b 4 4
  let imT := field b 8 4
  let syT := field b 12 4
  let syN := field b 16 4
  let bnT := field b 20 4
  let bnN := field b 24 4
  let stT := field b 28 4
  let stS := field b 32 4
  if b.length < 64 ∨ field b 0 4 ≠ 0x4F435954 ∨ !zeroField b 36 28 ∨ b.length < imT + 16 * imN ∨ b.length < syT + 32 * syN
      ∨ b.length < bnT + 16 * bnN ∨ b.length < stT + stS then none
  else
    match readTable (readImage b) imT 16 imN with
    | none => none
    | some ims =>
      match readTable (readSymbol b stT stS ims) syT 32 syN, readTable (readBinding b stT stS ims) bnT 16 bnN with
      | some sy, some bn => some { images := ims, symbols := sy, binds := bn }
      | _, _ => none

/-- The image qualifies: its feature mask holds no bit but 0 to 7 (R251). -/
def ImageEntry.qualifies (e : ImageEntry) : Bool := decide (e.mask < 256)

/-- The first qualifying image of a revision, with its index. -/
def firstOfRev (ims : List ImageEntry) (rev : Nat) : Option (Nat × ImageEntry) :=
  ((List.range ims.length).zip ims).find? fun e => decide (e.2.rev = rev) && e.2.qualifies

/-- The image LOAD selects (R251). -/
def selectImage (ims : List ImageEntry) : Option (Nat × ImageEntry) :=
  match firstOfRev ims 3, firstOfRev ims 2 with
  | some e, _ => some e
  | none, some e => some e
  | none, none => firstOfRev ims 1

/-! Revisions (R68, R70, R71, R76). -/

/-- A number lies in one of the ranges. -/
def inRanges (n : Nat) (rs : List (Nat × Nat)) : Bool := rs.any fun r => decide (r.1 ≤ n) && decide (n ≤ r.2)

/-- The word holds an opcode marked T2 or T3 (R68). -/
def laterRev (w : Word) : Bool :=
  let c := (w.extractLsb' 30 2).toNat
  if c = 0 then
    inRanges (w.extractLsb' 21 9).toNat
      [(0x30, 0x37), (0x50, 0x53), (0x5B, 0x5B), (0x5F, 0x5F), (0x78, 0x7F), (0x80, 0x82), (0x88, 0x8A), (0x90, 0x99), (0xC0, 0xC0)]
  else if c = 2 then
    inRanges (w.extractLsb' 22 8).toNat
      [(0x28, 0x29), (0x30, 0x33), (0x3B, 0x3B), (0x49, 0x53), (0x58, 0x62), (0x68, 0x6B), (0x70, 0x75), (0x78, 0x7B), (0x84, 0x84),
       (0x88, 0x89)]
  else false

/-- The instruction words of a clause body of `n` words hold no later opcode; literals are passed over (R43, R68). -/
def bodyT1 : Nat → Nat → List Word → Bool
  | 0, _, _ => true
  | _, _, [] => true
  | n + 1, skip, w :: r =>
    if 0 < skip then bodyT1 n (skip - 1) r else !laterRev w && bodyT1 n (litCount (decodeWord w)) r

/-- The clauses that follow one another from a known one hold no later opcode. The zero words with which `.align` pads lie between
clauses (R63), and the run ends at the first other word that is neither a header nor in a binding entry (R252, entry 18). -/
def codeT1 (binds : List Nat) : Nat → Nat → List Word → Bool
  | 0, _, _ => true
  | _, _, [] => true
  | fuel + 1, off, w :: r =>
    if binds.contains off then codeT1 binds fuel (off + 16) (r.drop 3)
    else
      match decodeHeader w with
      | none => if w = 0 then codeT1 binds fuel (off + 4) r else true
      | some h =>
        let n := h.len.toNat + 1
        bodyT1 n 0 r && codeT1 binds fuel (off + 4 * (n + 1)) (r.drop n)

/-- The words of bytes. -/
def wordsOf : Nat → List Byte → List Word
  | 0, _ => []
  | n + 1, b => BitVec.ofNat 32 (leNat (b.take 4)) :: wordsOf n (b.drop 4)

/-- The kernels of the selected image by symbol index (R254). -/
def kernelsOf (b : List Byte) (x : CodeObject) (n : Nat) (im : ImageEntry) : Table Kernel :=
  ((List.range x.symbols.length).zip x.symbols).filterMap fun e =>
    if e.2.kind = 2 ∧ e.2.image = n then (readKernel b im e.2.value).map fun k => (e.1, k) else none

/-- The binding entries of the selected image (R253). -/
def bindsOf (x : CodeObject) (n : Nat) : List Nat := x.binds.filterMap fun e => if e.1 = n then some e.2 else none

/-- Where the code section of image `n` ends at the latest: at the first data symbol or kernel descriptor, which lie in the sections
after it (R254, entry 18). -/
def codeLimit (x : CodeObject) (n size : Nat) : Nat :=
  (x.symbols.filter fun y => decide (y.image = n) && decide (y.kind ≠ 1)).foldl (fun m y => min m y.value) size

/-- Where a clause of image `n` is known to start: at the blob's start, a code label, or a kernel's entry (R63, R254). -/
def codeStarts (b : List Byte) (x : CodeObject) (n : Nat) (im : ImageEntry) : List Nat :=
  0 :: ((x.symbols.filter fun y => decide (y.image = n) && decide (y.kind = 1)).map fun y => y.value)
    ++ (kernelsOf b x n im).map fun k => k.2.entry

/-- The code section of a T1 image holds no later opcode (R68, R252). -/
def soundT1 (b : List Byte) (x : CodeObject) (n : Nat) (im : ImageEntry) : Bool :=
  let ws := wordsOf (codeLimit x n im.size / 4) (b.drop im.off)
  (codeStarts b x n im).all fun o => codeT1 (bindsOf x n) (ws.length + 1) o (ws.drop (o / 4))

/-- What LOAD makes of a code object at `va`: the handle without its reference, or the status it completes with. The image stays
where it lies in the object (entry 18). -/
def loadObject (b : List Byte) (va : DWord) (ten : Nat) : Except Status Handle :=
  match readObject b with
  | none => .error .badObj
  | some x =>
    match selectImage x.images with
    | none => .error .noImage
    | some (n, im) =>
      let binds := bindsOf x n
      if im.rev = 1 && !soundT1 b x n im then .error .badIsa
      else
        .ok { ten := ten, cb := va + BitVec.ofNat 64 im.off, size := im.size, t1 := decide (im.rev = 1)
              kernels := kernelsOf b x n im, binds := binds, refs := [] }

end Sys2Proof.Machine
end

