-- ==== Sys2Proof/Machine/Traps.lean ====
section
/-! DEFINITION. Trap words, undefined words, clause starts, deferred traps, breakpoints and the return from a trap (R27, R45, R46,
R75, R78, R88, R227 to R233, R237, R253, R266, R350, R355). -/

namespace Sys2Proof.Machine

/-- SVC (R233, R350). -/
def execSvc (x : BitVec 6) (imm : Half) (s : State) : Host.Outcome State Fault Refusal :=
  runWord .scalar false (.svc x imm) s fun cx _ _ => .error (.trap (mkTrap .svc (imm.setWidth 32) (eff s cx)))

/-- BKPT (R237, R266): the warp stops, and the trap is delivered once its flags are idle. -/
def execBkpt (x : BitVec 6) (imm : Half) (s : State) : Host.Outcome State Fault Refusal :=
  runWord .scalar false (.bkpt x imm) s fun cx _ s =>
    let t := mkTrap .bkpt (imm.setWidth 32) (eff s cx)
    .ok (updWarp s cx.k fun w =>
      ({ w with bkpt := some (cx.j, t) }).updSplit cx.j fun sp => sp.issued s.now, .done)

/-- The halted warp shows the results of every issued word: its breakpoint can be delivered (R237), unless another split is in a
handler or the warp waits on the trap ring (R231). -/
def bkptReady (w : Warp) : Bool := w.bkpt.any (fun b => !w.bars b.1) && flagsIdle w && w.pend.isEmpty

/-- BKPT_DELIVERY (R237, R266). -/
def execBkptDelivery (slot : Nat) (s : State) : Host.Outcome State Fault Refusal :=
  match warpAt s slot with
  | none => .next s
  | some w =>
    match w.bkpt with
    | none => .next s
    | some (j, t) =>
      if !bkptReady w then .next s
      else
        let s := updWarp s slot fun w => { w with bkpt := none }
        match cxAt s slot j with
        | none => .next s
        | some cx =>
          let npc := cx.sp.pc + 4
          .next (takeTrap s slot j t cx.sp.pc npc (hdrFor cx.sp npc) false)

/-- The slot rule of an unassigned word (R78): the vector opcodes 0x000 to 0x09F and 0x0C0 are checked under the effective mask
and use the vector slot. -/
def unassignedRule (w : Word) : IssueRule :=
  let op := (w.extractLsb' 21 9).toNat
  if (w.extractLsb' 30 2).toNat = 0 ∧ (op < 0xA0 ∨ op = 0xC0) then .vector false else .scalar

/-- An unassigned opcode of class V or S (R78). -/
def execUnassignedOpcode (w : Word) (s : State) : Host.Outcome State Fault Refusal :=
  runWord (unassignedRule w) false (.unassignedOpcode w) s fun cx _ _ => .error (.trap (mkTrap .und w (eff s cx)))

/-- A word of class H in a body (R46, R75). -/
def execUndefinedClassH (w : Word) (s : State) : Host.Outcome State Fault Refusal :=
  runWord .scalar false (.undefinedClassH w) s fun cx _ _ => .error (.trap (mkTrap .und w (eff s cx)))

/-! The return from a trap (R233, R355). -/

/-- SVSP as it was at spawn (R230). -/
def svspBase (w : Warp) : Word := w.sbase - 1536

/-- S0 and S1 as a frame saved them (R232, R233). -/
def restoreS01 (w : Warp) (f : List Byte) : Warp :=
  (w.putS 0 (BitVec.ofNat 32 (field f 48 4))).putS 1 (BitVec.ofNat 32 (field f 52 4))

/-- A popped frame put back, at `npc`; a split without a lane is removed as under EXITL (R89, R233). -/
def resumeAtFrame (s : State) (k j : Nat) (f : List Byte) (npc : DWord) : Except Stop State :=
  let s := updWarp s k fun w => resumeFrame (restoreS01 w f) j f npc
  match cxAt s k j with
  | none => .ok s
  | some cx => if cx.sp.mask = 0 then removeSplit s k j 40 cx.sp.path else .ok s

/-- The split as a word sees it that its guard does not bind. -/
def Cx.unguarded (cx : Cx) : Cx := { cx with w := { cx.w with mode := 0 } }

/-- TRET (R233, R355): whatever the guard, which counts as all lanes (DEDUCED, entry 34). -/
def execTret (x : BitVec 6) (imm : Half) (s : State) : Host.Outcome State Fault Refusal :=
  runWord .always false (.tret x imm) s fun cx _ s =>
    let e := cx.sp.mask
    if !cx.w.service then .error (.trap (mkTrap .priv 0x86 e))
    else if cx.w.svsp = svspBase cx.w then .error (.trap (mkTrap .stack cx.w.svsp e))
    else
      afterSettle .always s cx fun s =>
        match stackLoad s cx.unguarded (stackVa cx.w (cx.w.svsp - 64)) 64 with
        | .error t => .error t
        | .ok (f, s) =>
          let s := updWarp (markIssued s cx) cx.k fun w => { w with svsp := w.svsp - 64 }
          match resumeAtFrame s cx.k cx.j f (BitVec.ofNat 64 (field f 16 8)) with
          | .error t => .error t
          | .ok s => .ok (s, .done)

/-! Clause starts (R45, R46, R233, R253). -/

/-- A fetch that goes wrong at `pc` is a trap there (R232, R233). -/
def atAddr (pc : DWord) : Stop → Stop
  | .trap t => .trapAt t pc
  | .trapHere t => .trapAt t pc
  | e => e

/-- The split stands in the clause whose header, at `h`, is `w`, before the word at `pc`, `left` words left and of them `held`
held (R198). -/
def Split.enter (sp : Split) (wake : Nat) (h : DWord) (w : Word) (pc : DWord) (left : Nat) (held : List Word) : Split :=
  { sp with
    pc := pc, clause := some { addr := h, word := w, left := left, held := held }, resumeAt := none
    lastPass := none, wakeAt := wake, park := .running }

/-- The split starts the clause at its PC: its wait mask holds it back while a flag is pending; a word that is no header
raises UND, or LINK in an unbound binding entry (R46, R88, R253). -/
def startClause (s : State) (cx : Cx) : Host.Outcome State Fault Refusal :=
  let pc := cx.sp.pc
  match fetchWord s cx pc with
  | .error e => finishStop s (unpark s cx) cx 0 (atAddr pc e)
  | .ok (w, s1) =>
    match decodeHeader w with
    | some h =>
      if flagsClear cx.w h.wm then
        let b := fetchBody cx (h.len.toNat + 1) (pc + 4) 0 s1
        .next (dropTime (updSplit b.2 cx.k cx.j fun sp => sp.enter (s.now + nextTime s) pc w (pc + 4) (h.len.toNat + 1) b.1))
      else .next (updSplit s cx.k cx.j fun sp => { sp with wakeAt := s.now + 1 })
    | none =>
      if decide (w = unboundMark) && isBinding s cx.w.ten pc then finishStop s1 (unpark s1 cx) cx 0 (linkFault cx pc (eff s cx))
      else finishStop s1 s1 cx 0 (.trapAt (mkTrap .und w cx.sp.mask) pc)

/-- The split goes on inside the clause whose header, at `hdr`, is `w`, at the word it stands at, with `left` words left: that
word is fetched (R198, R233). -/
def resumeInside (s : State) (cx : Cx) (hdr : DWord) (w : Word) (left : Nat) : Host.Outcome State Fault Refusal :=
  let pc := cx.sp.pc
  match fetchWord s cx pc with
  | .error e => finishStop s (unpark s cx) cx 0 (atAddr pc e)
  | .ok (x, s1) =>
    let b := fetchBody cx (left - 1) (pc + 4) (litCount (decodeWord x)) s1
    .next (dropTime (updSplit b.2 cx.k cx.j fun sp => sp.enter (s.now + nextTime s) hdr w pc left (x :: b.1)))

/-- After TRET the word at HDR is read: the split goes on inside its clause, or at a clause start (R233). -/
def resumeClause (s : State) (cx : Cx) (hdr : DWord) : Host.Outcome State Fault Refusal :=
  if hdr = cx.sp.pc then startClause s cx
  else
  match fetchWord s cx hdr with
  | .error e => finishStop s (unpark s cx) cx 0 (atAddr hdr e)
  | .ok (w, s1) =>
    match decodeHeader w with
    | none => finishStop s1 s1 cx 0 (.trapAt (mkTrap .und w cx.sp.mask) hdr)
    | some h =>
      let off := (cx.sp.pc - hdr).toNat
      if off % 4 = 0 ∧ 0 < off ∧ off ≤ 4 * (h.len.toNat + 1) then
        resumeInside s1 cx hdr w (h.len.toNat + 2 - off / 4)
      else .next (updSplit s1 cx.k cx.j fun sp => { sp with resumeAt := none, park := .running })

/-- CLAUSE_START: the split in focus stands at a clause start, or returns into a clause (entry 10). -/
def execClauseStart (s : State) : Host.Outcome State Fault Refusal :=
  match focus s with
  | none => .next s
  | some cx =>
    match cx.sp.clause, cx.sp.resumeAt with
    | some _, _ => .next s
    | none, some h => resumeClause s cx h
    | none, none => startClause s cx

/-! Deferred traps (R229, R231). -/

/-- The split is a taken side that a live record holds: it takes its traps once it goes on (R229, R389). -/
def Warp.holds (w : Warp) (j : Nat) : Bool := w.spills.any fun r => r.joinAt.isSome && decide (r.owner = j)

/-- The split that takes a deferred trap: that of a waiting EXIT, or else its own, or the live one with the lowest index (R229). -/
def takerOf (w : Warp) (d : DeferredTrap) : Nat :=
  if w.park = some .exiting then w.parkSplit
  else if (tget w.splits d.split).isSome || w.holds d.split then d.split else ((w.splits.head?).map fun e => e.1).getD 0

/-- The warp stands where a deferred trap may interrupt it: at a word not yet executed, or at a waiting EXIT, whose siblings may still wait
for a replay (R229, R282). -/
def parkAllows (w : Warp) : Bool :=
  match w.park with
  | none => true
  | some (.keg _) => true
  | some (.arrival _ _) => true
  | some .wake => true
  | some .exiting => true
  | _ => false

/-- Split `j` is at an instruction boundary. -/
def atBoundary (w : Warp) (j : Nat) : Bool :=
  !(w.ops.any fun o => o.blocks && decide (o.split = j)) && !w.faultBefore j
    && (match tget w.splits j with
        | none => false
        | some sp =>
          match sp.park with
          | .running => true
          | .presence => true
          | .fault _ => true
          | .fence _ => true
          | _ => false)

/-- The deferred trap of a warp that is delivered next, with its taker: the lowest class first (R229, entry
22). -/
def deferredNext (w : Warp) : Option (DeferredTrap × Nat) :=
  if !parkAllows w || w.bkpt.isSome then none
  else
    (w.deferred.filter fun d => !w.bars (takerOf w d) && atBoundary w (takerOf w d)).foldl (fun r d =>
      match r with
      | none => some (d, takerOf w d)
      | some x => if classNo d.trap.cls < classNo x.1.trap.cls then some (d, takerOf w d) else r) none

/-- NPC and HDR of a deferred trap that split `j` takes: those it came with, or those of the boundary (R229, R231). -/
def DeferredTrap.returnsTo (d : DeferredTrap) (j : Nat) (cx : Cx) : DWord × DWord :=
  match d.back with
  | some b => if d.split = j then b else (cx.sp.pc, hdrFor cx.sp cx.sp.pc)
  | none => (cx.sp.pc, hdrFor cx.sp cx.sp.pc)

/-- DEFERRED_TRAP: the warp in slot `slot` takes a deferred trap at an instruction boundary (R229). -/
def execDeferredTrap (slot : Nat) (s : State) : Host.Outcome State Fault Refusal :=
  match warpAt s slot with
  | none => .next s
  | some w =>
    match deferredNext w with
    | none => .next s
    | some (d, j) =>
      let s := updWarp s slot fun w => { w with deferred := w.deferred.erase d }
      match cxAt s slot j with
      | none => .next s
      | some cx =>
        let back := d.returnsTo j cx
        .next (takeTrap s slot j d.trap d.pc back.1 back.2 d.late)

/-- STARVATION_PRIORITY: a split that has not issued for 64 cycles gains the first place (R27). -/
def execStarvationPriority (slot split : Nat) (s : State) : Host.Outcome State Fault Refusal :=
  .next (updSplit s slot split fun sp => if sp.lastIssue + 64 ≤ s.now then { sp with starving := true } else sp)

end Sys2Proof.Machine
end

