-- ==== Sys2Proof/Machine/Place.lean ====
section
/-! DEFINITION. The distributor: room, scores, placement of workgroups and of restored ones, temperature and droop, the context save
(R17 to R24, R35, R90, R105, R131, R188, R216, R234 to R236, R275). -/

namespace Sys2Proof.Machine

/-! Temperature and droop (R23, R24). -/

/-- TEMPERATURE_READING: a reading in quarter degrees, and the hot state evaluated from it (R23). -/
def execTemperatureReading (core quarters : Nat) (s : State) : Host.Outcome State Fault Refusal :=
  let co := coreAt s core
  let hot := if co.hot then decide (4 * s.tavoid < quarters + 32) else decide (4 * s.tavoid ≤ quarters)
  .next (setCore s core { co with temp := quarters, hot := hot })

/-- DROOP_EVENT (R23). -/
def execDroopEvent (core : Nat) (s : State) : Host.Outcome State Fault Refusal :=
  let co := coreAt s core
  .next (setCore s core { co with droops := co.droops ++ [s.now] })

/-- Cycles of 1 µs at the clock in force. -/
def microCycles (s : State) : Nat := Config.cyclesPerMicro (decide (s.level < 2))

/-- The oldest droop event of a core is more than 1 ms old (R23). -/
def droopDue (s : State) (c : Nat) : Bool :=
  match (coreAt s c).droops with
  | [] => false
  | t :: _ => decide (t + 1000 * microCycles s ≤ s.now)

/-- DROOP_EVENT_EXPIRY (R23). -/
def execDroopEventExpiry (core : Nat) (s : State) : Host.Outcome State Fault Refusal :=
  let co := coreAt s core
  if droopDue s core then .next (setCore s core { co with droops := co.droops.drop 1 }) else .next s

/-- The score of a core, in quarter degrees (R24). -/
def coreScore (s : State) (c : Nat) : Nat := (coreAt s c).temp + 8 * (coreAt s c).droops.length

/-- Of two cores the one the distributor prefers: not hot, lower score, lower number (R24). -/
def betterCore (s : State) (a b : Nat) : Nat :=
  let ha := (coreAt s a).hot
  let hb := (coreAt s b).hot
  if ha ≠ hb then (if ha then b else a)
  else if coreScore s a < coreScore s b then a
  else if coreScore s b < coreScore s a then b
  else min a b

/-- The core chosen among the eligible ones (R24). -/
def bestCore (s : State) : List Nat → Option Nat
  | [] => none
  | c :: r => some (r.foldl (betterCore s) c)

/-! Room (R19, R21, R188). -/

/-- What a workgroup needs: the quadrant of each slot, register blocks per quadrant, and its SRAM. -/
structure Need where
  quads : List Nat
  blocks : List Nat
  sram : Nat
deriving DecidableEq, Repr

/-- The quadrants of the slots of `n` warps and `d` brew slots (R19). -/
def slotQuads (n d : Nat) : List Nat := (List.range n).map (· % 4) ++ (List.range d).map (· % 4)

/-- The lowest free slot of quadrant `q` of core `c` that is not in `used`. -/
def freeSlot (s : State) (c q : Nat) (used : List Nat) : Option Nat :=
  ((List.range 16).map fun i => slotKey c q i).find? fun k => slotFree s k && !used.contains k

/-- Slots for a list of quadrants, each the lowest free one (R19, R21). -/
def pickSlots (s : State) (c : Nat) : List Nat → List Nat → Option (List Nat)
  | [], used => some used
  | q :: r, used =>
    match freeSlot s c q used with
    | none => none
    | some k => pickSlots s c r (used ++ [k])

/-- SRAM ranges of the workgroups of a core. -/
def sramUsed (s : State) (c : Nat) : List (Nat × Nat) :=
  s.wgs.filterMap fun e => if e.2.core = c then some (e.2.sram, e.2.sramBytes) else none

/-- The range of SRAM is free on the core. -/
def sramFree (s : State) (c off n : Nat) : Bool :=
  decide (off + n ≤ Config.sliceBytes) && (sramUsed s c).all fun u => !rangesMeet off n u.1 u.2

/-- The lowest offset, a multiple of 1 KiB, where `n` bytes of SRAM are free (R188). -/
def pickSram (s : State) (c n : Nat) : Option Nat :=
  (List.range 1024).findSome? fun i => if sramFree s c (1024 * i) n then some (1024 * i) else none

/-- The quadrants' pools hold the blocks (R21). -/
def blocksFit (s : State) (c : Nat) (blocks : List Nat) : Bool :=
  (List.range 4).all fun q => decide (blocks.getD q 0 ≤ (quadAt s c q).pool)

/-- The core takes part at this level (R16, R257). -/
def coreUp (s : State) (c : Nat) : Bool := decide (s.level = 2) || (decide (s.level = 1) && decide (c < 96))

/-- Blocks per quadrant of `n` warps with `b` blocks each (R19). -/
def warpBlocks (n b : Nat) : List Nat := (List.range 4).map fun q => b * ((n + 3 - q) / 4)

/-- What a kernel's workgroup needs (R19). -/
def kernelNeed (k : Kernel) : Need :=
  { quads := slotQuads k.warps k.brew, blocks := warpBlocks k.warps k.allot, sram := k.sram }

/-- A core has room for a new workgroup (R21). -/
def hasRoom (s : State) (c : Nat) (n : Need) : Bool :=
  coreUp s c && (pickSlots s c n.quads []).isSome && blocksFit s c n.blocks && (pickSram s c n.sram).isSome

/-- An idle core could hold the workgroup (R21). -/
def couldHold (k : Kernel) : Bool :=
  ((List.range 4).all fun q => decide ((k.warps + 3 - q) / 4 + k.brew / 4 ≤ 16)
    && decide ((warpBlocks k.warps k.allot).getD q 0 ≤ Config.poolBlocks)) && decide (k.sram ≤ Config.sliceBytes)

/-! Placement (R18, R21, R22, R24, R244). -/

/-- The launch waits until FULL (R16, R249). -/
def waitsFull (s : State) (l : Launch) : Bool :=
  decide (s.level < 2) && (l.needFull || (match tenAt s l.ten with
    | some t => t.coreSet.all fun c => decide (96 ≤ c)
    | none => true))

/-- The cores of a launch's core set with room (R24). -/
def eligible (s : State) (l : Launch) : List Nat :=
  match tenAt s l.ten with
  | none => []
  | some t => t.coreSet.filter fun c => hasRoom s c (kernelNeed l.kernel)

/-- The core chosen among those with room: the gated one that has been woken for it, while it still has room, or the best one (R24,
R258). -/
def chosenCore (s : State) (target : Option Nat) (cs : List Nat) : Option Nat :=
  match target with
  | some c => if cs.contains c then some c else bestCore s cs
  | none => bestCore s cs

/-- The workgroup `l.next` of a launch on core `c`, before its warps (R22, R36, R244). -/
def newWorkgroup (l : Launch) (n c sram : Nat) (slots : List Nat) : Workgroup :=
  let k := l.kernel
  { launch := n, ten := l.ten, linear := l.next, grid := l.total, core := c, asid := l.asid, sram := sram
    sramBytes := k.sram, n := k.warps, allot := k.allot, brewSlots := k.brew, entry := l.entry
    block := l.stack + BitVec.ofNat 64 (l.ssz * (k.warps + k.brew) * l.next)
    ssz := l.ssz, slen := l.slen
    kegs := k.kegs.map fun w => { base := (w.extractLsb' 20 12).toNat, cap := (w.extractLsb' 12 8).toNat, next := 0, entries := [] }
    barriers := List.replicate 17 Barrier.empty, quads := List.replicate ((k.warps + 3) / 4) []
    warps := (List.range k.warps).map fun i => (i, slots.getD i 0)
    slots := slots, freeBrew := List.range k.brew, relocatable := l.relocatable, bound := false, draining := false
    killed := false }

/-- Lanes a warp starts without: 32 to 63 in a kernel of a translated T1 image (R252). -/
def startOut (t1 : Bool) : Mask := if t1 then 0xFFFFFFFF00000000 else 0

/-- WARP_SPAWN: the warps of a placed workgroup, in ascending index (R22). -/
def spawnWarps (s : State) (gid : Nat) (g : Workgroup) (t1 : Bool) : State :=
  (List.range g.n).foldl (fun s i =>
    putWarp s (g.slots.getD i 0) (newWarp gid g s.now i i g.allot none (launchScalar g i) 0 g.entry (startOut t1))) s

/-- A workgroup of launch `n` placed on core `c`, whole, with the argument block at the bottom of its SRAM (R21, R22). -/
def placeOn (s : State) (n : Nat) (l : Launch) (c : Nat) : State :=
  match pickSlots s c (kernelNeed l.kernel).quads [], pickSram s c l.kernel.sram with
  | some slots, some off =>
    let gid := s.nextId
    let g := newWorkgroup l n c off slots
    let s := dropName (wakeCore s c)
    let s := writeBytes s none (sramLoc c off) l.args
    let s := { setWg s gid g with launches := tset s.launches n { l with next := l.next + 1, target := none } }
    spawnWarps s gid g l.t1
  | _, _ => s

/-! Restoring a saved workgroup (R105, R235, R236). -/

/-- Blocks per quadrant that the saved warps hold. -/
def Context.blocksNeeded (x : Context) : List Nat :=
  (List.range 4).map fun q => ((x.warps.filter fun e =>
    decide ((if e.1 < x.wg.n then e.1 else e.1 - x.wg.n) % 4 = q)).map fun e => e.2.allot).sum

/-- A core has room for a saved workgroup: its SRAM returns to the offset it had, and its brew needs a core without one (R105). -/
def roomFor (s : State) (x : Context) (c : Nat) : Bool :=
  coreUp s c && (pickSlots s c (slotQuads x.wg.n x.wg.brewSlots) []).isSome && blocksFit s c x.blocksNeeded
    && (sramFree s c x.wg.sram x.wg.sramBytes || decide (x.wg.sramBytes = 0))
    && (x.brew.isNone || (coreAt s c).brew.isNone)

/-- The core a saved workgroup returns to: its own, or one chosen by R24 (R17, R131, R236). -/
def restoreCore (s : State) (x : Context) : Option Nat :=
  if x.wg.relocatable && !x.wg.bound then
    match tenAt s x.ten with
    | none => none
    | some t => chosenCore s x.target (t.coreSet.filter fun c => roomFor s x c)
  else if roomFor s x x.wg.core then some x.wg.core else none

/-- A saved split as it comes back: it counts its cycles from now, with empty latches, and the instruction buffer holds no words of
its clause (R27, R35, R90, R198). -/
def Split.revive (sp : Split) (now : Nat) : Split :=
  { sp with
    latches := noLatches, lastPass := none, lastIssue := now, unissued := true, yielded := false, wakeAt := now + 1, starving := false
    clause := sp.clause.map fun c => { c with held := [] } }

/-- A saved warp as it comes back. -/
def Warp.revive (w : Warp) (now : Nat) : Warp :=
  { w with splits := w.splits.map fun e => (e.1, e.2.revive now) }

/-- Whether what has happened covers a record (R141, R145). -/
def Again.covers : Again → FaultRef → Bool
  | .upTo ten n, f => decide (f.ten = ten) && replayCovers n f.seq
  | .page asid va log, f =>
    decide (f.cause = .migrating) && decide (f.asid = asid) && decide (f.va.toNat / 2 ^ log = va / 2 ^ log)

/-- Claim requests of a restored workgroup appended (R275). -/
def addClaims (s : State) (slots : List Nat) (cs : List (Nat × Nat × Nat)) : State :=
  cs.foldl (fun s r =>
    let k := slots.getD r.1 0
    let q := quadAt s (coreOfSlot k) (quadOfSlot k)
    setQuad s (coreOfSlot k) (quadOfSlot k) { q with claims := q.claims ++ [{ slot := some k, split := r.2.1, n := r.2.2 }] }) s

/-- A slot of the saved workgroup as its restored one. -/
def movedSlot (x : Context) (slots : List Nat) (k : Nat) : Nat := slots.getD (x.wg.slots.findIdx fun y => decide (y = k)) 0

/-- The brew state of a restored workgroup: its parked BREWs stand in the order of their arrival (R92, R105). -/
def restoreBrew (s : State) (x : Context) (c : Nat) (slots : List Nat) : State :=
  let co := coreAt s c
  let move := fun (b : Brew) => { b with host := movedSlot x slots b.host, requested := false }
  let co := { co with brewWait := x.waits.foldl (fun ws w => insertWait { w with brew := move w.brew } ws) co.brewWait }
  let co := match x.brew with
    | none => co
    | some b => { co with brew := some (move b), brewFile := x.brewFile, presence := x.presence, blocks := x.blocks }
  activateBrew c 65 (setCore s c co)

/-- Divisions of several warps completed as far as they can be, and the exclusive groups that end with them (R84, R86). -/
def rejoinWg (s : State) (slots : List Nat) : State :=
  slots.foldl (fun s k => if ((warpAt s k).bind readyDivision).isSome then afterWord (rejoinAll s k) k else s) s

/-- Splits that a TRAPRES left without a lane while their warp was saved are removed as under EXITL (R89, R233). -/
def dropEmpty (s : State) (k : Nat) : State :=
  match warpAt s k with
  | none => s
  | some w =>
    let gone := w.splits.filter fun e => decide (e.2.mask = (0 : Mask))
    if gone.isEmpty then s
    else
      afterWord (gone.foldl (fun s e =>
        match removeSplit s k e.1 40 e.2.path with
        | .ok s => s
        | .error _ => s) s) k

/-- A SAVED WORKGROUP RESTORED on core `c` (R105, R216, R235, R236, R275). -/
def restoreOn (s : State) (x : Context) (c : Nat) : State :=
  match pickSlots s c (slotQuads x.wg.n x.wg.brewSlots) [] with
  | none => s
  | some slots =>
    let g : Workgroup := { x.wg with
      core := c, slots := slots, draining := false
      warps := x.wg.warps.map fun e => (e.1, slots.getD e.1 0) }
    let s := wakeCore { s with ctxs := s.ctxs.filter fun y => decide (y.gid ≠ x.gid) } c
    let s := markBytes (writeBytes s none (sramLoc c g.sram) x.sram) (sramLoc c g.sram) x.marks
    let s := setWg s x.gid g
    let s := x.warps.foldl (fun s e => putWarp s (slots.getD e.1 0) (e.2.revive s.now)) s
    let s := addClaims (restoreBrew s x c slots) slots x.claims
    rejoinWg (slots.foldl dropEmpty (replaySplits s fun f => x.replays.any fun r => r.covers f)) slots

/-- The saved workgroup `gid` waits for core `c` to run (R258). -/
def aimContext (s : State) (gid c : Nat) : State :=
  { s with ctxs := s.ctxs.map fun x => if x.gid = gid then { x with target := some c } else x }

/-- WORKGROUP_PLACEMENT: the next workgroup of launch `wg`, or the saved workgroup `wg` that work of a higher-priority queue
displaced, is placed whole on the core chosen by score (R21, R24). A gated core is woken first (R258). -/
def execWorkgroupPlacement (wg : Nat) (s : State) : Host.Outcome State Fault Refusal :=
  match tget s.launches wg with
  | some l =>
    if l.next < l.total ∧ !waitsFull s l then
      match chosenCore s l.target (eligible s l) with
      | some c =>
        .next (if running s c then placeOn s wg l c
          else wakeCore { s with launches := tset s.launches wg { l with target := some c } } c)
      | none => .next s
    else .next s
  | none =>
    match s.ctxs.find? fun x => decide (x.gid = wg) && x.waiting with
    | none => .next s
    | some x =>
      match restoreCore s x with
      | some c => .next (if running s c then restoreOn s x c else wakeCore (aimContext s wg c) c)
      | none => .next s

/-- Something waits for the distributor and has room: the placement event's argument is valid. -/
def placeable (s : State) (n : Nat) : Bool :=
  match tget s.launches n with
  | some l => decide (l.next < l.total) && !waitsFull s l && (chosenCore s l.target (eligible s l)).any (coreWakes s)
  | none => s.ctxs.any fun x => decide (x.gid = n) && x.waiting && (restoreCore s x).any (coreWakes s)

/-! The drain and the save (R234, R235). -/

/-- An operation that goes into a replay record: what is left of it waits for a replay (R234). -/
def Op.savable (o : Op) : Bool :=
  match o.kind with
  | .access a => (a.pieces.any fun p => !p.faults.isEmpty) && a.pieces.all fun p => p.done || !p.faults.isEmpty
  | .retry => true
  | _ => false

/-- The warp has drained (R234). -/
def drained (w : Warp) : Bool :=
  w.pend.isEmpty && w.ops.all Op.savable && w.bK.idle && w.bA.idle && w.bN.idle && w.bG.idle

/-- Warps of a workgroup, with their slots. -/
def warpsOf (s : State) (gid : Nat) : List (Nat × Warp) := s.warps.filter fun e => decide (e.2.wg = gid)

/-- The pre-emption of a workgroup that comes next: the first that a packet asks for, and else the distributor's own; one that comes later
finds the workgroup saved (R234, entry 16). -/
def nextSave (ps : List Preemption) (gid : Nat) : Option Preemption :=
  (ps.find? fun p => decide (p.wg = gid) && p.queue.isSome).orElse fun _ => ps.find? fun p => decide (p.wg = gid)

/-- The pre-emption can save its workgroup, or finds it retired. -/
def saveReady (s : State) (p : Preemption) : Bool :=
  p.faults.isEmpty
    && (match wgAt s p.wg with
        | none => true
        | some g => running s g.core && (warpsOf s p.wg).all fun e => drained e.2)

/-- A warp as the record holds it: latches are not saved, and a word parked on a cask is withdrawn (R90, R216, R235). -/
def Warp.saved (w : Warp) : Warp :=
  { w.noLatch with
    park := match w.park with
      | some (.cask _ _) => none
      | p => p }

/-- The context of a drained workgroup (R105, R235). -/
def contextOf (s : State) (p : Preemption) (g : Workgroup) : Context :=
  let co := coreAt s g.core
  let b := match co.brew with
    | some b => if b.wg = p.wg then some b else none
    | none => none
  { va := p.area, ten := p.ten, gid := p.wg, wg := g
    warps := (warpsOf s p.wg).map fun e => (e.2.index, e.2.saved)
    sram := memBytes s.mem (sramLoc g.core g.sram) g.sramBytes, marks := marksOf s (sramLoc g.core g.sram) g.sramBytes
    brew := b, waits := co.brewWait.filter fun x => decide (x.brew.wg = p.wg)
    brewFile := co.brewFile, presence := co.presence, blocks := co.blocks
    claims := co.quads.flatMap fun q => q.claims.filterMap fun r =>
      match r.slot with
      | none => none
      | some k => ((warpsOf s p.wg).find? fun e => decide (e.1 = k)).map fun e => (e.2.index, r.split, r.n)
    waiting := p.queue.isNone, replays := [], target := none }

/-- The reductions applied to the workgroup's SRAM, and those its warps have had applied, take their places before it is saved:
the record holds its SRAM as it stands (R160, R235). -/
def placeForSave (s : State) (gid : Nat) (g : Workgroup) : State :=
  placeReductions s fun r => r.applied
    && ((warpsOf s gid).any (fun e => decide (e.1 = r.slot)) || rangesMeet (sramLoc g.core g.sram) g.sramBytes r.xl.loc 4)

/-- The core after its workgroup has been saved: slots, blocks, SRAM and brew are free. -/
def clearOut (s : State) (gid : Nat) (g : Workgroup) : State :=
  let ws := warpsOf s gid
  let s := ws.foldl (fun s e =>
    let q := quadAt s (coreOfSlot e.1) (quadOfSlot e.1)
    setQuad s (coreOfSlot e.1) (quadOfSlot e.1)
      { q with pool := q.pool + e.2.allot, claims := q.claims.filter fun r => decide (r.slot ≠ some e.1) }) s
  let co := coreAt s g.core
  let mine := match co.brew with
    | some b => decide (b.wg = gid)
    | none => false
  let co := { co with
    brewWait := co.brewWait.filter fun x => decide (x.brew.wg ≠ gid)
    brew := if mine then none else co.brew
    blocks := if mine then [] else co.blocks
    quads := if mine then co.quads.map fun q => { q with claims := q.claims.filter fun r => r.slot.isSome } else co.quads }
  let s := setCore s g.core co
  activateBrew g.core 65 { s with
    warps := s.warps.filter fun e => decide (e.2.wg ≠ gid), wgs := tdel s.wgs gid }

/-- The bound on the bytes of a context record (R235). -/
def recordBound (x : Context) : Nat :=
  1024 + 5120 * x.warps.length + 2048 * (x.warps.map fun e => e.2.allot).sum
    + 1024 * (x.warps.flatMap fun e => e.2.ops).length + x.wg.sramBytes + (if x.brew.isSome then 67584 else 0)

/-- The workgroup is not saved after all and goes on, unless another pre-emption of it waits; a BREW of it may become active (R92). -/
def undrain (s : State) (gid : Nat) : State :=
  match wgAt s gid with
  | none => s
  | some g =>
    let more := s.preempts.any fun p => decide (p.wg = gid)
    let s := setWg s gid { g with draining := more }
    if more then s else activateBrew g.core 65 s

/-- CONTEXT_SAVE: the record of a drained workgroup is written, and it leaves its core (R234, R235). The record's bytes and
their number within its bound are free values (entry 16). Of several pre-emptions of the workgroup one writes the record. -/
def execContextSave (wg : Nat) (s : State) : Host.Outcome State Fault Refusal :=
  match nextSave s.preempts wg with
  | none => .next s
  | some p =>
    if !saveReady s p then .next s
    else
      let rest := s.preempts.erase p
      match wgAt s wg, p.queue with
      | none, none => .next { s with preempts := rest }
      | none, some q => .next (complete { s with preempts := rest } p.ten q p.index p.cpl .done 0)
      | some g, none =>
        let s := placeForSave s wg g
        .next (clearOut { s with preempts := rest, ctxs := s.ctxs ++ [contextOf s p g] } wg g)
      | some g, some q =>
        let s := placeForSave s wg g
        let x := contextOf s p g
        let n := choose s 0 (recordBound x + 1)
        if p.size < n then .next (complete (undrain { s with preempts := rest } wg) p.ten q p.index p.cpl .badPkt 0)
        else
          let asid := match tenAt s p.ten with
            | some t => tenAsid t
            | none => 0
          match writeRange { s with fresh := s.fresh + 1 } (queueReq s p.ten q asid .store) p.area
              ((List.range n).map fun i => Config.freeData s.fresh i) with
          | .error (.faults fs) =>
            let y := putFaults s (queueFaults p.ten asid .store fs)
            .next { y.1 with preempts := s.preempts.map fun x => if x = p then { p with faults := y.2 } else x }
          | .error _ => .next (complete (undrain { s with preempts := rest } wg) p.ten q p.index p.cpl .badPkt 0)
          | .ok s =>
            let s := { s with preempts := rest, ctxs := (s.ctxs.filter fun y => !(decide (y.va = p.area) && decide (y.ten = p.ten))) ++ [x] }
            .next (complete (clearOut s wg g) p.ten q p.index p.cpl .done (BitVec.ofNat 32 n))

end Sys2Proof.Machine
end

