-- ==== Sys2Proof/Machine/Queues.lean ====
section
/-! DEFINITION. The packets a queue takes, and the migration engine (R16, R18, R36, R137, R144, R145, R212, R230, R234, R236, R244 to
R249, R251 to R255, R388). -/

namespace Sys2Proof.Machine

/-- The packets of R244 and R245. -/
inductive PacketKind where
  | launch | load | unload | preempt | resume | signal | barrier | trapres | kill | cask | migrate | inval | tencfg | unknown
deriving DecidableEq, Repr

/-- The kind a packet's TYPE and sub-operation name (R244, R245). -/
def packetKind (b : List Byte) : PacketKind :=
  match field b 0 1 with
  | 0 => .launch
  | 1 => .load
  | 2 => .unload
  | 3 => .preempt
  | 4 => .resume
  | 5 => .signal
  | 6 => .barrier
  | 7 =>
    match field b 8 8 with
    | 0 => .trapres
    | 1 => .kill
    | 2 => .cask
    | 3 => .migrate
    | 4 => .inval
    | 5 => .tencfg
    | _ => .unknown
  | _ => .unknown

/-- The packet is a SERVICE packet (R244). -/
def PacketKind.service : PacketKind → Bool
  | .trapres => true
  | .kill => true
  | .cask => true
  | .migrate => true
  | .inval => true
  | .tencfg => true
  | _ => false

/-- The operand fields of a packet, as offset and size, beside TYPE, FLAGS and CPL (R244, R245). DESIGN CHOICE (entry 44): the widths
that R244 and R245 do not give, which decide the bytes that must be zero (R5, R248): 8 bytes for the size of LOAD and of PREEMPT and
for the sub-operation of a SERVICE packet, 4 for the cask number of CASK, 2 for the ASID of INVAL. -/
def PacketKind.fields : PacketKind → List (Nat × Nat)
  | .launch => [(8, 48)]
  | .load => [(8, 8), (16, 8), (24, 4)]
  | .unload => [(8, 4)]
  | .preempt => [(8, 8), (16, 8), (24, 8)]
  | .resume => [(8, 8)]
  | .signal => [(8, 8), (16, 8)]
  | .trapres => [(8, 8), (16, 4), (20, 4), (24, 1)]
  | .kill => [(8, 8), (16, 4), (20, 4)]
  | .cask => [(8, 8), (16, 4), (24, 8)]
  | .migrate => [(8, 8), (16, 8)]
  | .inval => [(8, 8), (16, 2), (24, 8), (32, 8)]
  | .tencfg => [(8, 8), (16, 8), (24, 2)]
  | _ => []

/-- Bytes outside the fields are zero, and reserved bits inside fields: those of FLAGS, and of WARP (R5, R140, R244, R248). -/
def packetSound (kd : PacketKind) (b : List Byte) : Bool :=
  let used := (0, 2) :: (56, 8) :: kd.fields
  ((List.range 64).all fun i => (used.any fun u => decide (u.1 ≤ i) && decide (i < u.1 + u.2)) || decide (b.getD i 0 = 0))
    && decide (field b 1 1 < (if kd = .launch then 4 else 1))
    && (decide (kd ≠ .trapres) || decide (field b 24 1 < 2))
    && (decide (kd ≠ .trapres ∧ kd ≠ .kill) || decide (field b 16 4 < 2 ^ 18))

/-- The packet at the head of a queue, when the queue may take one (R241, R249, R257): it is not stopped nor held, and no
launch of it waits for room. -/
def headOf (s : State) (ten q : Nat) : Option (Queue × List Byte) :=
  match tenAt s ten with
  | none => none
  | some t =>
    match tget t.queues q with
    | none => none
    | some x =>
      if s.level = 0 ∨ t.stopped ∨ x.rd = x.wr ∨ x.held.isSome
          ∨ (s.launches.any fun l => decide (l.2.ten = ten) && decide (l.2.queue = q) && decide (l.2.next < l.2.total)) then none
      else some (x, packetBytes s x x.rd)

/-- The packet at the head is taken (R240, R249). -/
def takePacket (s : State) (ten q : Nat) : State :=
  updQueue (dropName s) ten q fun x =>
    { x with rd := (x.rd + 1) % 2 ^ 64, live := x.live ++ [x.rd], served := s.nextId }

/-- Why a packet has no effect now. -/
inductive PacketStop where
  /-- One of its accesses faults: the packet and its queue are held until the replay (R388). -/
  | hold (fs : List FaultInfo)
  /-- It stays at the head of its queue until these cores run (R258). -/
  | wake (cores : List Nat)
  /-- So it does until the gated core `core` runs, on which the saved workgroup `gid` is to be restored (R236, R258). -/
  | aim (gid core : Nat)
  /-- It stays at the head of its queue. -/
  | wait
  /-- It completes with a status and no effect. -/
  | fail (st : Status)
deriving DecidableEq, Repr

/-- A packet as its meaning sees it: tenancy, queue, index, completion address, bytes. -/
structure Pk where
  ten : Nat
  q : Nat
  i : Nat
  cpl : DWord
  b : List Byte
deriving DecidableEq, Repr

/-- A packet completes with DONE and a result. -/
def Pk.done (p : Pk) (s : State) (result : Word) : State := complete s p.ten p.q p.i p.cpl .done result

/-- ONE PACKET TAKEN: it is checked, and its effect happens, or it is held, or it completes with an error (R244, R248, R388). -/
def runPacket (kd : PacketKind) (ten q : Nat) (s : State) (f : Pk → State → Except PacketStop State) :
    Host.Outcome State Fault Refusal :=
  match headOf s ten q with
  | none => .next s
  | some (x, b) =>
    if packetKind b ≠ kd then .next s
    else
      let p : Pk := { ten := ten, q := q, i := x.rd, cpl := BitVec.ofNat 64 (field b 56 8), b := b }
      let s1 := takePacket s ten q
      if !packetSound kd b || (kd.service && !x.spec.service) then .next (complete s1 ten q p.i p.cpl .badPkt 0)
      else
        match f p s1 with
        | .ok s2 => .next s2
        | .error .wait => .next s
        | .error (.fail st) => .next (complete s1 ten q p.i p.cpl st 0)
        | .error (.wake cs) => .next (wakeAll s cs)
        | .error (.aim g c) => .next (wakeCore (aimContext s g c) c)
        | .error (.hold fs) =>
          let y := putFaults s fs
          .next (updQueue y.1 ten q fun x => { x with held := some { recs := y.2 } })

/-- A packet whose reads are made completes with a status and no effect. -/
def Pk.fail (p : Pk) (s : State) (st : Status) : State := complete s p.ten p.q p.i p.cpl st 0

/-- What a packet does to core `c` once it runs: a gated one is woken first (R258). -/
def onCore (s : State) (c : Nat) (f : Except PacketStop State) : Except PacketStop State :=
  if running s c then f else .error (.wake [c])

/-- The first ASID of a packet's tenancy. -/
def Pk.asid (p : Pk) (s : State) : Nat :=
  match tenAt s p.ten with
  | some t => tenAsid t
  | none => 0

/-- The cores in whose slices lie the `n` bytes from `va` that a packet reads. -/
def Pk.slices (p : Pk) (s : State) (asid : Nat) (va : DWord) (n : Nat) : List Nat :=
  slicesOf s (queueReq s p.ten p.q asid .load) va n

/-- A packet reads memory: a replayable fault holds it, another error completes it with `bad` (R388), and a gated core in whose slice the
bytes lie runs first (R258). -/
def Pk.read (p : Pk) (s : State) (asid : Nat) (va : DWord) (n : Nat) (bad : Status) : Except PacketStop (List Byte × State) :=
  match readRange s (queueReq s p.ten p.q asid .load) va n with
  | .ok r => if asleep s (p.slices s asid va n) then .error (.wake (p.slices s asid va n)) else .ok r
  | .error (.faults fs) => .error (.hold (queueFaults p.ten asid .load fs))
  | .error _ => .error (.fail bad)

/-! LAUNCH (R18, R21, R36, R136, R244, R248, R249). -/

/-- Every workgroup's stack block lies within a 4 GiB-aligned span (R244). -/
def blocksInSpan (stack ssz m total : Nat) : Bool :=
  (List.range total).all fun g =>
    let a := stack + ssz * m * g
    decide (a / 2 ^ 32 = (a + ssz * m - 1) / 2 ^ 32)

/-- No keg reaches beyond the workgroup's SRAM (R36). -/
def kegsFit (k : Kernel) : Bool :=
  k.kegs.all fun w =>
    let base := (w.extractLsb' 20 12).toNat
    let cap := (w.extractLsb' 12 8).toNat
    decide (cap = 0) || decide (256 * (base + cap) ≤ k.sram)

/-- The launch a LAUNCH packet asks for, before its argument block is read. -/
def launchOf (p : Pk) (h : Handle) (k : Kernel) : Launch :=
  let b := p.b
  { ten := p.ten, queue := p.q, index := p.i, cpl := p.cpl, handle := field b 8 4, kernel := k
    entry := h.cb + BitVec.ofNat 64 k.entry, dims := (field b 16 4, field b 20 4, field b 24 4), asid := field b 28 2, args := []
    stack := BitVec.ofNat 64 (field b 40 8), ssz := field b 48 4, slen := field b 52 4
    relocatable := (field b 1 1).testBit 0, needFull := (field b 1 1).testBit 1, t1 := h.t1, next := 0, retired := 0
    killed := false, target := none }

/-- The launch rules hold (R18, R36, R136, R244, R248). DESIGN CHOICE (entry 43): at REDUCED a descriptor that lies on stacks 4 to 7 is read
as at FULL. -/
def launchSound (s : State) (l : Launch) (nargs : Nat) : Bool :=
  let d := descriptor s l.asid
  decide (0 < l.total) && decide (l.total < 2 ^ 32) && decide (l.asid < Config.asids) && d.valid && decide (d.ten = l.ten)
    && decide (l.slen + 1536 ≤ l.ssz) && decide (l.ssz % 64 = 0) && kegsFit l.kernel && decide (nargs ≤ l.kernel.sram)
    && blocksInSpan l.stack.toNat l.ssz (l.kernel.warps + l.kernel.brew) l.total

/-- The priority level of a launch's queue (R240). -/
def prioOf (s : State) (ten q : Nat) : Nat :=
  match queueAt s ten q with
  | some x => x.spec.priority
  | none => 3

/-- Workgroups of a core that work of priority `p` displaces (R234). -/
def victims (s : State) (ten p c : Nat) : List Nat :=
  s.wgs.filterMap fun e =>
    if e.2.core = c ∧ e.2.ten = ten ∧ !e.2.draining ∧ !e.2.killed then
      match tget s.launches e.2.launch with
      | some l => if p < prioOf s l.ten l.queue then some e.1 else none
      | none => none
    else none

/-- Blocks, slots and SRAM on the core once those workgroups are gone. -/
def withoutWgs (s : State) (gids : List Nat) : State :=
  gids.foldl (fun s gid =>
    match wgAt s gid with
    | none => s
    | some g => clearOut s gid g) s

/-- The lowest core of the core set where the workgroups of lower priority leave room. -/
def preemptCore (s : State) (l : Launch) (t : Tenancy) : Option Nat :=
  t.coreSet.find? fun c =>
    !(victims s l.ten (prioOf s l.ten l.queue) c).isEmpty
      && hasRoom (withoutWgs s (victims s l.ten (prioOf s l.ten l.queue) c)) c (kernelNeed l.kernel)

/-- A workgroup starts to drain (R234, R258). -/
def startDrain (s : State) (p : Preemption) : State :=
  match wgAt s p.wg with
  | none => s
  | some g => { wakeCore (setWg s p.wg { g with draining := true }) g.core with preempts := s.preempts ++ [p] }

/-- PRIORITY_PREEMPT: work that finds no room displaces the workgroups of lower-priority queues of one core (R234, entry 19). -/
def preemptFor (s : State) (l : Launch) : State :=
  match tenAt s l.ten with
  | none => s
  | some t =>
    if waitsFull s l || !(eligible s l).isEmpty then s
    else
      match preemptCore s l t with
      | none => s
      | some c =>
        (victims s l.ten (prioOf s l.ten l.queue) c).foldl (fun s gid =>
          startDrain s { wg := gid, ten := l.ten, queue := none, index := 0, cpl := 0, area := 0, size := 0, faults := [] }) s

/-- The queue holds a reference on the handle (R255). -/
def holdsRef (h : Handle) (ten q : Nat) : Bool := decide (h.ten = ten) && h.refs.contains (ten * 16 + q)

/-- LAUNCH (R244, R249, R255). -/
def execLaunch (ten queue : Nat) (s : State) : Host.Outcome State Fault Refusal :=
  runPacket .launch ten queue s fun p s =>
    match tget s.handles (field p.b 8 4) with
    | none => .error (.fail .noRef)
    | some h =>
      if !holdsRef h ten queue then .error (.fail .noRef)
      else
        match tget h.kernels (field p.b 12 4) with
        | none => .error (.fail .badLaunch)
        | some k =>
          let l := launchOf p h k
          let nargs := field p.b 30 2
          if !launchSound s l nargs then .error (.fail .badLaunch)
          else if !couldHold k || (match tenAt s ten with
              | some t => t.coreSet.isEmpty
              | none => true) then .error (.fail .noFit)
          else
            match p.read s l.asid (BitVec.ofNat 64 (field p.b 32 8)) nargs .badLaunch with
            | .error e => .error e
            | .ok (args, s) =>
              let l := { l with args := args }
              .ok (preemptFor (dropName { s with launches := tset s.launches s.nextId l }) l)

/-! LOAD and UNLOAD (R251 to R255). -/

/-- The lowest handle number not in use; handles count from 1 (entry 18). -/
def freshHandle (s : State) : Nat :=
  ((List.range (s.handles.length + 1)).find? fun i => (tget s.handles (i + 1)).isNone).getD 0 + 1

/-- LOAD (R251 to R255): a code object, or one more reference on a handle. -/
def execLoad (ten queue : Nat) (s : State) : Host.Outcome State Fault Refusal :=
  runPacket .load ten queue s fun p s =>
    let n := field p.b 24 4
    if n ≠ 0 then
      match tget s.handles n with
      | none => .error (.fail .noRef)
      | some h =>
        if h.ten ≠ ten then .error (.fail .noRef)
        else .ok (p.done { s with handles := tset s.handles n { h with refs := h.refs ++ [ten * 16 + queue] } } (BitVec.ofNat 32 n))
    else
      let va : DWord := BitVec.ofNat 64 (field p.b 8 8)
      match p.read s (p.asid s) va (field p.b 16 8) .badObj with
      | .error e => .error e
      | .ok (b, s) =>
        match loadObject b va ten with
        | .error st => .ok (p.fail s st)
        | .ok h =>
          let marks := h.binds.map fun o => (h.cb + BitVec.ofNat 64 o, List.replicate 16 (0xFF : Byte))
          match writeRanges (queueReq s ten queue (p.asid s) .store) marks s with
          | .error (.faults fs) => .error (.hold (queueFaults ten (p.asid s) .store fs))
          | .error _ => .ok (p.fail s .badObj)
          | .ok s =>
            let n := freshHandle s
            .ok (p.done { s with handles := tset s.handles n { h with refs := [ten * 16 + queue] } } (BitVec.ofNat 32 n))

/-- References that the UNLOADs of a queue, taken and not yet in effect, are to drop from handle `n` (R249, R255). -/
def Queue.dropping (x : Queue) (n : Nat) : Nat := (x.unloads.filter fun u => decide (u.2.1 = n)).length

/-- The queue still holds a reference on the handle when those UNLOADs have taken effect (R255). -/
def refLeft (s : State) (h : Handle) (n ten q : Nat) : Bool :=
  decide (h.ten = ten) && (match queueAt s ten q with
    | some x => decide (x.dropping n < h.refs.count (ten * 16 + q))
    | none => false)

/-- UNLOAD (R249, R255). -/
def execUnload (ten queue : Nat) (s : State) : Host.Outcome State Fault Refusal :=
  runPacket .unload ten queue s fun p s =>
    let n := field p.b 8 4
    match tget s.handles n with
    | none => .error (.fail .noRef)
    | some h =>
      if !refLeft s h n ten queue then .error (.fail .noRef)
      else
        .ok (settleQueue (updQueue s ten queue fun x => { x with unloads := x.unloads ++ [(p.i, n, p.cpl)] }) ten queue)

/-! PREEMPT, RESUME, SIGNAL, BARRIER. -/

/-- The resident workgroup a PREEMPT names: the one launched first (entry 16). -/
def findWg (s : State) (ten handle linear : Nat) : Option Nat :=
  (s.wgs.find? fun e => decide (e.2.ten = ten) && decide (e.2.linear = linear) && (match tget s.launches e.2.launch with
    | some l => decide (l.handle = handle)
    | none => false)).map fun e => e.1

/-- PREEMPT (R234): a workgroup that is not resident leaves nothing to save (entry 16). -/
def execPreempt (ten queue : Nat) (s : State) : Host.Outcome State Fault Refusal :=
  runPacket .preempt ten queue s fun p s =>
    match findWg s ten (field p.b 8 4) (field p.b 12 4) with
    | none => .ok (p.done s 0)
    | some gid =>
      .ok (startDrain s { wg := gid, ten := ten, queue := some queue, index := p.i, cpl := p.cpl
                          area := BitVec.ofNat 64 (field p.b 16 8), size := field p.b 24 8, faults := [] })

/-- RESUME (R236): it stays at the head of its queue until there is room; a record address that names no record completes with
BADPKT (entry 16). -/
def execResume (ten queue : Nat) (s : State) : Host.Outcome State Fault Refusal :=
  runPacket .resume ten queue s fun p s =>
    match s.ctxs.find? fun x => decide (x.ten = ten) && !x.waiting && decide (x.va.toNat = field p.b 8 8) with
    | none => .error (.fail .badPkt)
    | some x =>
      match restoreCore s x with
      | none => .error .wait
      | some c => if running s c then .ok (p.done (restoreOn s x c) 0) else .error (.aim x.gid c)

/-- SIGNAL (R244, R388). -/
def execSignal (ten queue : Nat) (s : State) : Host.Outcome State Fault Refusal :=
  runPacket .signal ten queue s fun p s =>
    let va : DWord := BitVec.ofNat 64 (field p.b 8 8)
    if va.toNat % 8 ≠ 0 then .ok (p.done s 0)
    else
      match writeRange s (queueReq s ten queue (p.asid s) .store) va ((p.b.drop 16).take 8) with
      | .ok s => .ok (p.done s 0)
      | .error (.faults fs) => .error (.hold (queueFaults ten (p.asid s) .store fs))
      | .error _ => .ok (p.done s 0)

/-- Every earlier packet of the queue has completed (R249). -/
def queueIdle (s : State) (ten q i : Nat) : Bool :=
  match queueAt s ten q with
  | some x => x.live.all fun j => decide (j = i)
  | none => true

/-- BARRIER (R249). A packet of no known TYPE or sub-operation is taken here too, and completes with BADPKT (R248, entry 28). -/
def execBarrier (ten queue : Nat) (s : State) : Host.Outcome State Fault Refusal :=
  match headOf s ten queue with
  | none => .next s
  | some (_, b) =>
    if packetKind b = .unknown then
      runPacket .unknown ten queue s fun _ _ => .error (.fail .badPkt)
    else
      runPacket .barrier ten queue s fun p s => if queueIdle s ten queue p.i then .ok (p.done s 0) else .error .wait

/-! SERVICE packets (R245). -/

/-- The warp parked on the trap-ring record that WARP and SEQ name (R245). -/
def parkedOnTrap (s : State) (ten warp : Nat) (seq : Word) : Option (Nat × Warp) :=
  s.warps.find? fun e => decide (e.2.ten = ten) && decide (e.2.park = some (.trapRing seq)) && decide (field e.2.frame 56 4 = warp)

/-- Where a TRAPRES resumes the warp: at NPC, or at PC (R245). -/
def trapresPc (w : Warp) (b : List Byte) : DWord := BitVec.ofNat 64 (field w.frame (if field b 24 1 = 1 then 8 else 16) 8)

/-- The warp in slot `k` resumed from its trap-ring frame (R233, R245). -/
def trapresResume (s : State) (k : Nat) (w : Warp) (b : List Byte) : Except Stop State :=
  resumeAtFrame (updWarp (wakeCore s (coreOfSlot k)) k fun w => { w with park := none }) k w.parkSplit w.frame (trapresPc w b)

/-- The saved warp parked on the trap-ring record that WARP and SEQ name, with its workgroup's record: it stays parked, and
its trap record stays valid (R235, R245). -/
def savedOnTrap (s : State) (ten warp : Nat) (seq : Word) : Option (Context × Nat × Warp) :=
  s.ctxs.findSome? fun x =>
    if x.ten = ten then
      (x.warps.find? fun e => decide (e.2.park = some (.trapRing seq)) && decide (field e.2.frame 56 4 = warp)).map fun e => (x, e.1, e.2)
    else none

/-- A saved warp resumed from its trap-ring frame: it goes on there once its workgroup is restored (R233, R235, R245). -/
def trapresSaved (s : State) (x : Context) (i : Nat) (w : Warp) (b : List Byte) : State :=
  let w' := resumeFrame (restoreS01 { w with park := none } w.frame) w.parkSplit w.frame (trapresPc w b)
  { s with ctxs := s.ctxs.map fun y =>
      if y.gid = x.gid then { y with warps := y.warps.map fun e => if e.1 = i then (i, w') else e } else y }

/-- TRAPRES (R233, R235, R245, R258). -/
def execTrapres (ten queue : Nat) (s : State) : Host.Outcome State Fault Refusal :=
  runPacket .trapres ten queue s fun p s =>
    match parkedOnTrap s ten (field p.b 16 4) (BitVec.ofNat 32 (field p.b 20 4)) with
    | none =>
      match savedOnTrap s ten (field p.b 16 4) (BitVec.ofNat 32 (field p.b 20 4)) with
      | none => .error (.fail .noWarp)
      | some (x, i, w) => .ok (p.done (trapresSaved s x i w p.b) 0)
    | some (k, w) =>
      let pc := trapresPc w p.b
      onCore s (coreOfSlot k)
        (match trapresResume s k w p.b with
        | .ok s => .ok (p.done s 0)
        | .error (.faults fs) => .error (.hold fs)
        | .error (.trap t) => .ok (p.done (takeTrap s k w.parkSplit t pc pc pc false) 0)
        | .error (.asleep cs) => .error (.wake cs)
        | .error _ => .error .wait)

/-- The warp of a workgroup that KILL or a reset ends stops, and retires once its outstanding operations complete (R245). -/
def killWarp (s : State) (k : Nat) : State :=
  match warpAt s k with
  | none => s
  | some w =>
    let s := setWarp s k { w with handler := none, bkpt := none, deferred := [] }
    if w.park = some .exiting then s
    else
      let j := if (tget w.splits w.parkSplit).isSome then w.parkSplit else ((w.splits.head?).map fun e => e.1).getD 0
      beginExit s k j

/-- A workgroup is ended (R245). -/
def killWg (s : State) (gid : Nat) : State :=
  match wgAt s gid with
  | none => s
  | some g => (warpsOf s gid).foldl (fun s e => killWarp s e.1) (wakeCore (setWg s gid { g with killed := true, draining := false }) g.core)

/-- A saved workgroup is ended: its record goes, and nothing of it is outstanding (R235, R245). -/
def killSaved (s : State) (x : Context) : State :=
  workgroupRetired { s with ctxs := s.ctxs.filter fun y => decide (y.gid ≠ x.gid) } x.wg.launch true

/-- KILL (R235, R245, R258). -/
def execKill (ten queue : Nat) (s : State) : Host.Outcome State Fault Refusal :=
  runPacket .kill ten queue s fun p s =>
    match parkedOnTrap s ten (field p.b 16 4) (BitVec.ofNat 32 (field p.b 20 4)) with
    | none =>
      match savedOnTrap s ten (field p.b 16 4) (BitVec.ofNat 32 (field p.b 20 4)) with
      | none => .error (.fail .noWarp)
      | some (x, _, _) => .ok (p.done (killSaved s x) 0)
    | some (k, w) => onCore s (coreOfSlot k) (.ok (p.done (killWg s w.wg) 0))

/-- A cask descriptor's reserved bits are zero, and its fields are in range (R212, R248). -/
def caskSound (d : List Byte) : Bool :=
  decide (field d 0 8 % 32 = 0) && decide (field d 8 4 ≤ 2 ^ 20) && decide (field d 14 1 < 4) && zeroField d 15 1

/-- CASK (R212, R245, R258). -/
def execCask (ten queue : Nat) (s : State) : Host.Outcome State Fault Refusal :=
  runPacket .cask ten queue s fun p s =>
    let c := field p.b 16 4
    if caskCount ≤ c ∨ !inCoreSet s ten (c / 4) then .error (.fail .badPkt)
    else if !running s (c / 4) then .error (.wake [c / 4])
    else
      match p.read s (p.asid s) (BitVec.ofNat 64 (field p.b 24 8)) 16 .badPkt with
      | .error e => .error e
      | .ok (d, s) =>
        if !caskSound d then .ok (p.fail s .badPkt)
        else if 0 < (caskAt s c).held ∨ (s.warps.any fun e => match e.2.park with
            | some (.cask n _) => decide (n = c)
            | _ => false) then .ok (p.fail s .busy)
        else
          .ok (p.done (setCask (wakeCore s (c / 4)) c
            { en := (field d 14 1).testBit 0, pri := (field d 14 1).testBit 1, spill := BitVec.ofNat 64 (field d 0 8)
              scap := field d 8 4, asid := field d 12 2, ten := ten, recs := [], head := 0, spilled := 0, faults := [] }) 0)

/-- INVAL (R245). -/
def execInval (ten queue : Nat) (s : State) : Host.Outcome State Fault Refusal :=
  runPacket .inval ten queue s fun p s =>
    let n := field p.b 32 8
    .ok (p.done (dropTlb s (fun _ => true) (field p.b 16 2) (if n = 0 then none else some (field p.b 24 8, n))) 0)

/-- A page of a ring is valid, writable, pinned, and of kind HBM-C or HOST (R246). -/
def ringPageOk (s : State) (asid ten : Nat) (va : DWord) : Bool :=
  decide (region va = .translated)
    && (match findLeaf s { slot := none, asid := asid, ten := ten, core := none, svc := true, acc := .store, path := .queue } va with
        | .ok l => leafSound l.pte l.log && pteBit l.pte 3 && pteBit l.pte 8 && !pteBit l.pte 11
            && (decide (pteKind l.pte = 0) || decide (pteKind l.pte = 2))
        | .error _ => false)

/-- A ring as TENCFG would set it keeps R246. -/
def ringSound (s : State) (ten asid base log size : Nat) : Bool :=
  decide (log = 0) || (decide (4 ≤ log) && decide (log ≤ 20) && decide (base % size = 0)
    && (List.range ((size * 2 ^ log + 4095) / 4096 + 1)).all fun i =>
      decide (base / 4096 * 4096 + 4096 * i ≥ base + size * 2 ^ log) || ringPageOk s asid ten (BitVec.ofNat 64 (base / 4096 * 4096 + 4096 * i)))

/-- The ring holds an unconsumed record, or has one waiting (R246). -/
def Ring.busy (r : Ring) : Bool := decide (r.prod ≠ r.cons) || !r.waiting.isEmpty

/-- A ring as applied (R246). -/
def mkRing (base log asid : Nat) : Ring :=
  { base := BitVec.ofNat 64 base, log := log, asid := asid, prod := 0, cons := 0, waiting := [] }

/-- TENCFG (R230, R245, R246). -/
def execTencfg (ten queue : Nat) (s : State) : Host.Outcome State Fault Refusal :=
  runPacket .tencfg ten queue s fun p s =>
    match p.read s (field p.b 24 2) (BitVec.ofNat 64 (field p.b 16 8)) 64 .badPkt with
    | .error e => .error e
    | .ok (d, s) =>
      match tenAt s ten with
      | none => .error (.fail .badPkt)
      | some t =>
        let fl := field d 35 1
        let ra := field d 36 2
        let ok := fun (bit off log size : Nat) => !fl.testBit bit || ringSound s ten ra (field d off 8) (field d log 1) size
        if 16 ≤ fl ∨ !zeroField d 38 26 ∨ field d 0 8 % 64 ≠ 0 ∨ (fl ≥ 2 ∧ !t.asids.contains ra)
            ∨ !(ok 1 8 32 32 && ok 2 16 33 64 && ok 3 24 34 16) then .ok (p.fail s .badPkt)
        else if (fl.testBit 1 && t.fault.busy) || (fl.testBit 2 && t.trap.busy) || (fl.testBit 3 && t.notif.busy) then
          .ok (p.fail s .busy)
        else
          .ok (p.done (setTen s ten { t with
            tvb := if fl.testBit 0 then BitVec.ofNat 64 (field d 0 8) else t.tvb
            fault := if fl.testBit 1 then mkRing (field d 8 8) (field d 32 1) ra else t.fault
            trap := if fl.testBit 2 then mkRing (field d 16 8) (field d 33 1) ra else t.trap
            notif := if fl.testBit 3 then mkRing (field d 24 8) (field d 34 1) ra else t.notif }) 0)

/-! Replay (R141, R145, R388). -/

/-- Everything that waits for a record covered by `a` is made again (R141, R145, R388). -/
def applyAgain (s : State) (a : Again) : State :=
  let pr := a.covers
  let s := replaySplits s pr
  let s := rejoinWg s (s.warps.map fun e => e.1)
  let s := replayLanterns (replayKilns s pr) pr
  let s := replayCpls (replayCasks s pr) pr
  { s with
    preempts := s.preempts.map fun p => if p.faults.any pr then { p with faults := [] } else p
    ctxs := s.ctxs.map fun x => { x with replays := x.replays ++ [a] }
    tenancies := s.tenancies.map fun e => (e.1, { e.2 with queues := e.2.queues.map fun q =>
      (q.1, { q.2 with held := match q.2.held with
        | some h => if h.recs.any pr then none else some h
        | none => none }) }) }

/-! Migration (R144, R145, entry 17). -/

/-- The command of a MIGRATE packet: 40 bytes, +0 ASID, +8 VA, +16 expected PTE, +24 new PTE, +32 scope (entry 17). -/
def migrateSound (d : List Byte) : Bool := zeroField d 2 6 && decide (field d 32 1 < 4) && zeroField d 33 7

/-- A PTE without P and M, and with M set. -/
def unmarked (e : DWord) : DWord := e &&& ~~~(0x900 : DWord)
def marked (e : DWord) : DWord := unmarked e ||| 0x800

/-- The leaf entry of an address, whatever it permits. -/
def leafOf (s : State) (asid : Nat) (va : Nat) : Option Leaf :=
  match walk s none asid va with
  | .ok l => some l
  | .error _ => none

/-- A PTE is written. -/
def setPte (s : State) (loc : Nat) (e : DWord) : State := { s with mem := memWrite s.mem loc (leBytes 8 e.toNat) }

/-- MIGRATE (R144): the PTE is marked migrating, and cached translations of the page are removed. DESIGN CHOICE (entry 43): at REDUCED a page
one of whose tables lies on stacks 4 to 7 is refused, while a descriptor there is read, and frames there or in T2 are copied, as at FULL. -/
def execMigrate (ten queue : Nat) (s : State) : Host.Outcome State Fault Refusal :=
  runPacket .migrate ten queue s fun p s =>
    match p.read s (p.asid s) (BitVec.ofNat 64 (field p.b 16 8)) 40 .badPkt with
    | .error e => .error e
    | .ok (d, s) =>
      if !migrateSound d then .ok (p.fail s .badPkt)
      else
        let asid := field d 0 2
        let va := field d 8 8
        let old := unmarked (BitVec.ofNat 64 (field d 16 8))
        match leafOf s asid va with
        | none => .ok (p.fail s .refused)
        | some l =>
          if (descriptor s asid).ten ≠ ten ∨ l.pte ≠ old then .ok (p.fail s .refused)
          else
            let m : Migration :=
              { ten := ten, queue := queue, index := p.i, cpl := p.cpl, asid := asid, va := BitVec.ofNat 64 va, expected := old
                newPte := BitVec.ofNat 64 (field d 24 8), scope := field d 32 1, pteLoc := l.loc, log := l.log }
            let s := dropTlb (setPte s l.loc (marked old)) (fun _ => true) asid (some (va / 2 ^ l.log * 2 ^ l.log, 2 ^ l.log))
            .ok (dropName { s with migs := tset s.migs s.nextId m })

/-- The frame a PTE of the page maps. -/
def Migration.frame (m : Migration) (e : DWord) : Nat :=
  leafLoc { pte := e, loc := m.pteLoc, level := 3, log := m.log, path := [] } (BitVec.ofNat 64 (m.va.toNat / 2 ^ m.log * 2 ^ m.log))

/-- A translated access to the page's old frame has not completed (R144). -/
def Migration.inFlight (m : Migration) (s : State) : Bool :=
  let a := m.frame m.expected
  let hits := fun (x : Xlat) => decide (a ≤ x.loc) && decide (x.loc < a + 2 ^ m.log)
  (s.warps.any fun e => e.2.ops.any fun o =>
    match o.kind with
    | .access c => c.pieces.any fun p => !p.done && (match p.at? with
        | some x => hits x
        | none => false)
    | _ => false)
    || s.reds.any fun r => !r.applied && hits r.xl

/-- The key an ASID's page goes through, when it is loaded (R146). -/
def pageKeyOf (s : State) (asid : Nat) (e : DWord) : Option (Nat × Nat) :=
  (leafKey (descriptor s asid) e).bind fun n => (tget s.keySlots n).map fun k => (n, k.gen)

/-- MIGRATION_COPY (R144, R145): reductions applied to the page take their places (R160), the page is copied with its uncorrectable
marks, the new PTE installed, and MIGRATING accesses are made again. -/
def execMigrationCopy (mig : Nat) (s : State) : Host.Outcome State Fault Refusal :=
  match tget s.migs mig with
  | none => .next s
  | some m =>
    if m.inFlight s then .next s
    else
      let n := 2 ^ m.log
      let s1 := placeReductions { s with migs := tdel s.migs mig } fun r => r.applied && rangesMeet (m.frame m.expected) n r.xl.loc 4
      let s2 := markBytes (writeBytes s1 (pageKeyOf s m.asid m.newPte) (m.frame m.newPte)
        (rawBytes s1 (pageKeyOf s m.asid m.expected) (m.frame m.expected) n)) (m.frame m.newPte) (marksOf s1 (m.frame m.expected) n)
      if BitVec.ofNat 64 (memNat s2.mem m.pteLoc 8) ≠ marked m.expected then
        .next (complete s2 m.ten m.queue m.index m.cpl .changed 0)
      else
        let page := m.va.toNat / n * n
        let s3 := dropTlb (setPte s2 m.pteLoc (m.newPte &&& ~~~(0x800 : DWord))) (fun _ => true) m.asid (some (page, n))
        .next (complete (applyAgain s3 (.page m.asid page m.log)) m.ten m.queue m.index m.cpl .done 0)

/-! Which packet is taken next (R249). -/

/-- The event that takes a packet of a kind. -/
def execPacket (kd : PacketKind) (ten q : Nat) (s : State) : Host.Outcome State Fault Refusal :=
  match kd with
  | .launch => execLaunch ten q s
  | .load => execLoad ten q s
  | .unload => execUnload ten q s
  | .preempt => execPreempt ten q s
  | .resume => execResume ten q s
  | .signal => execSignal ten q s
  | .barrier => execBarrier ten q s
  | .trapres => execTrapres ten q s
  | .kill => execKill ten q s
  | .cask => execCask ten q s
  | .migrate => execMigrate ten q s
  | .inval => execInval ten q s
  | .tencfg => execTencfg ten q s
  | .unknown => execBarrier ten q s

/-- The core that a packet acts on once it runs (R258). -/
def packetCore (s : State) (ten : Nat) (b : List Byte) : Option Nat :=
  match packetKind b with
  | .resume => (s.ctxs.find? fun y => decide (y.ten = ten) && !y.waiting && decide (y.va.toNat = field b 8 8)).bind (restoreCore s)
  | .trapres => (parkedOnTrap s ten (field b 16 4) (BitVec.ofNat 32 (field b 20 4))).map fun e => coreOfSlot e.1
  | .kill => (parkedOnTrap s ten (field b 16 4) (BitVec.ofNat 32 (field b 20 4))).map fun e => coreOfSlot e.1
  | .cask => if field b 16 4 < caskCount ∧ inCoreSet s ten (field b 16 4 / 4) then some (field b 16 4 / 4) else none
  | _ => none

/-- The cores in whose slices lie the bytes that the packet `b`, at the head of queue `q`, reads, or the record that it serves. -/
def packetSlices (s : State) (ten q : Nat) (b : List Byte) : List Nat :=
  let p : Pk := { ten := ten, q := q, i := 0, cpl := 0, b := b }
  match packetKind b with
  | .launch => p.slices s (field b 28 2) (BitVec.ofNat 64 (field b 32 8)) (field b 30 2)
  | .load => if field b 24 4 = 0 then p.slices s (p.asid s) (BitVec.ofNat 64 (field b 8 8)) (field b 16 8) else []
  | .cask => p.slices s (p.asid s) (BitVec.ofNat 64 (field b 24 8)) 16
  | .migrate => p.slices s (p.asid s) (BitVec.ofNat 64 (field b 16 8)) 40
  | .tencfg => p.slices s (field b 24 2) (BitVec.ofNat 64 (field b 16 8)) 64
  | .trapres =>
    match parkedOnTrap s ten (field b 16 4) (BitVec.ofNat 32 (field b 20 4)) with
    | some (k, w) => recordSlices s k w.parkSplit
    | none => []
  | _ => []

/-- The cores that the packet `b` at the head of queue `q` needs running (R258). -/
def packetNeeds (s : State) (ten q : Nat) (b : List Byte) : List Nat := (packetCore s ten b).toList ++ packetSlices s ten q b

/-- The packet at the head of the queue can be taken now: a BARRIER and a RESUME may have to wait, and one whose core is waking
waits until it runs. -/
def packetReady (s : State) (ten q : Nat) : Bool :=
  match headOf s ten q with
  | none => false
  | some (x, b) =>
    ((packetNeeds s ten q b).all (coreWakes s) || !packetSound (packetKind b) b) &&
    match packetKind b with
    | .barrier => !packetSound .barrier b || x.live.isEmpty
    | .resume =>
      match s.ctxs.find? fun y => decide (y.ten = ten) && !y.waiting && decide (y.va.toNat = field b 8 8) with
      | none => true
      | some y => !packetSound .resume b || (restoreCore s y).isSome
    | .trapres =>
      match parkedOnTrap s ten (field b 16 4) (BitVec.ofNat 32 (field b 20 4)) with
      | none => true
      | some (k, w) =>
        match trapresResume s k w b with
        | .error .wait => !packetSound .trapres b
        | _ => true
    | _ => true

/-- Queues with a packet to take: tenancy, queue, priority, when it was last served. -/
def readyQueues (s : State) : List (Nat × Nat × Nat × Nat) :=
  s.tenancies.flatMap fun t => t.2.queues.filterMap fun q =>
    if packetReady s t.1 q.1 then some (t.1, q.1, q.2.spec.priority, q.2.served) else none

/-- By priority level, and round-robin within a level: the queue that was served longest ago (R249). -/
def nextQueue (s : State) : Option (Nat × Nat) :=
  ((readyQueues s).foldl (fun (r : Option (Nat × Nat × Nat × Nat)) e =>
    match r with
    | none => some e
    | some x =>
      if e.2.2.1 < x.2.2.1 ∨ (e.2.2.1 = x.2.2.1 ∧ e.2.2.2 < x.2.2.2) then some e else r) none).map fun e => (e.1, e.2.1)

end Sys2Proof.Machine
end

