-- ==== Sys2Proof/Machine/Host.lean ====
section
/-! DEFINITION. What the outside world does: control pages, tenancies, frames, keys, resets, bring-up, power gating, soft errors, CXL.mem
and the domain links (R23, R39, R140 to R143, R146, R147, R161, R171, R229, R239 to R243, R247, R250, R256 to R258). -/

namespace Sys2Proof.Machine

/-! Control pages (R241, R243, R247). -/

/-- DBELL: the write index of a queue (R241); at FIRMWARE it is latched (R257). -/
def execDbell (ten queue : Nat) (v : DWord) (s : State) : Host.Outcome State Fault Refusal :=
  .next (updQueue s ten queue fun x => { x with wr := v.toNat })

/-- REPLAY (R141). -/
def execReplay (ten : Nat) (v : Word) (s : State) : Host.Outcome State Fault Refusal := .next (applyAgain s (.upTo ten v))

/-- A write of a consumer index: a value that would claim more records than the ring holds is ignored (R247). -/
def writeCons (s : State) (ten : Nat) (rk : RingKind) (v : Word) : State :=
  match tenAt s ten with
  | none => s
  | some t =>
    let r := ringOf t rk
    if 2 ^ r.log < (r.prod - v).toNat then s
    else ringDrain (setTen s ten (setRing t rk { r with cons := v })) ten rk r.waiting.length

/-- FRCONS (R241, R247). -/
def execFrcons (ten : Nat) (v : Word) (s : State) : Host.Outcome State Fault Refusal := .next (writeCons s ten .fault v)

/-- TRCONS (R241, R247). -/
def execTrcons (ten : Nat) (v : Word) (s : State) : Host.Outcome State Fault Refusal := .next (writeCons s ten .trap v)

/-- NRCONS (R241, R247). -/
def execNrcons (ten : Nat) (v : Word) (s : State) : Host.Outcome State Fault Refusal := .next (writeCons s ten .notif v)

/-- CONTROL_REGISTER_WRITE (R5, R241, R243): a value outside a field's range is ignored, and so are reserved bits. -/
def execControlRegisterWrite (reg : ControlReg) (v : DWord) (s : State) : Host.Outcome State Fault Refusal :=
  match reg with
  | .dtbase => .next { s with dtbase := v &&& ~~~(0xFFF : DWord) }
  | .tavoid => .next (if 60 ≤ v.toNat ∧ v.toNat ≤ 110 then { s with tavoid := v.toNat } else s)
  | .gidle => .next (if 1 ≤ v.toNat ∧ v.toNat ≤ 65535 then { s with gidle := v.toNat } else s)
  | .thresh ten =>
    match tenAt s ten with
    | none => .next s
    | some t => .next (setTen s ten { t with thresh := v.toNat % 65536 })

/-! Tenancies and core sets (R147, R240, R250). -/

/-- The registers and lattice tables of a core zeroed (R147, R171), and its casks and counters emptied (R212, R250). -/
def scrubCore (s : State) (c : Nat) : State :=
  let co := coreAt s c
  let s := setCore s c { co with
    tlb := [], walks := [], lattice := [], kiln := [], brew := none, brewWait := [], brewFile := [], presence := 0, blocks := [], releases := []
    quads := co.quads.map fun q => { q with pool := Config.poolBlocks, claims := [], passes := [] } }
  { zeroRange s (sramLoc c 0) Config.sliceBytes with
    casks := s.casks.filter fun e => decide (e.1 / 4 ≠ c)
    counters := s.counters.filter fun e => decide (e.1 / 256 ≠ c) }

/-- A workgroup is resident on the core. -/
def coreBusy (s : State) (c : Nat) : Bool := s.wgs.any fun e => decide (e.2.core = c)

/-- A core joins a tenancy's core set: its slice and registers are zeroed (R147). -/
def joinCore (s : State) (c ten : Nat) : State :=
  match tenAt s ten with
  | none => s
  | some t =>
    if t.coreSet.contains c || coreBusy s c || decide (Config.cores ≤ c) then s
    else
      let s := scrubCore s c
      let s := { s with tenancies := s.tenancies.map fun e =>
        (e.1, { e.2 with coreSet := if e.1 = ten then e.2.coreSet ++ [c] else e.2.coreSet.filter fun d => decide (d ≠ c) }) }
      setCore s c { coreAt s c with ten := some ten }

/-- CORE_SET_JOIN (R147). A core with a resident workgroup does not leave its core set (entry 24). -/
def execCoreSetJoin (core ten : Nat) (s : State) : Host.Outcome State Fault Refusal := .next (joinCore s core ten)

/-- A ring before TENCFG: no entries (R247). -/
def noRing : Ring := { base := 0, log := 0, asid := 0, prod := 0, cons := 0, waiting := [] }

/-- What the host driver may give a tenancy: ids, ASIDs and key slots that exist, and queues in their ranges (R14, R240). -/
def specSound (cfg : TenancySpec) : Bool :=
  decide (cfg.id < 64) && (cfg.asids.all fun a => decide (a < Config.asids)) && (cfg.keys.all fun k => decide (k < Config.keySlots))
    && decide (cfg.queues.length ≤ 16) && decide ((cfg.queues.map fun q => q.id).Nodup)
    && cfg.queues.all fun q => decide (q.id < 16) && decide (6 ≤ q.log) && decide (q.log ≤ 16) && decide (q.priority ≤ 3)

/-- A queue at creation (R240). -/
def newQueue (q : QueueSpec) : Queue := { spec := q, wr := 0, rd := 0, live := [], unloads := [], held := none, served := 0 }

/-- A tenancy at creation: TVB 0, sequences 0, no rings (R140, R230, R231, R240). -/
def newTenancy (cfg : TenancySpec) : Tenancy :=
  { coreSet := [], asids := cfg.asids, keys := cfg.keys, tvb := 0, fseq := 0, tseq := 0, thresh := 0, fault := noRing
    trap := noRing, notif := noRing, queues := cfg.queues.foldl (fun t q => tset t q.id (newQueue q)) [], stopped := false
    resetting := false }

/-- TENANCY_CREATE (R240): an id in use, or a specification that breaks R240, changes nothing. -/
def execTenancyCreate (cfg : TenancySpec) (s : State) : Host.Outcome State Fault Refusal :=
  if !specSound cfg || (tenAt s cfg.id).isSome then .next s
  else
    let s := setTen s cfg.id (newTenancy cfg)
    .next (cfg.coreSet.foldl (fun s c => joinCore s c cfg.id) s)

/-- A remote write already sent is performed or not (R161, R250, entry 7). -/
def settleRemote (s : State) (r : RemoteWrite) : State :=
  let s1 := dropFresh { s with remotes := s.remotes.filter fun x => decide (x.id ≠ r.id) }
  match (warpAt s r.slot).bind fun w => w.ops.find? fun o => decide (o.id = r.op) with
  | some o =>
    match o.kind with
    | .access a => if choose s 0 2 = 0 then s1 else (performList (fun p => p.remote && !p.done) a.kind a.pieces s1).1
    | _ => s1
  | none => s1

/-- The Lantern blocks of a tenancy are zeroed and belong to no tenancy; its sequences and stage entries are gone (R225). -/
def resetDie (s : State) (ten d : Nat) : State :=
  let x := dieAt s d
  let mine := (x.stage2.filter fun e => decide (e.ten = ten)).map (fun e => (e.tier, e.phys))
    ++ (x.pool.filter fun e => decide (e.ten = ten)).map fun e => (e.tier, e.phys)
  let s := mine.foldl (fun s b => zeroRange s (lanternLoc d b.1 (b.2 * Config.blockBytes)) Config.blockBytes) s
  setDie s d { x with
    seqs := x.seqs.filter fun e => decide (e.ten ≠ ten)
    stage1 := x.stage1.filter fun e => decide (e.ten ≠ ten)
    stage2 := x.stage2.filter fun e => decide (e.ten ≠ ten)
    pool := x.pool.filter fun e => decide (e.ten ≠ ten)
    cmds := x.cmds.filter fun e => decide (e.ten ≠ ten)
    seen := x.seen.filter fun e => decide (e.1 ≠ ten)
    hints := x.hints.filter fun e => decide (e.1 ≠ ten) }

/-- Launches of a tenancy complete with KILLED (R248, R250). -/
def killLaunches (s : State) : List (Nat × Launch) → State
  | [] => s
  | l :: r => killLaunches (complete s l.2.ten l.2.queue l.2.index l.2.cpl .killed 0) r

/-- The queues of a tenancy stopped (R250); `late` says that the rest of its reset waits for cores to run (R258). -/
def stopQueues (s : State) (ten : Nat) (t : Tenancy) (late : Bool) : State :=
  setTen s ten { t with stopped := true, resetting := late, queues := t.queues.map fun q => (q.1, { q.2 with held := none }) }

/-- What a tenancy reset ends: its workgroups and all that waits for them (R250). Reductions already applied stay so (R160). -/
def endTenancy (s : State) (ten : Nat) : State :=
    let gone := fun (k : Nat) => match warpAt s k with
      | some w => decide (w.ten = ten)
      | none => false
    let s := (s.remotes.filter fun r => gone r.slot).foldl settleRemote s
    let s := placeReductions s fun r => r.applied && decide (r.ten = ten)
    { s with
      warps := s.warps.filter fun e => decide (e.2.ten ≠ ten)
      wgs := s.wgs.filter fun e => decide (e.2.ten ≠ ten)
      reds := s.reds.filter fun e => decide (e.ten ≠ ten)
      preempts := s.preempts.filter fun e => decide (e.ten ≠ ten)
      ctxs := s.ctxs.filter fun e => decide (e.ten ≠ ten)
      cpls := s.cpls.filter fun e => decide (e.ten ≠ ten)
      migs := s.migs.filter fun e => decide (e.2.ten ≠ ten) }

/-- What a tenancy reset zeroes and removes: SRAM, registers, casks and counters of its cores, cached translations of its ASIDs, its
Lantern blocks (R147, R225, R250). -/
def scrubTenancy (s : State) (ten : Nat) (t : Tenancy) : State :=
  let s := t.coreSet.foldl scrubCore s
  let s := t.asids.foldl (fun s a => dropTlb s (fun _ => true) a none) s
  (List.range s.lanterns.length).foldl (fun s d => resetDie s ten d) s

/-- A tenancy reset, every core of its core set running (R147, R250, entry 24). -/
def resetTenancy (s : State) (ten : Nat) (t : Tenancy) : State :=
  let s := scrubTenancy (endTenancy (stopQueues s ten t false) ten) ten t
  killLaunches s (s.launches.filter fun l => decide (l.2.ten = ten))

/-- TENANCY_RESET (R147, R225, R250). Gated cores of its core set are woken first, and the reset applies once they run (R258). -/
def execTenancyReset (ten : Nat) (s : State) : Host.Outcome State Fault Refusal :=
  match tenAt s ten with
  | none => .next s
  | some t =>
    if t.coreSet.all (running s) then .next (resetTenancy s ten t)
    else .next (t.coreSet.foldl wakeCore (stopQueues s ten t true))

/-- A tenancy whose reset has waited for its cores, which all run now. -/
def resetReady (s : State) : Option Nat :=
  (s.tenancies.find? fun e => e.2.resetting && e.2.coreSet.all (running s)).map fun e => e.1

/-! Frames and keys (R146, R147). -/

/-- The location of a byte of a frame space. -/
def frameLoc (kind : FrameKind) (a : Nat) : Nat :=
  match kind with
  | .hbm => hbmLoc a
  | .t2 => t2Loc a

/-- The key of a frame in the table of owners. -/
def frameKey (kind : FrameKind) (frame : Nat) : Nat :=
  match kind with
  | .hbm => frame
  | .t2 => 2 ^ 40 + frame

/-- FRAME_ASSIGN: a 4 KiB frame given to another tenancy is zeroed first (R147). -/
def execFrameAssign (kind : FrameKind) (frame ten : Nat) (s : State) : Host.Outcome State Fault Refusal :=
  let key := frameKey kind frame
  if tget s.frameOwner key = some ten then .next s
  else
    let s := zeroRange s (frameLoc kind (4096 * frame)) 4096
    .next { s with frameOwner := tset s.frameOwner key ten }

/-- KEY_SLOT_LOAD (R146). -/
def execKeySlotLoad (slot ten gen : Nat) (s : State) : Host.Outcome State Fault Refusal :=
  .next (if slot < Config.keySlots then { s with keySlots := tset s.keySlots slot { ten := ten, gen := gen } } else s)

/-! Accesses from outside (R161, R239, R256, R257). -/

/-- Capacity of a frame space (R132). -/
def frameCap (kind : FrameKind) : Nat :=
  match kind with
  | .hbm => Config.hbmBytes
  | .t2 => Config.t2Bytes

/-- Outside accesses reach the bytes at this level (R257). -/
def frameUp (s : State) (kind : FrameKind) (a n : Nat) : Bool :=
  decide (a + n ≤ frameCap kind) && decide (0 < s.level)
    && (match kind with
        | .hbm => decide (n = 0) || !stackDown s (a + n - 1)
        | .t2 => decide (s.level = 2))

/-- The location of a byte that the host die reaches. -/
def spaceLoc (sp : HostSpace) (a : Nat) : Nat :=
  match sp with
  | .hbm => hbmLoc a
  | .t2 => t2Loc a
  | .host => hostLoc a

/-- The host die's accesses reach the bytes: its own memory always, the package's frames by level (R239, R257). -/
def spaceUp (s : State) (sp : HostSpace) (a n : Nat) : Bool :=
  match sp with
  | .hbm => frameUp s .hbm a n
  | .t2 => frameUp s .t2 a n
  | .host => true

/-- The bytes read for an outside access, or that memory marks them uncorrectable (R229). -/
def outsideRead (s : State) (key : Option (Nat × Nat)) (loc n : Nat) : Response :=
  if poisoned s loc n then .poison else .data (readBytes s key loc n)

/-- HOST_CXL_MEM_ACCESS (R239, R257): an access of the host die over CXL.mem, or to its own memory, which the package's accesses of
kind HOST see. -/
def execHostCxlMemAccess (acc : CxlAccess) (s : State) : Host.Outcome State Fault Refusal :=
  let n := if acc.write then acc.data.length else acc.len
  if !spaceUp s acc.space acc.addr n then .next { s with cxlResp := some .error }
  else
    let loc := spaceLoc acc.space acc.addr
    if acc.write then .next { writeBytes s none loc acc.data with cxlResp := some .done }
    else .next { s with cxlResp := some (outsideRead s none loc n) }

/-- The key a request of another package travels with, as this node's slot (R146): none when the slot is not loaded or is owned by
another tenancy than the request's. -/
def homeKey (s : State) (ten : Nat) : Option Nat → Option (Option (Nat × Nat))
  | none => some none
  | some n => (tget s.keySlots n).bind fun k => if k.ten = ten then some (some (n, k.gen)) else none

/-- Bytes a request touches. -/
def RemoteAct.len : RemoteAct → Nat
  | .store d => d.length
  | .load n => n
  | .atomic _ _ _ _ => 4
  | .reduce _ _ _ => 4

/-- The combiner of the stack takes in a reduction of another package, behind those it has accepted; it is answered when it is applied
(R160, R176). -/
def acceptOutside (s : State) (req : RemoteRequest) (key : Option (Nat × Nat)) (loc : Nat) (op : AtomOp) (et : ElemType) (v : Word) :
    State :=
  let r : Reduction :=
    { id := s.nextId, slot := outsideSlot, cmd := s.nextId, op := op, et := et, val := v, seq := s.nextId
      va := BitVec.ofNat 64 req.addr, xl := { loc := loc, kind := 0, key := key, counter := none }, asid := 0, ten := req.ten
      due := s.now + nextTime s, applied := false }
  dropTime (dropName { s with reds := s.reds ++ [r], remoteResp := none })

/-- HOME_NODE_REMOTE_REQUEST (R161, R176, R256). An atomic or reduction on data that memory marks uncorrectable leaves it as it is
(R229, entry 26). -/
def execHomeNodeRemoteRequest (req : RemoteRequest) (s : State) : Host.Outcome State Fault Refusal :=
  match homeKey s req.ten req.key with
  | none => .next { s with remoteResp := some .error }
  | some key =>
    let loc := frameLoc req.kind req.addr
    let n := RemoteAct.len req.act
    if !frameUp s req.kind req.addr n || decide (s.level < 2) then .next { s with remoteResp := some .error }
    else
      match req.act with
      | .store d => .next { writeBytes s key loc d with remoteResp := some .done }
      | .load n => .next { s with remoteResp := some (outsideRead s key loc n) }
      | .atomic op et x y =>
        if poisoned s loc 4 then .next { s with remoteResp := some .poison }
        else
        let r := atomAt s { loc := loc, kind := 0, key := key, counter := none } op et x y
        .next { r.1 with remoteResp := some (.data (leBytes 4 r.2.toNat)) }
      | .reduce op et v =>
        if req.kind = .t2 then .next { s with remoteResp := some .error }
        else .next (acceptOutside s req key loc op et v)

/-- UNCORRECTABLE_SOFT_ERROR: the bytes are marked uncorrectable (R229). -/
def execUncorrectableSoftError (loc len : Nat) (s : State) : Host.Outcome State Fault Refusal :=
  .next { s with poison := s.poison ++ (List.range len).map fun i => loc + i }

/-! Reset and bring-up (R39, R257). -/

/-- PACKAGE_RESET (R257): FIRMWARE, nothing resident, cycle counters zero. What memory holds, and the model's own inputs,
stay (entry 20). -/
def execPackageReset (s : State) : Host.Outcome State Fault Refusal :=
  let s := placeReductions s fun r => r.applied
  .next { State.reset with
    mem := s.mem, poison := s.poison, farRows := s.farRows, sectorKeys := s.sectorKeys, inputs := s.inputs, times := s.times, fresh := s.fresh
    nextId := s.nextId }

/-- A core starts to run: its cycle counter counts from here (R39, R257, entry 23). -/
def startCore (s : State) (c : Nat) : State :=
  setCore s c { coreAt s c with clkLost := s.now, idleSince := some (s.now, s.gidle) }

/-- LEVEL_ADVANCE (R257): the level rises by one, up to FULL, and the cores of that level start. -/
def execLevelAdvance (s : State) : Host.Outcome State Fault Refusal :=
  if s.level = 0 then .next { (List.range 96).foldl startCore s with level := 1 }
  else if s.level = 1 then .next { ((List.range 96).map fun c => 96 + c).foldl startCore s with level := 2 }
  else .next s

/-! Power gating (R258). -/

/-- A warp is parked on a barrier, keg, cask, CLAIM or WAKEW (R258). -/
def parkedIdle (w : Warp) : Bool :=
  match w.park with
  | some (.keg _) => true
  | some (.cask _ _) => true
  | some (.barrier _ _) => true
  | some (.arrival _ _) => true
  | some .quadBarrier => true
  | some .wake => true
  | some _ => false
  | none => !w.splits.isEmpty && w.splits.all fun e => decide (e.2.park = .claim)

/-- A core is idle (R258). -/
def coreIdle (s : State) (c : Nat) : Bool :=
  (s.warps.all fun e => decide (coreOfSlot e.1 ≠ c) || parkedIdle e.2)
    && (coreAt s c).kiln.isEmpty && (coreAt s c).releases.isEmpty
    && s.reds.all fun r => r.applied || decide (spaceOf r.xl.loc ≠ 0) || decide (r.xl.loc / Config.sliceBytes ≠ c)

/-- A queue's packet at its head needs core `c` running, or the refill of a cask's spill ring does (R258). -/
def needed (s : State) (c : Nat) : Bool :=
  (s.tenancies.any fun t => t.2.queues.any fun q => (headOf s t.1 q.1).any fun h => (packetNeeds s t.1 q.1 h.2).contains c)
    || s.casks.any fun e => refillDue e.2 && (refillSlices s e.1).contains c

/-- Something that has woken core `c`, or keeps it awake, is still to be applied there: a launch, a saved workgroup, the reset of a
tenancy whose core set holds it, a packet or a refill (R258). -/
def awaited (s : State) (c : Nat) : Bool :=
  (s.launches.any fun l => decide (l.2.target = some c)) || (s.ctxs.any fun x => decide (x.target = some c))
    || (s.tenancies.any fun t => t.2.resetting && t.2.coreSet.contains c) || needed s c

/-- Gating is due at core `c`: the idle time that was set when its idle period began is over (R243, R258). -/
def gateDue (s : State) (c : Nat) : Bool :=
  coreUp s c && running s c && coreIdle s c && !awaited s c
    && (match (coreAt s c).idleSince with
        | some t => decide (t.1 + t.2 * microCycles s ≤ s.now)
        | none => false)

/-- GATE_COMMIT: state is retained, translation caches are emptied, the clock stops (R39, R258). -/
def execGateCommit (core : Nat) (s : State) : Host.Outcome State Fault Refusal :=
  let co := coreAt s core
  .next (if gateDue s core then setCore s core { co with gatedAt := some s.now, tlb := [], walks := [] } else s)

/-- WAKE_MESSAGE: it aborts gating, or starts an ungate (R258). -/
def execWakeMessage (core : Nat) (s : State) : Host.Outcome State Fault Refusal := .next (wakeCore s core)

/-- A gated core's ungate is complete. -/
def ungateDue (s : State) (c : Nat) : Bool :=
  match (coreAt s c).wakeAt with
  | some t => decide (t ≤ s.now)
  | none => false

/-- CORE_UNGATE: the core runs again, its cycle counter goes on, and the stores latched for its slice are made (R39, R258). -/
def execCoreUngate (core : Nat) (s : State) : Host.Outcome State Fault Refusal :=
  let co := coreAt s core
  if !ungateDue s core then .next s
  else
    let lost := match co.gatedAt with
      | some t => s.now - t
      | none => 0
    .next (applyLatched (setCore s core { co with gatedAt := none, wakeAt := none, idleSince := none, clkLost := co.clkLost + lost }) core)

/-- When the idle period of a core began, with the idle time set then, or none (R243, R258). -/
def idleStart (now gidle : Nat) (idle : Bool) (since : Option (Nat × Nat)) : Option (Nat × Nat) :=
  match idle, since with
  | true, some t => some t
  | true, none => some (now, gidle)
  | false, _ => none

/-- The start of each core's idle time, as a cycle begins (R258). -/
def trackIdle (s : State) : State :=
  { s with cores := s.cores.map fun e => (e.1, { e.2 with idleSince := idleStart s.now s.gidle (coreIdle s e.1) e.2.idleSince }) }

/-- Time goes on by one cycle. -/
def tick (s : State) : State := trackIdle { s with now := s.now + 1, cur := none, fresh := s.fresh + 1 }

end Sys2Proof.Machine
end

