-- ==== Sys2Proof/Machine/Matrix.lean ====
section
/-! DEFINITION. The matrix instructions, their results and their checksums (R128, R129, R177 to R187, R318, R319). -/

namespace Sys2Proof.Machine

/-- The slots of the four partners of a warp, by quadrant; none for a partner that has retired (R177, R183). -/
def partnersOf (g : Workgroup) (index : Nat) : List (Option Nat) :=
  (List.range 4).map fun q => tget g.warps (index / 4 * 4 + q)

/-- The warp's quad has four members (R177): the workgroup has a warp of each of its four indexes. -/
def quadComplete (g : Workgroup) (index : Nat) : Bool := decide (index / 4 * 4 + 3 < g.n)

/-- The quad word must raise CONVERGE (R177). -/
def quadForbidden (cx : Cx) : Bool := !quadComplete cx.g cx.w.index || cx.w.iter.isSome || dividedOrSerial cx.w cx.j

/-- The first register index beyond an allotment that a matrix word names: the issuer's d + 3 and a + 3, then b at any
live partner; an iteration warp has no partners, and b is bounded at itself (R20, R33, R181). -/
def matrixBound (s : State) (cx : Cx) (d a b : Nat) : Option Nat :=
  match boundFail cx.w [d + 3, a + 3] with
  | some n => some n
  | none =>
    if cx.w.iter.isSome then boundFail cx.w [b]
    else if (partnersOf cx.g cx.w.index).any fun x =>
        match x.bind (warpAt s) with
        | some w => decide (8 * w.allot ≤ b)
        | none => false
    then some b else none

/-- The matrix operations of the warps of a quadrant. -/
def arrayOps (s : State) (k : Nat) : List MatrixOp :=
  (s.warps.filter fun e => decide (e.1 / 16 = k / 16)).flatMap fun e => e.2.ops.filterMap fun o =>
    match o.kind with
    | .matrix m => some m
    | _ => none

/-- A comparison of this very cycle has reserved the array from the next one on (R186): until then the array is held only by the words
that run in it and by earlier reruns (R185). -/
def justReserved (s : State) (k : Nat) : Bool :=
  let ms := arrayOps s k
  (ms.any fun m => m.rerun && decide (m.start + 20 = s.now))
    && !(ms.any fun m => decide (s.now < m.start + 4) || (m.rerun && decide (m.start + 21 ≤ s.now) && decide (s.now < m.start + 28)))

/-- The forms of the matrix instruction (R181). -/
inductive MatrixForm where
  | plain | complex | zero
deriving DecidableEq, Repr

/-- MMA, MMAC and MMAZ: checks in the order of R181, then CLAUSE; A and C are read at issue, B from then on (R182,
R183, R318). -/
def matrixWord (i : Instr) (f : MatrixForm) (d a b : BitVec 7) (s : State) : Host.Outcome State Fault Refusal :=
  runWord (.vector true) false i s fun cx _ s =>
    let e := eff s cx
    let c := coreOfSlot cx.k
    let q := quadAt s c (quadOfSlot cx.k)
    if decide (s.now < q.arrayFree) && !justReserved s cx.k then .error .wait
    else
      match matrixBound s cx d.toNat a.toNat b.toNat with
      | some n => .error (.trap (mkTrap .regbound (BitVec.ofNat 32 n) e))
      | none =>
        if quadForbidden cx || decide (e ≠ BitVec.allOnes 64) then .error (wordTrap .converge i e)
        else if (cxFlag cx false).isNone then .error (wordTrap .clause i e)
        else
          let ps := partnersOf cx.g cx.w.index
          let m : MatrixOp :=
            { complex := decide (f = .complex), d := d.toNat
              a := (List.range 4).map fun r => readV s cx.w (a.toNat + r)
              c := (List.range 4).map fun r => if f = .zero then zeroRow else readV s cx.w (d.toNat + r)
              bs := ps.map fun x =>
                match x.bind (warpAt s) with
                | some w => [w.v.getD b.toNat zeroRow]
                | none => []
              partners := ps, b := b.toNat, start := s.now, compared := false, rerun := false }
          let s := setQuad s c (quadOfSlot cx.k) { q with arrayFree := max q.arrayFree (s.now + 4) }
          let s := spendPasses s cx true e
          let s := addOp s cx (cxFlag cx false) (s.now + 24) false .none (.matrix m)
          .ok (updWarp s cx.k fun w => (List.range 4).foldl (fun w r => w.unlatch (.v (d.toNat + r))) w, .seq)

/-- MMA (R318). -/
def execMma (d a b : BitVec 7) (s : State) : Host.Outcome State Fault Refusal := matrixWord (.mma d a b) .plain d a b s

/-- MMAC (R318). -/
def execMmac (d a b : BitVec 7) (s : State) : Host.Outcome State Fault Refusal := matrixWord (.mmac d a b) .complex d a b s

/-- MMAZ (R318). -/
def execMmaz (d a b : BitVec 7) (s : State) : Host.Outcome State Fault Refusal := matrixWord (.mmaz d a b) .zero d a b s

/-! The product. -/

/-- A half of a lane word, as a BF16 value. -/
def halfF (w : Word) (hi : Bool) : FVal := decodeF fBF16 (if hi then w.toNat / 2 ^ 16 else w.toNat % 2 ^ 16)

/-- A(i, k) of four registers (R178). -/
def fragA (rows : List Row) (i k : Nat) : FVal :=
  halfF (lane (rows.getD (k % 8 / 2) zeroRow) (4 * i + k / 8)) (decide (k % 2 = 1))

/-- C(i, j) of four registers (R178). -/
def fragC (rows : List Row) (i j : Nat) : FVal :=
  decodeF fF32 (lane (rows.getD (j % 4) zeroRow) (4 * i + j / 4)).toNat

/-- B(k, j): the element of quarter k div 8. Where the register was written while B was read, each element is
independently one of the values, by a free value (R178, R183, entry 7); with no value the partner had retired, and it is
+0. -/
def fragB (fresh : Nat) (bs : List (List Row)) (k j : Nat) : FVal :=
  match bs.getD (k / 8) [] with
  | [] => .fin false 0 0
  | [r] => halfF (lane r (k % 8 * 8 + j / 2)) (decide (j % 2 = 1))
  | r :: r' :: rest =>
    let n := Config.freeChoice fresh (16 * k + j) % (rest.length + 2)
    halfF (lane ((r :: r' :: rest).getD n r) (k % 8 * 8 + j / 2)) (decide (j % 2 = 1))

/-- The group of output (i, j) (R129). -/
def matrixTerms (m : MatrixOp) (fresh i j : Nat) : List FVal :=
  if m.complex then
    (List.range 16).flatMap (fun k =>
      let ar := fragA m.a i (2 * k)
      let ai := fragA m.a i (2 * k + 1)
      let br := fragB fresh m.bs k (j / 2 * 2)
      let bi := fragB fresh m.bs k (j / 2 * 2 + 1)
      if j % 2 = 0 then [mulF ar br, negF (mulF ai bi)] else [mulF ar bi, mulF ai br]) ++ [fragC m.c i j]
  else ((List.range 32).map fun k => mulF (fragA m.a i k) (fragB fresh m.bs k j)) ++ [fragC m.c i j]

/-- Register d + r of the result (R178, R182). -/
def matrixRow (m : MatrixOp) (fresh r : Nat) : Row :=
  rowOf fun l => BitVec.ofNat 32 (windowSum (matrixTerms m fresh (l / 4) (4 * (l % 4) + r)))

/-- The outstanding matrix operation `op` of a slot. -/
def matrixAt (s : State) (slot op : Nat) : Option (Op × MatrixOp) :=
  (warpAt s slot).bind fun w => (w.ops.find? fun o => decide (o.id = op)).bind fun o =>
    match o.kind with
    | .matrix m => some (o, m)
    | _ => none

/-- The result is written in all 64 lanes and the flag cleared (R182, R185). -/
def deliverMatrix (s : State) (slot : Nat) (o : Op) (m : MatrixOp) : State :=
  let t := (List.range 4).foldl (fun t r =>
    commit t slot (.v (m.d + r)) (.row (matrixRow m s.fresh r)) (BitVec.allOnes 64)) s
  updWarp { t with fresh := t.fresh + 1 } slot fun w => w.setOp o.id none

/-- MMA_RESULT: at t + 24, after a comparison without mismatch (R185). -/
def execMmaResult (slot op : Nat) (s : State) : Host.Outcome State Fault Refusal :=
  .next (match matrixAt s slot op with
    | some (o, m) => if m.compared && !m.rerun && decide (m.start + 24 ≤ s.now) then deliverMatrix s slot o m else s
    | none => s)

/-- One more, saturating at 0xFFFF (R187). -/
def satCount (n : Nat) : Nat := min (n + 1) 0xFFFF

/-- A quadrant changed. -/
def updQuad (s : State) (k : Nat) (f : Quad → Quad) : State :=
  setQuad s (coreOfSlot k) (quadOfSlot k) (f (quadAt s (coreOfSlot k) (quadOfSlot k)))

/-- CHECKSUM_COMPARE: completes at t + 20; a mismatch starts a rerun that reserves the array from t + 24 to t + 27, and no matrix
word issues from t + 21 on, while one that is ready at t + 20 still does (`justReserved`, R186, R187). -/
def execChecksumCompare (slot op : Nat) (mismatch : Bool) (s : State) : Host.Outcome State Fault Refusal :=
  .next (match matrixAt s slot op with
    | some (o, m) =>
      if m.compared || decide (s.now < m.start + 20) then s
      else
        let m' : MatrixOp := { m with compared := true, rerun := mismatch }
        let o' : Op := { o with kind := .matrix m', due := if mismatch then m.start + 48 else o.due }
        let s := updWarp s slot fun w => w.setOp o.id (some o')
        if mismatch then updQuad s slot fun q =>
          { q with arrayFree := max q.arrayFree (m.start + 28), rerunCount := satCount q.rerunCount }
        else s
    | none => s)

/-- CHECKSUM_RERUN_RESULT: at t + 48 the rerun delivers, or a second mismatch raises ARRAY, deferred (R186, R229). -/
def execChecksumRerunResult (slot op : Nat) (mismatch : Bool) (s : State) : Host.Outcome State Fault Refusal :=
  .next (match matrixAt s slot op with
    | some (o, m) =>
      if !m.rerun || decide (s.now < m.start + 48) then s
      else if mismatch then
        let s := updWarp s slot fun w =>
          (w.setOp o.id none).deferTrap (mkTrap .array (BitVec.ofNat 32 m.d) (BitVec.allOnes 64)) o.pc o.split true
        updQuad s slot fun q => { q with failCount := satCount q.failCount }
      else deliverMatrix s slot o m
    | none => s)

end Sys2Proof.Machine
end

