-- ==== Sys2Proof/Machine/Scalar.lean ====
section
/-! DEFINITION. Scalar arithmetic, compares, predicates, the mode, scalar memory, register indirection and status registers
(R36, R39, R53 to R58, R187, R230, R242, R320, R321, R326 to R328, R336 to R340, R343 to R347, R351, R352, R374, R375). -/

namespace Sys2Proof.Machine

/-- A scalar word with one scalar result, visible 2 cycles after issue (R50). -/
def scalarOut (i : Instr) (d : Nat) (s : State) (f : State → Cx → Word) : Host.Outcome State Fault Refusal :=
  runWord .scalar false i s fun cx _ s => .ok (emit s cx.k cx.j (.s d) (.word (f s cx)) (eff s cx) 2, .seq)

/-- A scalar word with a predicate result in the lanes of e, visible 2 cycles after issue (R50, R326). -/
def predOut (i : Instr) (d : Nat) (s : State) (f : State → Cx → Mask) : Host.Outcome State Fault Refusal :=
  runWord .scalar false i s fun cx _ s => .ok (emit s cx.k cx.j (.p d) (.mask (f s cx)) (eff s cx) 2, .seq)

/-- SADD to SMAX (R336). -/
inductive ScalarOp where
  | add | sub | mul | and | or | xor | shl | shr | sra | min | max
deriving DecidableEq, Repr

/-- The result of a scalar operation (R336). -/
def scalarWord (op : ScalarOp) (a b : Word) : Word :=
  match op with
  | .add => a + b
  | .sub => a - b
  | .mul => a * b
  | .and => a &&& b
  | .or => a ||| b
  | .xor => a ^^^ b
  | .shl => if b.toNat ≥ 32 then 0 else a <<< b.toNat
  | .shr => if b.toNat ≥ 32 then 0 else a >>> b.toNat
  | .sra => a.sshiftRight (min b.toNat 31)
  | .min => if a.toInt ≤ b.toInt then a else b
  | .max => if a.toInt ≤ b.toInt then b else a

/-- A scalar ALU word (R336, R337). -/
def scalarAlu (i : Instr) (op : ScalarOp) (d a b : BitVec 7) (s : State) : Host.Outcome State Fault Refusal :=
  scalarOut i d.toNat s fun s cx => scalarWord op (readS s cx.w a.toNat) (readS s cx.w b.toNat)

/-- The comparisons of SCMP (R340). -/
inductive ScalarCmp where
  | eq | ne | lt | le | gt | ge | ltu | geu
deriving DecidableEq, Repr

/-- A comparison of two words (R340). -/
def scalarHolds (op : ScalarCmp) (a b : Word) : Bool :=
  match op with
  | .eq => decide (a = b)
  | .ne => decide (a ≠ b)
  | .lt => decide (a.toInt < b.toInt)
  | .le => decide (a.toInt ≤ b.toInt)
  | .gt => decide (a.toInt > b.toInt)
  | .ge => decide (a.toInt ≥ b.toInt)
  | .ltu => decide (a.toNat < b.toNat)
  | .geu => decide (a.toNat ≥ b.toNat)

/-- Every lane, or none. -/
def fullMask (x : Bool) : Mask := if x then BitVec.allOnes 64 else 0

/-- SCMP (R340). -/
def scalarCmp (i : Instr) (op : ScalarCmp) (d a b : BitVec 7) (s : State) : Host.Outcome State Fault Refusal :=
  predOut i d.toNat s fun s cx => fullMask (scalarHolds op (readS s cx.w a.toNat) (readS s cx.w b.toNat))

/-- PAND, POR, PXOR and PANDN (R326). -/
def predLogic (i : Instr) (f : Mask → Mask → Mask) (d a b : BitVec 7) (s : State) : Host.Outcome State Fault Refusal :=
  predOut i d.toNat s fun _ cx => f (cx.w.p.getD a.toNat 0) (cx.w.p.getD b.toNat 0)

/-- imm16 sign-extended to a word (R338). -/
def simm (imm : Half) : Word := imm.signExtend 32

/-- SADD (R336). -/
def execSadd (d a b : BitVec 7) (s : State) : Host.Outcome State Fault Refusal :=
  scalarAlu (.sadd d a b) .add d a b s

/-- SSUB (R336). -/
def execSsub (d a b : BitVec 7) (s : State) : Host.Outcome State Fault Refusal :=
  scalarAlu (.ssub d a b) .sub d a b s

/-- SMUL (R336). -/
def execSmul (d a b : BitVec 7) (s : State) : Host.Outcome State Fault Refusal :=
  scalarAlu (.smul d a b) .mul d a b s

/-- SAND (R336). -/
def execSand (d a b : BitVec 7) (s : State) : Host.Outcome State Fault Refusal :=
  scalarAlu (.sand d a b) .and d a b s

/-- SOR (R336). -/
def execSor (d a b : BitVec 7) (s : State) : Host.Outcome State Fault Refusal :=
  scalarAlu (.sor d a b) .or d a b s

/-- SXOR (R336). -/
def execSxor (d a b : BitVec 7) (s : State) : Host.Outcome State Fault Refusal :=
  scalarAlu (.sxor d a b) .xor d a b s

/-- SSHL (R336). -/
def execSshl (d a b : BitVec 7) (s : State) : Host.Outcome State Fault Refusal :=
  scalarAlu (.sshl d a b) .shl d a b s

/-- SSHR (R336). -/
def execSshr (d a b : BitVec 7) (s : State) : Host.Outcome State Fault Refusal :=
  scalarAlu (.sshr d a b) .shr d a b s

/-- SSRA (R336). -/
def execSsra (d a b : BitVec 7) (s : State) : Host.Outcome State Fault Refusal :=
  scalarAlu (.ssra d a b) .sra d a b s

/-- SMIN (R336). -/
def execSmin (d a b : BitVec 7) (s : State) : Host.Outcome State Fault Refusal :=
  scalarAlu (.smin d a b) .min d a b s

/-- SMAX (R336). -/
def execSmax (d a b : BitVec 7) (s : State) : Host.Outcome State Fault Refusal :=
  scalarAlu (.smax d a b) .max d a b s

/-- SCMP.EQ (R340). -/
def execScmpEq (d a b : BitVec 7) (s : State) : Host.Outcome State Fault Refusal :=
  scalarCmp (.scmpEq d a b) .eq d a b s

/-- SCMP.NE (R340). -/
def execScmpNe (d a b : BitVec 7) (s : State) : Host.Outcome State Fault Refusal :=
  scalarCmp (.scmpNe d a b) .ne d a b s

/-- SCMP.LT (R340). -/
def execScmpLt (d a b : BitVec 7) (s : State) : Host.Outcome State Fault Refusal :=
  scalarCmp (.scmpLt d a b) .lt d a b s

/-- SCMP.LE (R340). -/
def execScmpLe (d a b : BitVec 7) (s : State) : Host.Outcome State Fault Refusal :=
  scalarCmp (.scmpLe d a b) .le d a b s

/-- SCMP.GT (R340). -/
def execScmpGt (d a b : BitVec 7) (s : State) : Host.Outcome State Fault Refusal :=
  scalarCmp (.scmpGt d a b) .gt d a b s

/-- SCMP.GE (R340). -/
def execScmpGe (d a b : BitVec 7) (s : State) : Host.Outcome State Fault Refusal :=
  scalarCmp (.scmpGe d a b) .ge d a b s

/-- SCMP.LTU (R340). -/
def execScmpLtu (d a b : BitVec 7) (s : State) : Host.Outcome State Fault Refusal :=
  scalarCmp (.scmpLtu d a b) .ltu d a b s

/-- SCMP.GEU (R340). -/
def execScmpGeu (d a b : BitVec 7) (s : State) : Host.Outcome State Fault Refusal :=
  scalarCmp (.scmpGeu d a b) .geu d a b s

/-- PAND (R326). -/
def execPand (d a b : BitVec 7) (s : State) : Host.Outcome State Fault Refusal :=
  predLogic (.pand d a b) (fun x y => x &&& y) d a b s

/-- POR (R326). -/
def execPor (d a b : BitVec 7) (s : State) : Host.Outcome State Fault Refusal :=
  predLogic (.por d a b) (fun x y => x ||| y) d a b s

/-- PXOR (R326). -/
def execPxor (d a b : BitVec 7) (s : State) : Host.Outcome State Fault Refusal :=
  predLogic (.pxor d a b) (fun x y => x ^^^ y) d a b s

/-- PANDN (R326). -/
def execPandn (d a b : BitVec 7) (s : State) : Host.Outcome State Fault Refusal :=
  predLogic (.pandn d a b) (fun x y => x &&& ~~~y) d a b s

/-- SMOVI (R338). -/
def execSmovi (x : BitVec 6) (imm : Half) (s : State) : Host.Outcome State Fault Refusal :=
  scalarOut (.smovi x imm) x.toNat s fun _ _ => simm imm

/-- SMOVHI (R338). -/
def execSmovhi (x : BitVec 6) (imm : Half) (s : State) : Host.Outcome State Fault Refusal :=
  scalarOut (.smovhi x imm) x.toNat s fun s cx => imm ++ (readS s cx.w x.toNat).setWidth 16

/-- SADDI (R338). -/
def execSaddi (x : BitVec 6) (imm : Half) (s : State) : Host.Outcome State Fault Refusal :=
  scalarOut (.saddi x imm) x.toNat s fun s cx => readS s cx.w x.toNat + simm imm

/-- SANDI (R338). -/
def execSandi (x : BitVec 6) (imm : Half) (s : State) : Host.Outcome State Fault Refusal :=
  scalarOut (.sandi x imm) x.toNat s fun s cx => readS s cx.w x.toNat &&& simm imm

/-- MODE: not subject to its guard; the new mode governs instructions that issue in later cycles, since the scalar slot
is served after the vector slot (R55, R320, R321). -/
def execMode (x : BitVec 6) (imm : Half) (s : State) : Host.Outcome State Fault Refusal :=
  runWord .always false (.mode x imm) s fun cx _ s => .ok (updWarp s cx.k fun w => { w with mode := imm }, .seq)

/-- The predicate a field of imm16 names. -/
def predOf (cx : Cx) (imm : Half) : Mask := cx.w.p.getD (imm.toNat % 8) 0

/-- SBAL: half HALF of a predicate in the active lanes (R339). -/
def execSbal (x : BitVec 6) (imm : Half) (s : State) : Host.Outcome State Fault Refusal :=
  scalarOut (.sbal x imm) x.toNat s fun s cx =>
    let v := predOf cx imm &&& eff s cx
    if imm.getLsbD 3 then v.extractLsb' 32 32 else v.extractLsb' 0 32

/-- PCNT: the count of lanes, or the lowest one (R327). -/
def execPcnt (x : BitVec 6) (imm : Half) (s : State) : Host.Outcome State Fault Refusal :=
  scalarOut (.pcnt x imm) x.toNat s fun s cx =>
    let v := lanesOf (predOf cx imm &&& eff s cx)
    if imm.getLsbD 3 then BitVec.ofNat 32 (v.head?.getD 64) else BitVec.ofNat 32 v.length

/-- PSET: a constant, or the bits of a scalar pair (R328). -/
def execPset (x : BitVec 6) (imm : Half) (s : State) : Host.Outcome State Fault Refusal :=
  predOut (.pset x imm) x.toNat s fun s cx =>
    if imm.getLsbD 7 then readPair s cx.w (imm.toNat % 64) else fullMask (imm.getLsbD 6)

/-! Scalar memory (R343, R344). -/

/-- The address of a scalar memory word (R58). -/
def scalarVa (s : State) (cx : Cx) (imm : Half) : DWord :=
  readPair s cx.w (imm.extractLsb' 10 6).toNat + ((imm.extractLsb' 0 10).signExtend 64 <<< 2)

/-- A scalar access: one access of the split, ENGINE 2, reporting the effective mask (R343). -/
def scalarMem (i : Instr) (imm : Half) (s : State) (f : State → Cx → AccessKind × LoadDest × Nat × List Byte) :
    Host.Outcome State Fault Refusal :=
  runWord .scalar false i s fun cx _ s =>
    let e := eff s cx
    if (cxFlag cx true).isNone then .error (wordTrap .clause i e)
    else
      let x := f s cx
      let p := mkPiece 0 0 x.2.2.1 (scalarVa s cx imm) x.2.2.2
      issueAccess cx s { mkAccess x.1 x.2.1 e [p] with engine := 2 } .none

/-- SLD (R343). -/
def execSld (x : BitVec 6) (imm : Half) (s : State) : Host.Outcome State Fault Refusal :=
  scalarMem (.sld x imm) imm s fun _ _ => (.load, .scalars x.toNat 1, 4, [])

/-- SLDD (R343). -/
def execSldd (x : BitVec 6) (imm : Half) (s : State) : Host.Outcome State Fault Refusal :=
  scalarMem (.sldd x imm) imm s fun _ _ => (.load, .scalars x.toNat 2, 8, [])

/-- SST (R343). -/
def execSst (x : BitVec 6) (imm : Half) (s : State) : Host.Outcome State Fault Refusal :=
  scalarMem (.sst x imm) imm s fun s cx => (.store, .nowhere, 4, leBytes 4 (readS s cx.w x.toNat).toNat)

/-! Register indirection (R374, R375). -/

/-- The index of VRGET and VRSET (R374). -/
def vregIndex (s : State) (cx : Cx) (x : BitVec 6) (imm : Half) : Nat :=
  (readS s cx.w x.toNat + BitVec.ofNat 32 (imm.toNat % 512)).toNat

/-- One register moved: `src` and `dst` are codes, `ix` the index (R33, R97, R374, R375). The static file takes 6 cycles;
the brew file is long-latency. -/
def moveReg (i : Instr) (cx : Cx) (s : State) (src dst : BitVec 7) (ix : Nat) : Except Stop (State × Next) :=
  let e := eff s cx
  let bad : Except Stop (State × Next) := .error (.trap (mkTrap .regbound (BitVec.ofNat 32 ix) e))
  if ix ≥ 112 then bad
  else if (resolve s cx src 0).isNone || (resolveDest s cx dst 0).isNone then bad
  else
    let brew := decide (80 ≤ ix)
    match readOperands i cx [] { VSpec.simple dst [] with popD := some src, long := if brew then some false else none } s with
    | .error t => .error t
    | .ok v =>
      if brew then
        .ok (dropTime (addOp v.s cx (cxFlag cx false) (s.now + nextTime s) false v.dest
          (.write [(v.dest, .row (v.row 0))] e)), .seq)
      else .ok (emit v.s cx.k cx.j v.dest (.row (v.row 0)) e (6 + v.stalls), .seq)

/-- VREG of imm16 (R374). -/
def vregCode (imm : Half) : BitVec 7 := imm.extractLsb' 9 7

/-- VRGET (R375). -/
def execVrget (x : BitVec 6) (imm : Half) (s : State) : Host.Outcome State Fault Refusal :=
  runWord (.vector false) false (.vrget x imm) s fun cx _ s =>
    let ix := vregIndex s cx x imm
    moveReg (.vrget x imm) cx s (BitVec.ofNat 7 ix) (vregCode imm) ix

/-- VRSET (R375). -/
def execVrset (x : BitVec 6) (imm : Half) (s : State) : Host.Outcome State Fault Refusal :=
  runWord (.vector false) false (.vrset x imm) s fun cx _ s =>
    let ix := vregIndex s cx x imm
    moveReg (.vrset x imm) cx s (vregCode imm) (BitVec.ofNat 7 ix) ix

/-! Status registers (R345 to R347, R351, R352). -/

/-- CLK of a core: cycles since package reset in which it was not gated (R39). -/
def clkOf (s : State) (c : Nat) : Nat := (s.now - (coreAt s c).clkLost) % 2 ^ 64

/-- CAP (R242). -/
def capWord (s : State) : Word := BitVec.ofNat 32 (0x30 + s.level)

/-- The register has an SV field (R346). -/
def StatusReg.service : StatusReg → Bool
  | .keg _ => true
  | .tvblo => true
  | .tvbhi => true
  | .svsp => true
  | _ => false

/-- TVB of the warp's tenancy (R230). -/
def tvbOf (s : State) (cx : Cx) : DWord :=
  match tenAt s cx.w.ten with
  | some t => t.tvb
  | none => 0

/-- TENID (R347). -/
def tenIdWord (w : Warp) : Word :=
  BitVec.ofNat 32 (w.asid * 2 ^ 16 + (if w.service then 64 else 0) + w.ten % 64)

/-- The 32 bits of a status register; of CLK, the low word (R346). -/
def statusWord (s : State) (cx : Cx) : StatusReg → Word
  | .width => 0x640
  | .clk => BitVec.ofNat 32 (clkOf s (coreOfSlot cx.k))
  | .cap => capWord s
  | .stkhi => cx.w.stkhi
  | .warpid => warpId cx.k cx.j cx.w.iter.isSome
  | .tenid => tenIdWord cx.w
  | .modereg => cx.w.mode.setWidth 32
  | .smasklo => cx.sp.mask.extractLsb' 0 32
  | .smaskhi => cx.sp.mask.extractLsb' 32 32
  | .keg n =>
    let kg := kegAt cx.g n
    BitVec.ofNat 32 (kg.base * 2 ^ 20 + kg.cap * 2 ^ 12 + kg.entries.length * 2 ^ 4)
  | .mxchk =>
    let q := quadAt s (coreOfSlot cx.k) (quadOfSlot cx.k)
    BitVec.ofNat 32 (q.failCount * 2 ^ 16 + q.rerunCount)
  | .tvblo => (tvbOf s cx).extractLsb' 0 32
  | .tvbhi => (tvbOf s cx).extractLsb' 32 32
  | .svsp => cx.w.svsp

/-- The trap PRIV with the status register's number (R227). -/
def privTrap (imm : Half) (e : Mask) : Stop := .trap (mkTrap .priv (imm.setWidth 32) e)

/-- SRD (R345). -/
def execSrd (x : BitVec 6) (imm : Half) (s : State) : Host.Outcome State Fault Refusal :=
  runWord .scalar false (.srd x imm) s fun cx _ s =>
    let e := eff s cx
    match statusReg imm with
    | none => .error (illop (.srd x imm) e)
    | some r =>
      if r.service && !cx.w.service then .error (privTrap imm e)
      else
        let s1 := emit s cx.k cx.j (.s x.toNat) (.word (statusWord s cx r)) e 2
        if r = .clk then
          .ok (emit s1 cx.k cx.j (.s (x.toNat + 1)) (.word (BitVec.ofNat 32 (clkOf s (coreOfSlot cx.k) / 2 ^ 32))) e 2, .seq)
        else .ok (s1, .seq)

/-- The keg descriptor of a workgroup rewritten: the keg is emptied (R36, R352). -/
def setKegDesc (g : Workgroup) (n : Nat) (v : Word) : Workgroup :=
  { g with kegs := g.kegs.set n { base := (v.extractLsb' 20 12).toNat, cap := (v.extractLsb' 12 8).toNat, next := 0, entries := [] } }

/-- A keg descriptor lies within the workgroup's SRAM (R36, R351). -/
def kegFits (g : Workgroup) (v : Word) : Bool :=
  decide ((v.extractLsb' 12 8).toNat = 0)
    || decide (256 * ((v.extractLsb' 20 12).toNat + (v.extractLsb' 12 8).toNat) ≤ g.sramBytes)

/-- TVB with one of its words replaced, for the whole tenancy (R230). -/
def setTvb (s : State) (cx : Cx) (hi : Bool) (v : Word) : State :=
  match tenAt s cx.w.ten with
  | none => s
  | some t => setTen s cx.w.ten { t with tvb := if hi then v ++ t.tvb.extractLsb' 0 32 else t.tvb.extractLsb' 32 32 ++ v }

/-- The effect of SWR on a register that may be written (R351). -/
def writeStatus (i : Instr) (s : State) (cx : Cx) (v : Word) (e : Mask) : StatusReg → Except Stop State
  | .keg n => if kegFits cx.g v then .ok (setWg s cx.w.wg (setKegDesc cx.g n v)) else .error (illop i e)
  | .tvblo => if v.toNat % 64 ≠ 0 then .error (illop i e) else .ok (setTvb s cx false v)
  | .tvbhi => .ok (setTvb s cx true v)
  | .svsp => if v.toNat % 64 ≠ 0 then .error (illop i e) else .ok (updWarp s cx.k fun w => { w with svsp := v })
  | _ => .ok s

/-- SWR (R351). -/
def execSwr (x : BitVec 6) (imm : Half) (s : State) : Host.Outcome State Fault Refusal :=
  runWord .scalar false (.swr x imm) s fun cx _ s =>
    let e := eff s cx
    match statusReg imm with
    | none => .error (illop (.swr x imm) e)
    | some r =>
      if !cx.w.service then .error (privTrap imm e)
      else
        match writeStatus (.swr x imm) s cx (readS s cx.w x.toNat) e r with
        | .error t => .error t
        | .ok s => .ok (s, .seq)

end Sys2Proof.Machine
end

