-- ==== Sys2Proof/Machine/VectorMem.lean ====
section
/-! DEFINITION. Vector memory words, fragment loads and stores, near-memory reductions, and the events by which accesses,
special functions, reductions and remote writes end (R160, R161, R175, R176, R179, R180, R324, R348, R360 to R363, R368, R369,
R373, R379, R380). -/

namespace Sys2Proof.Machine

/-- The operands of a vector memory word: the offset, and the data field when it is a source (R360). -/
def memSpec (a : BitVec 7) : VSpec :=
  { srcs := [a], dst := none, extra := [], more := [], both := false, port := some .loadStore, long := some true,
    popD := none, idle := false, bank := true, lead := 0 }

/-- The address of a lane: base pair plus sign-extended offset (R57). -/
def laneVa (base : DWord) (x : Word) : DWord := base + x.signExtend 64

/-- ET asks for sign extension of a short load (R368). -/
def signMode (m : Half) : Bool := etSigned (etOf m)

/-- VLD and VLDA: `n` bytes to each active lane (R368, R369). -/
def vectorLoad (i : Instr) (n : Nat) (acq : Option Scope) (d a b : BitVec 7) (s : State) : Host.Outcome State Fault Refusal :=
  runWord (.vector false) false i s fun cx ls s =>
    let e := eff s cx
    let regs := n / 4
    let v := if n ≤ 4 then { memSpec a with dst := some d } else { memSpec a with more := (List.range regs).map fun i => d.toNat + i }
    match readOperands i cx ls v s with
    | .error t => .error t
    | .ok x =>
      let base := readPair s cx.w b.toNat
      let ps := (lanesOf e).map fun l => mkPiece l 0 n (laneVa base (lane (x.row 0) l)) []
      let dest := if n ≤ 4 then LoadDest.one x.dest else .rows d.toNat regs
      issueAccess cx x.s { mkAccess .load dest e ps with acq := acq, sext := signMode cx.w.mode } x.dest

/-- The registers from `d` on as the bytes of lane `l`. -/
def regBytes (rows : List Row) (l : Nat) : List Byte := rows.flatMap fun r => leBytes 4 (lane r l).toNat

/-- Every remote write of the warp has been acknowledged, those still to be sent included (R161). -/
def remoteIdle (s : State) (k : Nat) (w : Warp) : Bool :=
  (s.remotes.all fun r => decide (r.slot ≠ k) || r.reduction) && w.ops.all fun o =>
    match o.kind with
    | .access a => a.performed || !(a.kind.stores && a.pieces.any Piece.remote)
        || (match a.kind with
          | .reduce _ _ => true
          | _ => false)
    | _ => true

/-- VST and VSTR: `n` bytes from each active lane (R379, R380). -/
def vectorStore (i : Instr) (n : Nat) (rel : Option Scope) (d a b : BitVec 7) (s : State) : Host.Outcome State Fault Refusal :=
  runWord (.vector false) false i s fun cx ls s =>
    let e := eff s cx
    let many := (List.range (n / 4)).map fun i => d.toNat + i
    let v := if n ≤ 4 then { memSpec a with popD := some d } else { memSpec a with extra := many }
    match readOperands i cx ls v s with
    | .error t => .error t
    | .ok x =>
      if decide (rel = some .dom) && !remoteIdle s cx.k cx.w then .error (.hold (.fence (fenceSince s cx)))
      else
        let base := readPair s cx.w b.toNat
        let data := if n ≤ 4 then [x.row 1] else many.map fun r => readV s cx.w r
        let ps := (lanesOf e).map fun l => mkPiece l 0 n (laneVa base (lane (x.row 0) l)) ((regBytes data l).take n)
        issueAccess cx x.s { mkAccess .store .nowhere e ps with rel := rel } .none

/-- The three fragments (R178). -/
inductive Fragment where
  | a | b | c
deriving DecidableEq, Repr

/-- The parts of a tile that lane `l` holds: offset in the lane's data, offset in the tile, bytes (R127, R178). `q` is
the quadrant. -/
def fragmentParts (f : Fragment) (q l : Nat) : List (Nat × Nat × Nat) :=
  match f with
  | .b => [(0, 128 * (l % 8) + 16 * q + 2 * (l / 8), 2), (2, 128 * (l % 8) + 64 + 16 * q + 2 * (l / 8), 2)]
  | _ => [(0, 16 * l, 16)]

/-- Registers a fragment takes. -/
def fragmentRegs : Fragment → Nat
  | .b => 1
  | _ => 4

/-- LDF and STF: the tile's elements between memory and the lanes of R178 (R179, R180). -/
def fragmentWord (i : Instr) (f : Fragment) (store : Bool) (d a b : BitVec 7) (s : State) : Host.Outcome State Fault Refusal :=
  runWord (.vector false) false i s fun cx ls s =>
    let e := eff s cx
    let regs := (List.range (fragmentRegs f)).map fun i => d.toNat + i
    let v := if store then { memSpec a with extra := regs } else { memSpec a with more := regs }
    match readOperands i cx ls v s with
    | .error t => .error t
    | .ok x =>
      let t := laneVa (readPair s cx.w b.toNat) (lane (x.row 0) (lowLane e))
      if t.toNat % 1024 ≠ 0 then .error (.trap (mkTrap .align (t.setWidth 32) e))
      else
        let data := regs.map fun r => readV s cx.w r
        let ps := (lanesOf e).flatMap fun l => (fragmentParts f (quadOfSlot cx.k) l).map fun p =>
          mkPiece l p.1 p.2.2 (t + BitVec.ofNat 64 p.2.1) (if store then ((regBytes data l).drop p.1).take p.2.2 else [])
        let kd := if store then AccessKind.store else .load
        let dest := if store then LoadDest.nowhere else .rows d.toNat (fragmentRegs f)
        issueAccess cx x.s { mkAccess kd dest e ps with engine := 3, tile := some t } .none

/-- The operation reads ET, which must then be I32, N32 or F32 (R175, R362). -/
def atomTyped : AtomOp → Bool
  | .add => true
  | .min => true
  | .max => true
  | _ => false

/-- VATOM (R362). -/
def vectorAtom (i : Instr) (op : AtomOp) (d a b : BitVec 7) (s : State) : Host.Outcome State Fault Refusal :=
  runWord (.vector false) false i s fun cx ls s =>
    let e := eff s cx
    let regs := if op = .cas then [d.toNat, d.toNat + 1] else [d.toNat]
    if atomTyped op && !decide (etCount (etOf cx.w.mode) = 1) then .error (illop i e)
    else
      match readOperands i cx ls { memSpec a with extra := regs } s with
      | .error t => .error t
      | .ok x =>
        let base := readPair s cx.w b.toNat
        let data := regs.map fun r => readV s cx.w r
        let ps := (lanesOf e).map fun l => mkPiece l 0 4 (laneVa base (lane (x.row 0) l)) (regBytes data l)
        issueAccess cx x.s (mkAccess (.atomic op (etOf cx.w.mode)) (.rows d.toNat 1) e ps) .none

/-- NMRED: one reduction from each active lane (R175, R176, R324). -/
def nearReduce (i : Instr) (op : AtomOp) (d a b : BitVec 7) (s : State) : Host.Outcome State Fault Refusal :=
  runWord (.vector false) false i s fun cx ls s =>
    let e := eff s cx
    if !decide (etCount (etOf cx.w.mode) = 1) then .error (illop i e)
    else
      match readOperands i cx ls { memSpec a with popD := some d } s with
      | .error t => .error t
      | .ok x =>
        let base := readPair s cx.w b.toNat
        let ps := (lanesOf e).map fun l => mkPiece l 0 4 (laneVa base (lane (x.row 0) l)) (leBytes 4 (lane (x.row 1) l).toNat)
        issueAccess cx x.s { mkAccess (.reduce op (etOf cx.w.mode)) .nowhere e ps with engine := 5 } .none

/-- VLD.B: 1 bytes (R368). -/
def execVldB (d a b : BitVec 7) (s : State) : Host.Outcome State Fault Refusal :=
  vectorLoad (.vldB d a b) 1 none d a b s

/-- VST.B: 1 bytes (R379). -/
def execVstB (d a b : BitVec 7) (s : State) : Host.Outcome State Fault Refusal :=
  vectorStore (.vstB d a b) 1 none d a b s

/-- VLD.H: 2 bytes (R368). -/
def execVldH (d a b : BitVec 7) (s : State) : Host.Outcome State Fault Refusal :=
  vectorLoad (.vldH d a b) 2 none d a b s

/-- VST.H: 2 bytes (R379). -/
def execVstH (d a b : BitVec 7) (s : State) : Host.Outcome State Fault Refusal :=
  vectorStore (.vstH d a b) 2 none d a b s

/-- VLD.W: 4 bytes (R368). -/
def execVldW (d a b : BitVec 7) (s : State) : Host.Outcome State Fault Refusal :=
  vectorLoad (.vldW d a b) 4 none d a b s

/-- VST.W: 4 bytes (R379). -/
def execVstW (d a b : BitVec 7) (s : State) : Host.Outcome State Fault Refusal :=
  vectorStore (.vstW d a b) 4 none d a b s

/-- VLD.D: 8 bytes (R368). -/
def execVldD (d a b : BitVec 7) (s : State) : Host.Outcome State Fault Refusal :=
  vectorLoad (.vldD d a b) 8 none d a b s

/-- VST.D: 8 bytes (R379). -/
def execVstD (d a b : BitVec 7) (s : State) : Host.Outcome State Fault Refusal :=
  vectorStore (.vstD d a b) 8 none d a b s

/-- VLD.Q: 16 bytes (R368). -/
def execVldQ (d a b : BitVec 7) (s : State) : Host.Outcome State Fault Refusal :=
  vectorLoad (.vldQ d a b) 16 none d a b s

/-- VST.Q: 16 bytes (R379). -/
def execVstQ (d a b : BitVec 7) (s : State) : Host.Outcome State Fault Refusal :=
  vectorStore (.vstQ d a b) 16 none d a b s

/-- VLDA.WG (R369). -/
def execVldaWg (d a b : BitVec 7) (s : State) : Host.Outcome State Fault Refusal :=
  vectorLoad (.vldaWg d a b) 4 (some .wg) d a b s

/-- VSTR.WG (R380). -/
def execVstrWg (d a b : BitVec 7) (s : State) : Host.Outcome State Fault Refusal :=
  vectorStore (.vstrWg d a b) 4 (some .wg) d a b s

/-- VATOM.WG.ADD (R362). -/
def execVatomWgAdd (d a b : BitVec 7) (s : State) : Host.Outcome State Fault Refusal :=
  vectorAtom (.vatomWgAdd d a b) .add d a b s

/-- VATOM.WG.MIN (R362). -/
def execVatomWgMin (d a b : BitVec 7) (s : State) : Host.Outcome State Fault Refusal :=
  vectorAtom (.vatomWgMin d a b) .min d a b s

/-- VATOM.WG.MAX (R362). -/
def execVatomWgMax (d a b : BitVec 7) (s : State) : Host.Outcome State Fault Refusal :=
  vectorAtom (.vatomWgMax d a b) .max d a b s

/-- VATOM.WG.AND (R362). -/
def execVatomWgAnd (d a b : BitVec 7) (s : State) : Host.Outcome State Fault Refusal :=
  vectorAtom (.vatomWgAnd d a b) .and d a b s

/-- VATOM.WG.OR (R362). -/
def execVatomWgOr (d a b : BitVec 7) (s : State) : Host.Outcome State Fault Refusal :=
  vectorAtom (.vatomWgOr d a b) .or d a b s

/-- VATOM.WG.XOR (R362). -/
def execVatomWgXor (d a b : BitVec 7) (s : State) : Host.Outcome State Fault Refusal :=
  vectorAtom (.vatomWgXor d a b) .xor d a b s

/-- VATOM.WG.XCHG (R362). -/
def execVatomWgXchg (d a b : BitVec 7) (s : State) : Host.Outcome State Fault Refusal :=
  vectorAtom (.vatomWgXchg d a b) .xchg d a b s

/-- VATOM.WG.CAS (R362). -/
def execVatomWgCas (d a b : BitVec 7) (s : State) : Host.Outcome State Fault Refusal :=
  vectorAtom (.vatomWgCas d a b) .cas d a b s

/-- VLDA.DIE (R369). -/
def execVldaDie (d a b : BitVec 7) (s : State) : Host.Outcome State Fault Refusal :=
  vectorLoad (.vldaDie d a b) 4 (some .die) d a b s

/-- VSTR.DIE (R380). -/
def execVstrDie (d a b : BitVec 7) (s : State) : Host.Outcome State Fault Refusal :=
  vectorStore (.vstrDie d a b) 4 (some .die) d a b s

/-- VATOM.DIE.ADD (R362). -/
def execVatomDieAdd (d a b : BitVec 7) (s : State) : Host.Outcome State Fault Refusal :=
  vectorAtom (.vatomDieAdd d a b) .add d a b s

/-- VATOM.DIE.MIN (R362). -/
def execVatomDieMin (d a b : BitVec 7) (s : State) : Host.Outcome State Fault Refusal :=
  vectorAtom (.vatomDieMin d a b) .min d a b s

/-- VATOM.DIE.MAX (R362). -/
def execVatomDieMax (d a b : BitVec 7) (s : State) : Host.Outcome State Fault Refusal :=
  vectorAtom (.vatomDieMax d a b) .max d a b s

/-- VATOM.DIE.AND (R362). -/
def execVatomDieAnd (d a b : BitVec 7) (s : State) : Host.Outcome State Fault Refusal :=
  vectorAtom (.vatomDieAnd d a b) .and d a b s

/-- VATOM.DIE.OR (R362). -/
def execVatomDieOr (d a b : BitVec 7) (s : State) : Host.Outcome State Fault Refusal :=
  vectorAtom (.vatomDieOr d a b) .or d a b s

/-- VATOM.DIE.XOR (R362). -/
def execVatomDieXor (d a b : BitVec 7) (s : State) : Host.Outcome State Fault Refusal :=
  vectorAtom (.vatomDieXor d a b) .xor d a b s

/-- VATOM.DIE.XCHG (R362). -/
def execVatomDieXchg (d a b : BitVec 7) (s : State) : Host.Outcome State Fault Refusal :=
  vectorAtom (.vatomDieXchg d a b) .xchg d a b s

/-- VATOM.DIE.CAS (R362). -/
def execVatomDieCas (d a b : BitVec 7) (s : State) : Host.Outcome State Fault Refusal :=
  vectorAtom (.vatomDieCas d a b) .cas d a b s

/-- VLDA.PKG (R369). -/
def execVldaPkg (d a b : BitVec 7) (s : State) : Host.Outcome State Fault Refusal :=
  vectorLoad (.vldaPkg d a b) 4 (some .pkg) d a b s

/-- VSTR.PKG (R380). -/
def execVstrPkg (d a b : BitVec 7) (s : State) : Host.Outcome State Fault Refusal :=
  vectorStore (.vstrPkg d a b) 4 (some .pkg) d a b s

/-- VATOM.PKG.ADD (R362). -/
def execVatomPkgAdd (d a b : BitVec 7) (s : State) : Host.Outcome State Fault Refusal :=
  vectorAtom (.vatomPkgAdd d a b) .add d a b s

/-- VATOM.PKG.MIN (R362). -/
def execVatomPkgMin (d a b : BitVec 7) (s : State) : Host.Outcome State Fault Refusal :=
  vectorAtom (.vatomPkgMin d a b) .min d a b s

/-- VATOM.PKG.MAX (R362). -/
def execVatomPkgMax (d a b : BitVec 7) (s : State) : Host.Outcome State Fault Refusal :=
  vectorAtom (.vatomPkgMax d a b) .max d a b s

/-- VATOM.PKG.AND (R362). -/
def execVatomPkgAnd (d a b : BitVec 7) (s : State) : Host.Outcome State Fault Refusal :=
  vectorAtom (.vatomPkgAnd d a b) .and d a b s

/-- VATOM.PKG.OR (R362). -/
def execVatomPkgOr (d a b : BitVec 7) (s : State) : Host.Outcome State Fault Refusal :=
  vectorAtom (.vatomPkgOr d a b) .or d a b s

/-- VATOM.PKG.XOR (R362). -/
def execVatomPkgXor (d a b : BitVec 7) (s : State) : Host.Outcome State Fault Refusal :=
  vectorAtom (.vatomPkgXor d a b) .xor d a b s

/-- VATOM.PKG.XCHG (R362). -/
def execVatomPkgXchg (d a b : BitVec 7) (s : State) : Host.Outcome State Fault Refusal :=
  vectorAtom (.vatomPkgXchg d a b) .xchg d a b s

/-- VATOM.PKG.CAS (R362). -/
def execVatomPkgCas (d a b : BitVec 7) (s : State) : Host.Outcome State Fault Refusal :=
  vectorAtom (.vatomPkgCas d a b) .cas d a b s

/-- VLDA.DOM (R369). -/
def execVldaDom (d a b : BitVec 7) (s : State) : Host.Outcome State Fault Refusal :=
  vectorLoad (.vldaDom d a b) 4 (some .dom) d a b s

/-- VSTR.DOM (R380). -/
def execVstrDom (d a b : BitVec 7) (s : State) : Host.Outcome State Fault Refusal :=
  vectorStore (.vstrDom d a b) 4 (some .dom) d a b s

/-- VATOM.DOM.ADD (R362). -/
def execVatomDomAdd (d a b : BitVec 7) (s : State) : Host.Outcome State Fault Refusal :=
  vectorAtom (.vatomDomAdd d a b) .add d a b s

/-- VATOM.DOM.MIN (R362). -/
def execVatomDomMin (d a b : BitVec 7) (s : State) : Host.Outcome State Fault Refusal :=
  vectorAtom (.vatomDomMin d a b) .min d a b s

/-- VATOM.DOM.MAX (R362). -/
def execVatomDomMax (d a b : BitVec 7) (s : State) : Host.Outcome State Fault Refusal :=
  vectorAtom (.vatomDomMax d a b) .max d a b s

/-- VATOM.DOM.AND (R362). -/
def execVatomDomAnd (d a b : BitVec 7) (s : State) : Host.Outcome State Fault Refusal :=
  vectorAtom (.vatomDomAnd d a b) .and d a b s

/-- VATOM.DOM.OR (R362). -/
def execVatomDomOr (d a b : BitVec 7) (s : State) : Host.Outcome State Fault Refusal :=
  vectorAtom (.vatomDomOr d a b) .or d a b s

/-- VATOM.DOM.XOR (R362). -/
def execVatomDomXor (d a b : BitVec 7) (s : State) : Host.Outcome State Fault Refusal :=
  vectorAtom (.vatomDomXor d a b) .xor d a b s

/-- VATOM.DOM.XCHG (R362). -/
def execVatomDomXchg (d a b : BitVec 7) (s : State) : Host.Outcome State Fault Refusal :=
  vectorAtom (.vatomDomXchg d a b) .xchg d a b s

/-- VATOM.DOM.CAS (R362). -/
def execVatomDomCas (d a b : BitVec 7) (s : State) : Host.Outcome State Fault Refusal :=
  vectorAtom (.vatomDomCas d a b) .cas d a b s

/-- LDF.A (R179, R313). -/
def execLdfA (d a b : BitVec 7) (s : State) : Host.Outcome State Fault Refusal :=
  fragmentWord (.ldfA d a b) .a false d a b s

/-- LDF.B (R179, R313). -/
def execLdfB (d a b : BitVec 7) (s : State) : Host.Outcome State Fault Refusal :=
  fragmentWord (.ldfB d a b) .b false d a b s

/-- LDF.C (R179, R313). -/
def execLdfC (d a b : BitVec 7) (s : State) : Host.Outcome State Fault Refusal :=
  fragmentWord (.ldfC d a b) .c false d a b s

/-- STF.C (R179, R348). -/
def execStfC (d a b : BitVec 7) (s : State) : Host.Outcome State Fault Refusal :=
  fragmentWord (.stfC d a b) .c true d a b s

/-- NMRED.ADD (R175, R324). -/
def execNmredAdd (d a b : BitVec 7) (s : State) : Host.Outcome State Fault Refusal :=
  nearReduce (.nmredAdd d a b) .add d a b s

/-- NMRED.MIN (R175, R324). -/
def execNmredMin (d a b : BitVec 7) (s : State) : Host.Outcome State Fault Refusal :=
  nearReduce (.nmredMin d a b) .min d a b s

/-- NMRED.MAX (R175, R324). -/
def execNmredMax (d a b : BitVec 7) (s : State) : Host.Outcome State Fault Refusal :=
  nearReduce (.nmredMax d a b) .max d a b s

/-- An event that acts on the outstanding operation `op` of a slot, when it is of a kind that meets `ok`. The completion of a word
that holds its split is a boundary of its group (R86). -/
def opEvent (s : State) (slot op : Nat) (ok : OpKind → Bool) : State :=
  match warpAt s slot with
  | none => s
  | some w => if w.ops.any fun o => decide (o.id = op) && ok o.kind then afterWord (advanceOp s slot op) slot else s

/-- MEMORY_ACCESS_COMPLETE: an access is performed, or a performed one completes and releases its flag (R138). -/
def execMemoryAccessComplete (slot op : Nat) (s : State) : Host.Outcome State Fault Refusal :=
  .next (opEvent s slot op fun kd =>
    match kd with
    | .access _ => true
    | .hold => true
    | _ => false)

/-- SFU_COMPLETE: a result known at issue becomes visible with its flag (R373, R375). -/
def execSfuComplete (slot op : Nat) (s : State) : Host.Outcome State Fault Refusal :=
  .next (opEvent s slot op fun kd =>
    match kd with
    | .write _ _ => true
    | _ => false)

/-- The combiner that performs a reduction at a location: of a slice, of a stack (entry 8), or of a stack of a home node (R176). -/
def combinerOf (loc : Nat) : Nat × Nat :=
  let stack := loc % 2 ^ 42 / (Config.hbmBytes / 8)
  if spaceOf loc = 0 then (0, loc / Config.sliceBytes)
  else if spaceOf loc = 1 then (1, stack)
  else (spaceOf loc, loc % 2 ^ 56 / 2 ^ 42 * 8 + stack)

/-- The first reduction of its combiner, of those still to be applied, in arrival order (R160). -/
def firstAt (reds : List Reduction) (r : Reduction) : Bool :=
  match reds.find? fun x => !x.applied && decide (combinerOf x.xl.loc = combinerOf r.xl.loc) with
  | some x => decide (x.id = r.id)
  | none => false

/-- The reductions of a command still to be applied. -/
def Reduction.left (reds : List Reduction) (cmd : Nat) : List Reduction :=
  reds.filter fun x => !x.applied && decide (x.cmd = cmd)

/-- A reduction is applied. Until its warp's NMFENCE it stands outside the coherence order of its location, and loads see some
prefix of those applied there (R160); a warp that is gone fences no more. -/
def settleReduction (s : State) (r : Reduction) : State :=
  let s : State := { s with reds := s.reds.map fun x => if x.id = r.id then { x with applied := true } else x }
  if (warpAt s r.slot).isNone then placeReductions s fun x => decide (x.id = r.id) else s

/-- A reduction that another package sent is answered (R161, R176). -/
def answerOutside (s : State) (r : Reduction) : State :=
  if decide (r.slot = outsideSlot) && (warpAt s r.slot).isNone then { s with remoteResp := some .done } else s

/-- The reduction is counted with `r`: one command counts a sector once in each counter (R142). -/
def Reduction.countedWith (r x : Reduction) : Bool :=
  decide (x.cmd = r.cmd) && decide (x.xl.loc / 64 = r.xl.loc / 64) && decide (x.xl.counter = r.xl.counter)

/-- The sector of a reduction just applied is counted, and its command counts it no more (R142). -/
def countReduction (s : State) (r : Reduction) : State :=
  match r.xl.counter with
  | none => s
  | some _ =>
    let s := countAll s r.ten r.asid (countedOf [(r.xl, r.va)])
    { s with reds := s.reds.map fun x => if r.countedWith x then { x with xl := { x.xl with counter := none } } else x }

/-- The command has failed: its reductions still to be applied are dropped, and what it sent to another node holds no fence
(R174, R323). -/
def failReduction (s : State) (r : Reduction) : State :=
  let s : State := { s with
    reds := s.reds.filter fun x => x.applied || decide (x.cmd ≠ r.cmd)
    remotes := s.remotes.filter fun x => !x.reduction || decide (x.cmd ≠ r.cmd) }
  updWarp s r.slot fun w => leaveBatch w .N r.cmd (some (mkTrap .poison 0 0))

/-- A reduction applied at its location; uncorrectable data there stops the command and fails its batch (R174, R175,
R324). -/
def applyReduction (s : State) (r : Reduction) : State :=
  let s := answerOutside s r
  if poisoned s r.xl.loc 4 then failReduction s r
  else
    let s := countReduction (settleReduction s r) r
    if (Reduction.left s.reds r.cmd).isEmpty then updWarp s r.slot fun w => leaveBatch w .N r.cmd none else s

/-- COMBINER_APPLY (R160): the slice's core must run (R258). -/
def execCombinerApply (red : Nat) (s : State) : Host.Outcome State Fault Refusal :=
  match s.reds.find? fun r => !r.applied && decide (r.id = red) with
  | none => .next s
  | some r =>
    if !firstAt s.reds r then .next s
    else if decide (spaceOf r.xl.loc = 0) && !running s (r.xl.loc / Config.sliceBytes) then
      .next (wakeCore s (r.xl.loc / Config.sliceBytes))
    else .next (applyReduction (if spaceOf r.xl.loc = 0 then wakeCore s (r.xl.loc / Config.sliceBytes) else s) r)

/-- REMOTE_WRITE_ACK (R161). -/
def execRemoteWriteAck (slot op : Nat) (s : State) : Host.Outcome State Fault Refusal :=
  match s.remotes.find? fun r => decide (r.slot = slot) && decide (r.op = op) with
  | none => .next s
  | some r => .next (ackRemote s r)

/-- Cycles of 100 µs (R161). -/
def remoteLimit (s : State) : Nat := 100 * Config.cyclesPerMicro (decide (s.level < 2))

/-- REMOTE_WRITE_TIMEOUT: 100 µs after it was sent (R161). -/
def execRemoteWriteTimeout (slot op : Nat) (s : State) : Host.Outcome State Fault Refusal :=
  match s.remotes.find? fun r => decide (r.slot = slot) && decide (r.op = op) with
  | none => .next s
  | some r => .next (if r.sent + remoteLimit s ≤ s.now then timeoutRemote s r else s)

end Sys2Proof.Machine
end

