-- ==== Sys2Proof/Machine/Sync.lean ====
section
/-! DEFINITION. Barriers, fences, batches and wakes (R30, R137, R153, R155, R159 to R162, R173, R174, R184, R260 to R265, R286, R287,
R323, R354, R381 to R383). -/

namespace Sys2Proof.Machine

/-! Barriers. -/

/-- A barrier word is forbidden: an iteration warp, or other live splits (R103, R262). -/
def barrierForbidden (cx : Cx) : Bool := cx.w.iter.isSome || othersLive cx.w cx.j

/-- The warp parks as it stands, its word issued. -/
def parkWarp (s : State) (k j : Nat) (p : WarpPark) : State :=
  dropName (updWarp s k fun w => (w.parkAs j s.nextId p).updSplit j fun sp => sp.issued s.now)

/-- The warp has arrived in the open phase of barrier `b` (R261). -/
def arrivedIn (g : Workgroup) (w : Warp) (b : Nat) : Bool :=
  (barrierAt g b).arrived.contains w.index && decide (tget w.arrivals b = some (barrierAt g b).phase)

/-- The arrival made: the first one fixes the count, and a complete phase closes (R261). -/
def addArrival (s : State) (cx : Cx) (b n : Nat) : State :=
  let x := barrierAt cx.g b
  let y : Barrier := { x with count := if x.arrived.isEmpty then n else x.count, arrived := x.arrived ++ [cx.w.index] }
  let s := setWg s cx.w.wg { cx.g with barriers := cx.g.barriers.set b y }
  settleBarrier (updWarp s cx.k fun w => { w with arrivals := tset w.arrivals b x.phase }) cx.w.wg b

/-- Wait(b): the split goes on, and the warp parks when its latest arrival lies in the open phase (R261). -/
def waitBarrier (s : State) (cx : Cx) (b : Nat) : State :=
  let s1 := updSplit s cx.k cx.j fun sp => sp.advance s.now 0
  match wgAt s cx.w.wg, warpAt s cx.k with
  | some g, some w => if arrivedIn g w b then parkWarp s1 cx.k cx.j (.barrier b (barrierAt g b).phase) else s1
  | _, _ => s1

/-- An arrival that waits for the warp's writes and accesses: one that was parked for the phase before keeps its place (R261). -/
def barrierWait (cx : Cx) : Stop :=
  match cx.w.park with
  | some (.arrival b ph) => .park (.arrival b ph)
  | _ => .wait

/-- Arrive(b, n), and Wait(b) when `wait` is set (R260 to R262, R264). DESIGN CHOICE (entry 39): of a word that is ILLOP by its
fields or its COUNT and forbidden besides, ILLOP is raised (R41, R103). -/
def barrierWord (i : Instr) (b n : Nat) (wait : Bool) (s : State) : Host.Outcome State Fault Refusal :=
  runWord .scalar false i s fun cx _ s =>
    let e := eff s cx
    if n > cx.g.n then .error (illop i e)
    else if barrierForbidden cx then .error (wordTrap .converge i e)
    else
      let x := barrierAt cx.g b
      if x.arrived.contains cx.w.index then .error (.park (.arrival b x.phase))
      else if !(writesVisible cx.w && accessesDone cx.w) then .error (barrierWait cx)
      else if !x.arrived.isEmpty && decide (x.count ≠ n) then .error (.trap (mkTrap .converge (BitVec.ofNat 32 b) e))
      else if wait then .ok (waitBarrier (addArrival s cx b n) cx b, .done)
      else .ok (addArrival s cx b n, .seq)

/-- BAR and COUNT of BARA and BARAW (R260). -/
def barOf (imm : Half) : Nat := (imm.extractLsb' 0 4).toNat
def countOf (imm : Half) : Nat := (imm.extractLsb' 4 7).toNat

/-- BARA (R260 to R262). -/
def execBara (x : BitVec 6) (imm : Half) (s : State) : Host.Outcome State Fault Refusal :=
  barrierWord (.bara x imm) (barOf imm) (countOf imm) false s

/-- BARAW (R260 to R262). -/
def execBaraw (x : BitVec 6) (imm : Half) (s : State) : Host.Outcome State Fault Refusal :=
  barrierWord (.baraw x imm) (barOf imm) (countOf imm) true s

/-- BARW (R260 to R262). -/
def execBarw (x : BitVec 6) (imm : Half) (s : State) : Host.Outcome State Fault Refusal :=
  runWord .scalar false (.barw x imm) s fun cx _ s =>
    if barrierForbidden cx then .error (wordTrap .converge (.barw x imm) (eff s cx))
    else .ok (waitBarrier s cx (barOf imm), .done)

/-- BARWG (R264). -/
def execBarwg (x : BitVec 6) (imm : Half) (s : State) : Host.Outcome State Fault Refusal :=
  barrierWord (.barwg x imm) 16 0 true s

/-- The warp's quad has four members (R20, R177). -/
def wholeQuad (cx : Cx) : Bool := decide (cx.w.index / 4 * 4 + 3 < cx.g.n)

/-- BARQ (R184, R263): arrival, then the warp parks until every partner that has not retired has arrived. -/
def execBarq (x : BitVec 6) (imm : Half) (s : State) : Host.Outcome State Fault Refusal :=
  runWord .scalar false (.barq x imm) s fun cx _ s =>
    if cx.w.iter.isSome || !wholeQuad cx || dividedOrSerial cx.w cx.j then .error (wordTrap .converge (.barq x imm) (eff s cx))
    else if !(writesVisible cx.w && accessesDone cx.w) || readingB cx.w s.now then .error .wait
    else
      let n := cx.w.index / 4
      let s := setWg s cx.w.wg { cx.g with quads := cx.g.quads.set n (cx.g.quads.getD n [] ++ [cx.w.index]) }
      let s := updSplit s cx.k cx.j fun sp => sp.advance s.now 0
      .ok (settleQuad (parkWarp s cx.k cx.j .quadBarrier) cx.w.wg n, .done)

/-! Fences. -/

/-- ACQ, REL and FULL (R153). -/
inductive FenceKind where
  | acq | rel | full
deriving DecidableEq, Repr

/-- The reduction was issued by the warp before the fence (R323). -/
def fencedBy (s : State) (cx : Cx) (r : Reduction) : Bool := decide (r.slot = cx.k) && decide (r.seq < fenceSince s cx)

/-- The conditions of R153 hold for every earlier access of the split (R286). -/
def fenceReady (s : State) (cx : Cx) (kd : FenceKind) (sc : Scope) : Bool :=
  (cx.w.ops.all fun o =>
    match o.kind with
    | .access a => !o.before cx.j || a.performed
        || ((decide (kd = .rel) || !a.kind.binds)
          && (decide (kd = .acq) || a.sent))
    | _ => true)
    && (decide (kd = .acq) || decide (sc ≠ .dom) || remoteIdle s cx.k cx.w)

/-- FENCE (R153, R161, R286, R287). DESIGN CHOICE (entry 42): once its conditions hold it takes no further time (R387). -/
def fenceWord (i : Instr) (kd : FenceKind) (sc : Scope) (s : State) : Host.Outcome State Fault Refusal :=
  runWord .scalar false i s fun cx _ s => if fenceReady s cx kd sc then .ok (s, .seq) else .error (.hold (.fence (fenceSince s cx)))

/-- Every NMRED that a split of the warp issued before the fence has been applied; at DOM, those to REMOTE homes are acknowledged
(R160, R323). -/
def reductionsDone (s : State) (cx : Cx) (sc : Scope) : Bool :=
  (cx.w.ops.all fun o =>
    match o.kind with
    | .access a => match a.kind with
      | .reduce _ _ => decide (fenceSince s cx ≤ o.seq)
      | _ => true
    | _ => true)
    && (s.reds.all fun r => !fencedBy s cx r || r.applied)
    && (decide (sc ≠ .dom) || s.remotes.all fun r => decide (r.slot ≠ cx.k) || !r.reduction || decide (fenceSince s cx ≤ r.seq))

/-- NMFENCE: the warp's earlier reductions are placed before its later accesses (R160, R323), at once when its conditions hold
(R387, entry 42). -/
def nmfenceWord (i : Instr) (sc : Scope) (s : State) : Host.Outcome State Fault Refusal :=
  runWord .scalar false i s fun cx _ s =>
    if reductionsDone s cx sc then .ok (placeReductions s (fencedBy s cx), .seq) else .error (.hold (.fence (fenceSince s cx)))

/-- Every earlier store of the warp is visible at the scope (R137, R354). -/
def storesDone (s : State) (cx : Cx) (sc : Scope) : Bool :=
  (cx.w.ops.all fun o =>
    match o.kind with
    | .access a => a.performed || !a.kind.stores || a.sent
    | _ => true)
    && (decide (sc ≠ .dom) || remoteIdle s cx.k cx.w)

/-- TFENCE (R137, R162, R354), at once when its conditions hold (R387, entry 42). -/
def tfenceWord (i : Instr) (sc : Scope) (s : State) : Host.Outcome State Fault Refusal :=
  runWord .scalar false i s fun cx _ s =>
    if storesDone s cx sc then .ok (dropTlb s (inScope sc (coreOfSlot cx.k)) cx.w.asid none, .seq)
    else .error (.hold (.fence (fenceSince s cx)))

/-- FENCE.WG.ACQ (R286). -/
def execFenceWgAcq (x : BitVec 6) (imm : Half) (s : State) : Host.Outcome State Fault Refusal :=
  fenceWord (.fenceWgAcq x imm) .acq .wg s

/-- FENCE.WG.REL (R286). -/
def execFenceWgRel (x : BitVec 6) (imm : Half) (s : State) : Host.Outcome State Fault Refusal :=
  fenceWord (.fenceWgRel x imm) .rel .wg s

/-- FENCE.WG.FULL (R286). -/
def execFenceWgFull (x : BitVec 6) (imm : Half) (s : State) : Host.Outcome State Fault Refusal :=
  fenceWord (.fenceWgFull x imm) .full .wg s

/-- FENCE.DIE.ACQ (R286). -/
def execFenceDieAcq (x : BitVec 6) (imm : Half) (s : State) : Host.Outcome State Fault Refusal :=
  fenceWord (.fenceDieAcq x imm) .acq .die s

/-- FENCE.DIE.REL (R286). -/
def execFenceDieRel (x : BitVec 6) (imm : Half) (s : State) : Host.Outcome State Fault Refusal :=
  fenceWord (.fenceDieRel x imm) .rel .die s

/-- FENCE.DIE.FULL (R286). -/
def execFenceDieFull (x : BitVec 6) (imm : Half) (s : State) : Host.Outcome State Fault Refusal :=
  fenceWord (.fenceDieFull x imm) .full .die s

/-- FENCE.PKG.ACQ (R286). -/
def execFencePkgAcq (x : BitVec 6) (imm : Half) (s : State) : Host.Outcome State Fault Refusal :=
  fenceWord (.fencePkgAcq x imm) .acq .pkg s

/-- FENCE.PKG.REL (R286). -/
def execFencePkgRel (x : BitVec 6) (imm : Half) (s : State) : Host.Outcome State Fault Refusal :=
  fenceWord (.fencePkgRel x imm) .rel .pkg s

/-- FENCE.PKG.FULL (R286). -/
def execFencePkgFull (x : BitVec 6) (imm : Half) (s : State) : Host.Outcome State Fault Refusal :=
  fenceWord (.fencePkgFull x imm) .full .pkg s

/-- FENCE.DOM.ACQ (R286). -/
def execFenceDomAcq (x : BitVec 6) (imm : Half) (s : State) : Host.Outcome State Fault Refusal :=
  fenceWord (.fenceDomAcq x imm) .acq .dom s

/-- FENCE.DOM.REL (R286). -/
def execFenceDomRel (x : BitVec 6) (imm : Half) (s : State) : Host.Outcome State Fault Refusal :=
  fenceWord (.fenceDomRel x imm) .rel .dom s

/-- FENCE.DOM.FULL (R286). -/
def execFenceDomFull (x : BitVec 6) (imm : Half) (s : State) : Host.Outcome State Fault Refusal :=
  fenceWord (.fenceDomFull x imm) .full .dom s

/-- NMFENCE.WG (R323). -/
def execNmfenceWg (x : BitVec 6) (imm : Half) (s : State) : Host.Outcome State Fault Refusal :=
  nmfenceWord (.nmfenceWg x imm) .wg s

/-- NMFENCE.DIE (R323). -/
def execNmfenceDie (x : BitVec 6) (imm : Half) (s : State) : Host.Outcome State Fault Refusal :=
  nmfenceWord (.nmfenceDie x imm) .die s

/-- NMFENCE.PKG (R323). -/
def execNmfencePkg (x : BitVec 6) (imm : Half) (s : State) : Host.Outcome State Fault Refusal :=
  nmfenceWord (.nmfencePkg x imm) .pkg s

/-- NMFENCE.DOM (R323). -/
def execNmfenceDom (x : BitVec 6) (imm : Half) (s : State) : Host.Outcome State Fault Refusal :=
  nmfenceWord (.nmfenceDom x imm) .dom s

/-- TFENCE.WG (R354). -/
def execTfenceWg (x : BitVec 6) (imm : Half) (s : State) : Host.Outcome State Fault Refusal :=
  tfenceWord (.tfenceWg x imm) .wg s

/-- TFENCE.DIE (R354). -/
def execTfenceDie (x : BitVec 6) (imm : Half) (s : State) : Host.Outcome State Fault Refusal :=
  tfenceWord (.tfenceDie x imm) .die s

/-- TFENCE.PKG (R354). -/
def execTfencePkg (x : BitVec 6) (imm : Half) (s : State) : Host.Outcome State Fault Refusal :=
  tfenceWord (.tfencePkg x imm) .pkg s

/-- TFENCE.DOM (R354). -/
def execTfenceDom (x : BitVec 6) (imm : Half) (s : State) : Host.Outcome State Fault Refusal :=
  tfenceWord (.tfenceDom x imm) .dom s

/-! Batches. -/

/-- BATCH: closes the open batch, gives its number, and opens the next (R173, R265). -/
def batchWord (i : Instr) (c : EngineClass) (d : Nat) (s : State) : Host.Outcome State Fault Refusal :=
  runWord .scalar false i s fun cx _ s =>
    let b := cx.w.batches c
    let s := emit s cx.k cx.j (.s d) (.word b.opened) (eff s cx) 2
    .ok (updWarp s cx.k fun w => w.setBatches c { w.batches c with opened := b.opened + 1 }, .seq)

/-- The failed batch a WAITB reports: of those it covers the oldest in the modular order (R174, R381). -/
def oldestFailed (x : Batches) (n : Word) : Option FailedBatch :=
  (x.failed.filter fun f => x.closed f.batch && batchLe f.batch n).foldl (fun r f =>
    match r with
    | none => some f
    | some g => if (x.opened - g.batch).toNat < (x.opened - f.batch).toNat then some f else r) none

/-- The end of a WAITB whose batches up to `v` have completed: a failed one is taken as a trap (R174, R381). -/
def endWaitb (s : State) (cx : Cx) (c : EngineClass) (v : Word) : State :=
  match oldestFailed (cx.w.batches c) v with
  | none => updSplit s cx.k cx.j fun sp => sp.pass 0
  | some f =>
    let npc := cx.sp.pc + 4
    takeTrap (updWarp s cx.k fun w => takeFailed w c f.batch) cx.k cx.j { f.trap with lanes := eff s cx } cx.sp.pc npc
      (hdrFor cx.sp npc) false

/-- WAITB: parks the warp until the closed batches up to S[s] have completed (R159, R173, R381). -/
def waitbWord (i : Instr) (c : EngineClass) (n : Nat) (s : State) : Host.Outcome State Fault Refusal :=
  runWord .scalar false i s fun cx _ s =>
    let v := readS s cx.w n
    if (cx.w.batches c).doneTo v then .ok (endWaitb (markIssued s cx) cx c v, .done) else .ok (parkWarp s cx.k cx.j (.batches c v), .done)

/-- The WAITB a warp is parked in can end: its class and number (R173). -/
def waitbReady (w : Warp) : Option (EngineClass × Word) :=
  match w.park with
  | some (.batches c v) => if (w.batches c).doneTo v then some (c, v) else none
  | _ => none

/-- BATCH_COMPLETE: the batches of the class have completed up to the one that the warp's WAITB waits for, which ends
(R29, R173). -/
def execBatchComplete (slot : Nat) (cls : EngineClass) (s : State) : Host.Outcome State Fault Refusal :=
  match (warpAt s slot).bind fun w => (waitbReady w).map fun x => (w.parkSplit, x) with
  | some (j, c, v) =>
    if c ≠ cls then .next s
    else
      let s := updWarp s slot fun w => { w with park := none }
      match cxAt s slot j with
      | none => .next s
      | some cx => .next (afterWord (endWaitb s cx c v) slot)
  | none => .next s

/-- BATCH.K (R265). -/
def execBatchK (x : BitVec 6) (imm : Half) (s : State) : Host.Outcome State Fault Refusal :=
  batchWord (.batchK x imm) .K x.toNat s

/-- BATCH.A (R265). -/
def execBatchA (x : BitVec 6) (imm : Half) (s : State) : Host.Outcome State Fault Refusal :=
  batchWord (.batchA x imm) .A x.toNat s

/-- BATCH.N (R265). -/
def execBatchN (x : BitVec 6) (imm : Half) (s : State) : Host.Outcome State Fault Refusal :=
  batchWord (.batchN x imm) .N x.toNat s

/-- BATCH.G (R265). -/
def execBatchG (x : BitVec 6) (imm : Half) (s : State) : Host.Outcome State Fault Refusal :=
  batchWord (.batchG x imm) .G x.toNat s

/-- WAITB.K (R381). -/
def execWaitbK (x : BitVec 6) (imm : Half) (s : State) : Host.Outcome State Fault Refusal :=
  waitbWord (.waitbK x imm) .K x.toNat s

/-- WAITB.A (R381). -/
def execWaitbA (x : BitVec 6) (imm : Half) (s : State) : Host.Outcome State Fault Refusal :=
  waitbWord (.waitbA x imm) .A x.toNat s

/-- WAITB.N (R381). -/
def execWaitbN (x : BitVec 6) (imm : Half) (s : State) : Host.Outcome State Fault Refusal :=
  waitbWord (.waitbN x imm) .N x.toNat s

/-- WAITB.G (R381). -/
def execWaitbG (x : BitVec 6) (imm : Half) (s : State) : Host.Outcome State Fault Refusal :=
  waitbWord (.waitbG x imm) .G x.toNat s

/-! Wakes. -/

/-- WAKEW, signal form (R30, R258, R382, R383): the latch of the warp in the named slot is set, once the signalling warp's
earlier accesses are visible and the target's core runs. -/
def execWakewSignal (x : BitVec 6) (imm : Half) (s : State) : Host.Outcome State Fault Refusal :=
  runWord .scalar false (.wakewSignal x imm) s fun cx _ s =>
    let v := readS s cx.w x.toNat
    let c := (v.extractLsb' 0 8).toNat
    let k := slotKey c (v.extractLsb' 8 2).toNat (v.extractLsb' 10 4).toNat
    if !inCoreSet s cx.w.ten c then .error (.trap (mkTrap .prot v (eff s cx)))
    else if !accessesDone cx.w then .error .wait
    else
      onceRuns s cx c fun s => .ok (updWarp s k fun w => if w.ten = cx.w.ten then { w with waking := true } else w, .seq)

/-- WAKEW, wait form (R29, R30, R382, R383). -/
def execWakewWait (x : BitVec 6) (s : State) : Host.Outcome State Fault Refusal :=
  runWord .scalar false (.wakewWait x) s fun cx _ s =>
    if cx.w.waking then .ok (updWarp s cx.k fun w => { w with waking := false }, .seq) else .error (.park .wake)

end Sys2Proof.Machine
end

