-- ==== Sys2Proof/Machine/Vector.lean ====
section
/-! DEFINITION. Vector arithmetic, logic, shifts, compares, conversions, bit counts, packing, special functions and the
cross-lane words (R288, R289, R304, R325, R341, R357 to R359, R364, R366, R367, R370 to R373, R376 to R378). -/

namespace Sys2Proof.Machine

/-- One result word per lane from two rows. -/
def row2 (f : Word → Word → Word) (x y : Row) : Row := rowOf fun l => f (lane x l) (lane y l)

/-- One result word per lane from three rows. -/
def row3 (f : Word → Word → Word → Word) (x y z : Row) : Row := rowOf fun l => f (lane x l) (lane y l) (lane z l)

/-- The operands d, a, b of an ordinary vector word. -/
def specAB (d a b : BitVec 7) : VSpec := VSpec.simple d [a, b]

/-- VADD to VABSD: an element operation under the mode (R357). -/
def vectorArith (i : Instr) (op : ArithOp) (lat : Nat) (d a b : BitVec 7) (s : State) : Host.Outcome State Fault Refusal :=
  vectorRow i (specAB d a b) lat anyMode
    (fun _ cx x => row2 (mapElems2 (etOf cx.w.mode) (arithElem (etOf cx.w.mode) (fmodeOf cx.w.mode) op)) (x.row 0) (x.row 1)) s

/-- Bitwise words, whatever ET holds (R359). -/
def vectorLogic (i : Instr) (f : Word → Word → Word) (d a b : BitVec 7) (s : State) : Host.Outcome State Fault Refusal :=
  vectorRow i (specAB d a b) 4 anyMode (fun _ _ x => row2 f (x.row 0) (x.row 1)) s

/-- The three shifts (R377). -/
inductive ShiftOp where
  | shl | shr | sra
deriving DecidableEq, Repr

/-- A shift of one element of width `w` (R377). -/
def shiftElem (w : Nat) (op : ShiftOp) (x k : Nat) : Nat :=
  match op with
  | .shl => if k ≥ w then 0 else x * 2 ^ k % 2 ^ w
  | .shr => if k ≥ w then 0 else x / 2 ^ k
  | .sra =>
    let v : Int := if x ≥ 2 ^ (w - 1) then (x : Int) - 2 ^ w else x
    (v / (2 ^ min k (w - 1) : Nat) % 2 ^ w).toNat

/-- VSHL, VSHR and VSRA at the element width of ET (R377). -/
def vectorShift (i : Instr) (op : ShiftOp) (d a b : BitVec 7) (s : State) : Host.Outcome State Fault Refusal :=
  vectorRow i (specAB d a b) 4 anyMode
    (fun _ cx x => row2 (mapElems2 (etOf cx.w.mode) (shiftElem (etWidth (etOf cx.w.mode)) op)) (x.row 0) (x.row 1)) s

/-- ET is I32, N32 or F32. -/
def wideMode (m : Half) : Bool := decide (etCount (etOf m) = 1)

/-- ET is a float type. -/
def floatMode (m : Half) : Bool := (etFmt (etOf m)).isSome

/-- ET is an integer type. -/
def intMode (m : Half) : Bool := (etFmt (etOf m)).isNone

/-- ET is a packed type. -/
def packedMode (m : Half) : Bool := decide (etCount (etOf m) ≠ 1)

/-- ET is F32 (R373). -/
def f32Mode (m : Half) : Bool := decide (etOf m = .f32)

/-- VCMP: a predicate of the active lanes, visible after 4 cycles (R366, R53). -/
def vectorCmp (i : Instr) (op : CmpOp) (d a b : BitVec 7) (s : State) : Host.Outcome State Fault Refusal :=
  runWord (.vector false) false i s fun cx ls s =>
    if !wideMode cx.w.mode then .error (illop i (eff s cx))
    else
      match readOperands i cx ls { specAB d a b with dst := none } s with
      | .error e => .error e
      | .ok x =>
        let m := maskOf fun l => cmpElem (etOf cx.w.mode) (dnzOf cx.w.mode) op (lane (x.row 0) l).toNat (lane (x.row 1) l).toNat
        .ok (emit x.s cx.k cx.j (.p d.toNat) (.mask m) (eff s cx) (4 + x.stalls), .seq)

/-- A unary element operation (R364). -/
def vectorUnary (i : Instr) (f : Nat → Nat → Nat) (d a b : BitVec 7) (s : State) : Host.Outcome State Fault Refusal :=
  vectorRow i (VSpec.unary d a b) 4 anyMode
    (fun _ cx x => rowOf fun l => mapElems (etOf cx.w.mode) (f (etWidth (etOf cx.w.mode))) (lane (x.row 0) l)) s

/-- The count of one bits of an element (R364). -/
def popElem (w x : Nat) : Nat := ((List.range w).filter fun i => x.testBit i).length

/-- The count of zero bits above the highest one bit (R364). -/
def clzElem (w x : Nat) : Nat := if x = 0 then w else w - 1 - Nat.log2 x

/-- The element with its bits reversed (R364). -/
def brevElem (w x : Nat) : Nat := ((List.range w).map fun i => if x.testBit i then 2 ^ (w - 1 - i) else 0).sum

/-- The wide type of a packed ET (R372). -/
def wideOf (t : ElemType) : ElemType :=
  match t with
  | .f16x2 => .f32
  | .bf16x2 => .f32
  | .i16x2 => .i32
  | .n16x2 => .n32
  | .i8x4 => .i16x2
  | _ => .n16x2

/-- Narrow (R372). -/
def narrowElem (t : ElemType) (m : FMode) (x : Nat) : Nat := cvtElem (wideOf t) t m x

/-- Widen (R372): exact, after the DNZ flush. -/
def widenElem (t : ElemType) (m : FMode) (x : Nat) : Nat :=
  match etFmt t with
  | some f => roundNE fF32 (readF f m.dnz x)
  | none => intBits (wideOf t) (elemInt t x)

/-- VPKLO and VPKHI of two words (R372). -/
def packWord (t : ElemType) (m : FMode) (hi : Bool) (x y : Word) : Word :=
  let g := fun v => if hi then v / 2 ^ etWidth t else narrowElem t m v
  let h := etCount t / 2
  BitVec.ofNat 32 (packElems t (((List.range h).map fun i => g (elemAt (wideOf t) x i))
    ++ ((List.range h).map fun i => g (elemAt (wideOf t) y i))))

/-- VUNLO and VUNHI of a word (R372). -/
def unpackWord (t : ElemType) (m : FMode) (hi : Bool) (x : Word) : Word :=
  let h := etCount t / 2
  BitVec.ofNat 32 (packElems (wideOf t) ((List.range h).map fun i => widenElem t m (elemAt t x (if hi then h + i else i))))

/-- VPKLO and VPKHI (R372). -/
def vectorPack (i : Instr) (hi : Bool) (d a b : BitVec 7) (s : State) : Host.Outcome State Fault Refusal :=
  vectorRow i (specAB d a b) 4 packedMode
    (fun _ cx x => row2 (packWord (etOf cx.w.mode) (fmodeOf cx.w.mode) hi) (x.row 0) (x.row 1)) s

/-- VUNLO and VUNHI (R372). -/
def vectorUnpack (i : Instr) (hi : Bool) (d a b : BitVec 7) (s : State) : Host.Outcome State Fault Refusal :=
  vectorRow i (VSpec.unary d a b) 4 packedMode
    (fun _ cx x => rowOf fun l => unpackWord (etOf cx.w.mode) (fmodeOf cx.w.mode) hi (lane (x.row 0) l)) s

/-- The special functions: long-latency, F32 only (R373). -/
def vectorSfu (i : Instr) (op : SfuOp) (d a b : BitVec 7) (s : State) : Host.Outcome State Fault Refusal :=
  runWord (.vector false) false i s fun cx ls s =>
    if !f32Mode cx.w.mode then .error (illop i (eff s cx))
    else
      match readOperands i cx ls { VSpec.unary d a b with port := some .sfu, long := some false } s with
      | .error e => .error e
      | .ok x =>
        let r := rowOf fun l => BitVec.ofNat 32 (sfuWord op (fmodeOf cx.w.mode) (lane (x.row 0) l).toNat)
        .ok (dropTime (addOp x.s cx (cxFlag cx false) (s.now + nextTime s) false x.dest (.write [(x.dest, .row r)] (eff s cx))), .seq)

/-- The operations of VLRED and VSCAN (R371, R376). -/
inductive CrossOp where
  | arith (op : ArithOp)
  | bits (f : Nat)
deriving DecidableEq, Repr

/-- Op of R371 on two words. -/
def crossWord (op : CrossOp) (t : ElemType) (m : FMode) (x y : Word) : Word :=
  match op with
  | .arith o => mapElems2 t (arithElem t m o) x y
  | .bits 0 => x &&& y
  | .bits 1 => x ||| y
  | .bits _ => x ^^^ y

/-- Op with the absent value of R371. -/
def crossOpt (op : CrossOp) (t : ElemType) (m : FMode) : Option Word → Option Word → Option Word
  | some x, some y => some (crossWord op t m x y)
  | some x, none => some x
  | none, y => y

/-- The steps of VLRED: off in W/2, …, 1 (R371). -/
def redSteps (f : Option Word → Option Word → Option Word) : List Nat → List (Option Word) → List (Option Word)
  | [], t => t
  | off :: r, t => redSteps f r ((List.range 64).map fun l => f (t.getD l none) (t.getD (l ^^^ off) none))

/-- The steps of VSCAN: off in 1, …, W/2 (R376). -/
def scanSteps (f : Option Word → Option Word → Option Word) : List Nat → List (Option Word) → List (Option Word)
  | [], t => t
  | off :: r, t => scanSteps f r ((List.range 64).map fun l => if off ≤ l then f (t.getD (l - off) none) (t.getD l none) else t.getD l none)

/-- The first values of VLRED and VSCAN: Op of the two sources in active lanes (R371). -/
def crossStart (op : CrossOp) (t : ElemType) (m : FMode) (e : Mask) (x y : Row) : List (Option Word) :=
  (List.range 64).map fun l => if e.getLsbD l then some (crossWord op t m (lane x l) (lane y l)) else none

/-- VLRED (R371) and VSCAN (R376). -/
def vectorCross (i : Instr) (scan : Bool) (op : CrossOp) (d a b : BitVec 7) (s : State) : Host.Outcome State Fault Refusal :=
  vectorRow i { specAB d a b with both := true } 10 anyMode
    (fun s cx x =>
      let t := etOf cx.w.mode
      let m := fmodeOf cx.w.mode
      let t0 := crossStart op t m (eff s cx) (x.row 0) (x.row 1)
      let f := crossOpt op t m
      let r := if scan then scanSteps f [1, 2, 4, 8, 16, 32] t0 else redSteps f [32, 16, 8, 4, 2, 1] t0
      rowOf fun l => (r.getD l none).getD 0) s

/-- The lane a fixed-offset shuffle reads (R378). -/
inductive ShuffleOp where
  | up | down | xor
deriving DecidableEq, Repr

/-- The source lane of lane `l` for offset `off` (R378). -/
def shuffleLane (op : ShuffleOp) (off l : Nat) : Nat :=
  match op with
  | .up => if off ≤ l then l - off else l
  | .down => if l + off < 64 then l + off else l
  | .xor => l ^^^ off

/-- VSHUP, VSHDN and VSHXOR: off = W >> (k + 1) (R378). -/
def vectorShuffle (i : Instr) (op : ShuffleOp) (d a b : BitVec 7) (s : State) : Host.Outcome State Fault Refusal :=
  vectorRow i { VSpec.simple d [a] with both := true } 10 anyMode
    (fun _ _ x => rowOf fun l => lane (x.row 0) (shuffleLane op (64 / 2 ^ (b.toNat + 1)) l)) s

/-- NOP: vector-slot cycles and nothing else (R72, R325). -/
def execNop (d a b : BitVec 7) (s : State) : Host.Outcome State Fault Refusal :=
  runWord (.vector false) false (.nop d a b) s fun cx _ s => .ok (spendPasses s cx false (eff s cx), .seq)

/-- SEL: a lane of a where Pc holds, of b elsewhere (R341). -/
def execSel (d a b c : BitVec 7) (s : State) : Host.Outcome State Fault Refusal :=
  vectorRow (.sel d a b c) (specAB d a b) 4 anyMode
    (fun _ cx x => rowOf fun l =>
      if (cx.w.p.getD c.toNat 0).getLsbD l then lane (x.row 0) l else lane (x.row 1) l) s

/-- FMA and FMS: one rounding, float ET only (R288, R289). -/
def vectorFma (i : Instr) (sub : Bool) (d a b c : BitVec 7) (s : State) : Host.Outcome State Fault Refusal :=
  vectorRow i (VSpec.simple d [a, b, c]) 6 floatMode
    (fun _ cx x =>
      let t := etOf cx.w.mode
      row3 (mapElems3 t (fmaElem ((etFmt t).getD fF32) (fmodeOf cx.w.mode) sub)) (x.row 0) (x.row 1) (x.row 2)) s

/-- FMA (R288). -/
def execFma (d a b c : BitVec 7) (s : State) : Host.Outcome State Fault Refusal :=
  vectorFma (.fma d a b c) false d a b c s

/-- FMS (R289). -/
def execFms (d a b c : BitVec 7) (s : State) : Host.Outcome State Fault Refusal :=
  vectorFma (.fms d a b c) true d a b c s

/-- IMAD of one element (R304). -/
def imadElem (t : ElemType) (sat : Bool) (x y z : Nat) : Nat :=
  intResult t sat (elemInt t x * elemInt t y + elemInt t z)

/-- IMAD: exact, then IntResult; integer ET only (R304). -/
def execImad (d a b c : BitVec 7) (s : State) : Host.Outcome State Fault Refusal :=
  vectorRow (.imad d a b c) (VSpec.simple d [a, b, c]) 6 intMode
    (fun _ cx x =>
      row3 (mapElems3 (etOf cx.w.mode) (imadElem (etOf cx.w.mode) (satOf cx.w.mode))) (x.row 0) (x.row 1) (x.row 2)) s

/-- VCVT to the type code b names (R119, R367). -/
def execVcvt (d a b : BitVec 7) (s : State) : Host.Outcome State Fault Refusal :=
  vectorRow (.vcvt d a b) (VSpec.simple d [a]) 4 anyMode
    (fun _ cx x => rowOf fun l => cvtWord (etOf cx.w.mode) (etCode b.toNat) (fmodeOf cx.w.mode) (lane (x.row 0) l)) s

/-- VSHIDX: lane V[b][l] mod W of a (R378). -/
def execVshidx (d a b : BitVec 7) (s : State) : Host.Outcome State Fault Refusal :=
  vectorRow (.vshidx d a b) { specAB d a b with both := true } 10 anyMode
    (fun _ _ x => rowOf fun l => lane (x.row 0) ((lane (x.row 1) l).toNat % 64)) s

/-- VADD: x + y of each element, visible after 4 cycles (R357). -/
def execVadd (d a b : BitVec 7) (s : State) : Host.Outcome State Fault Refusal :=
  vectorArith (.vadd d a b) .add 4 d a b s

/-- VSUB: x − y of each element, visible after 4 cycles (R357). -/
def execVsub (d a b : BitVec 7) (s : State) : Host.Outcome State Fault Refusal :=
  vectorArith (.vsub d a b) .sub 4 d a b s

/-- VMUL: x × y of each element, visible after 6 cycles (R357). -/
def execVmul (d a b : BitVec 7) (s : State) : Host.Outcome State Fault Refusal :=
  vectorArith (.vmul d a b) .mul 6 d a b s

/-- VMIN: minimum of each element, visible after 4 cycles (R357). -/
def execVmin (d a b : BitVec 7) (s : State) : Host.Outcome State Fault Refusal :=
  vectorArith (.vmin d a b) .min 4 d a b s

/-- VMAX: maximum of each element, visible after 4 cycles (R357). -/
def execVmax (d a b : BitVec 7) (s : State) : Host.Outcome State Fault Refusal :=
  vectorArith (.vmax d a b) .max 4 d a b s

/-- VABSD: |x − y| of each element, visible after 4 cycles (R357). -/
def execVabsd (d a b : BitVec 7) (s : State) : Host.Outcome State Fault Refusal :=
  vectorArith (.vabsd d a b) .absd 4 d a b s

/-- VAND: bitwise AND (R359). -/
def execVand (d a b : BitVec 7) (s : State) : Host.Outcome State Fault Refusal :=
  vectorLogic (.vand d a b) (fun x y => x &&& y) d a b s

/-- VOR: bitwise OR (R359). -/
def execVor (d a b : BitVec 7) (s : State) : Host.Outcome State Fault Refusal :=
  vectorLogic (.vor d a b) (fun x y => x ||| y) d a b s

/-- VXOR: bitwise XOR (R359). -/
def execVxor (d a b : BitVec 7) (s : State) : Host.Outcome State Fault Refusal :=
  vectorLogic (.vxor d a b) (fun x y => x ^^^ y) d a b s

/-- VANDN: bitwise AND NOT (R359). -/
def execVandn (d a b : BitVec 7) (s : State) : Host.Outcome State Fault Refusal :=
  vectorLogic (.vandn d a b) (fun x y => x &&& ~~~y) d a b s

/-- VSHL (R377). -/
def execVshl (d a b : BitVec 7) (s : State) : Host.Outcome State Fault Refusal :=
  vectorShift (.vshl d a b) .shl d a b s

/-- VSHR (R377). -/
def execVshr (d a b : BitVec 7) (s : State) : Host.Outcome State Fault Refusal :=
  vectorShift (.vshr d a b) .shr d a b s

/-- VSRA (R377). -/
def execVsra (d a b : BitVec 7) (s : State) : Host.Outcome State Fault Refusal :=
  vectorShift (.vsra d a b) .sra d a b s

/-- VCMP.EQ (R366). -/
def execVcmpEq (d a b : BitVec 7) (s : State) : Host.Outcome State Fault Refusal :=
  vectorCmp (.vcmpEq d a b) .eq d a b s

/-- VCMP.NE (R366). -/
def execVcmpNe (d a b : BitVec 7) (s : State) : Host.Outcome State Fault Refusal :=
  vectorCmp (.vcmpNe d a b) .ne d a b s

/-- VCMP.LT (R366). -/
def execVcmpLt (d a b : BitVec 7) (s : State) : Host.Outcome State Fault Refusal :=
  vectorCmp (.vcmpLt d a b) .lt d a b s

/-- VCMP.LE (R366). -/
def execVcmpLe (d a b : BitVec 7) (s : State) : Host.Outcome State Fault Refusal :=
  vectorCmp (.vcmpLe d a b) .le d a b s

/-- VCMP.GT (R366). -/
def execVcmpGt (d a b : BitVec 7) (s : State) : Host.Outcome State Fault Refusal :=
  vectorCmp (.vcmpGt d a b) .gt d a b s

/-- VCMP.GE (R366). -/
def execVcmpGe (d a b : BitVec 7) (s : State) : Host.Outcome State Fault Refusal :=
  vectorCmp (.vcmpGe d a b) .ge d a b s

/-- VCMP.UN (R366). -/
def execVcmpUn (d a b : BitVec 7) (s : State) : Host.Outcome State Fault Refusal :=
  vectorCmp (.vcmpUn d a b) .un d a b s

/-- VCMP.ORD (R366). -/
def execVcmpOrd (d a b : BitVec 7) (s : State) : Host.Outcome State Fault Refusal :=
  vectorCmp (.vcmpOrd d a b) .ord d a b s

/-- VRCP (R118, R373). -/
def execVrcp (d a b : BitVec 7) (s : State) : Host.Outcome State Fault Refusal :=
  vectorSfu (.vrcp d a b) .rcp d a b s

/-- VRSQ (R118, R373). -/
def execVrsq (d a b : BitVec 7) (s : State) : Host.Outcome State Fault Refusal :=
  vectorSfu (.vrsq d a b) .rsq d a b s

/-- VSQRT (R118, R373). -/
def execVsqrt (d a b : BitVec 7) (s : State) : Host.Outcome State Fault Refusal :=
  vectorSfu (.vsqrt d a b) .sqrt d a b s

/-- VEX2 (R118, R373). -/
def execVex2 (d a b : BitVec 7) (s : State) : Host.Outcome State Fault Refusal :=
  vectorSfu (.vex2 d a b) .ex2 d a b s

/-- VLG2 (R118, R373). -/
def execVlg2 (d a b : BitVec 7) (s : State) : Host.Outcome State Fault Refusal :=
  vectorSfu (.vlg2 d a b) .lg2 d a b s

/-- VSIN (R118, R373). -/
def execVsin (d a b : BitVec 7) (s : State) : Host.Outcome State Fault Refusal :=
  vectorSfu (.vsin d a b) .sin d a b s

/-- VCOS (R118, R373). -/
def execVcos (d a b : BitVec 7) (s : State) : Host.Outcome State Fault Refusal :=
  vectorSfu (.vcos d a b) .cos d a b s

/-- VTNH (R118, R373). -/
def execVtnh (d a b : BitVec 7) (s : State) : Host.Outcome State Fault Refusal :=
  vectorSfu (.vtnh d a b) .tnh d a b s

/-- VSHUP (R378). -/
def execVshup (d a b : BitVec 7) (s : State) : Host.Outcome State Fault Refusal :=
  vectorShuffle (.vshup d a b) .up d a b s

/-- VSHDN (R378). -/
def execVshdn (d a b : BitVec 7) (s : State) : Host.Outcome State Fault Refusal :=
  vectorShuffle (.vshdn d a b) .down d a b s

/-- VSHXOR (R378). -/
def execVshxor (d a b : BitVec 7) (s : State) : Host.Outcome State Fault Refusal :=
  vectorShuffle (.vshxor d a b) .xor d a b s

/-- VLRED.ADD (R371). -/
def execVlredAdd (d a b : BitVec 7) (s : State) : Host.Outcome State Fault Refusal :=
  vectorCross (.vlredAdd d a b) false (.arith .add) d a b s

/-- VLRED.MIN (R371). -/
def execVlredMin (d a b : BitVec 7) (s : State) : Host.Outcome State Fault Refusal :=
  vectorCross (.vlredMin d a b) false (.arith .min) d a b s

/-- VLRED.MAX (R371). -/
def execVlredMax (d a b : BitVec 7) (s : State) : Host.Outcome State Fault Refusal :=
  vectorCross (.vlredMax d a b) false (.arith .max) d a b s

/-- VLRED.AND (R371). -/
def execVlredAnd (d a b : BitVec 7) (s : State) : Host.Outcome State Fault Refusal :=
  vectorCross (.vlredAnd d a b) false (.bits 0) d a b s

/-- VLRED.OR (R371). -/
def execVlredOr (d a b : BitVec 7) (s : State) : Host.Outcome State Fault Refusal :=
  vectorCross (.vlredOr d a b) false (.bits 1) d a b s

/-- VLRED.XOR (R371). -/
def execVlredXor (d a b : BitVec 7) (s : State) : Host.Outcome State Fault Refusal :=
  vectorCross (.vlredXor d a b) false (.bits 2) d a b s

/-- VSCAN.ADD (R376). -/
def execVscanAdd (d a b : BitVec 7) (s : State) : Host.Outcome State Fault Refusal :=
  vectorCross (.vscanAdd d a b) true (.arith .add) d a b s

/-- VSCAN.MAX (R376). -/
def execVscanMax (d a b : BitVec 7) (s : State) : Host.Outcome State Fault Refusal :=
  vectorCross (.vscanMax d a b) true (.arith .max) d a b s

/-- VPOPC (R364). -/
def execVpopc (d a b : BitVec 7) (s : State) : Host.Outcome State Fault Refusal :=
  vectorUnary (.vpopc d a b) popElem d a b s

/-- VCLZ (R364). -/
def execVclz (d a b : BitVec 7) (s : State) : Host.Outcome State Fault Refusal :=
  vectorUnary (.vclz d a b) clzElem d a b s

/-- VBREV (R364). -/
def execVbrev (d a b : BitVec 7) (s : State) : Host.Outcome State Fault Refusal :=
  vectorUnary (.vbrev d a b) brevElem d a b s

/-- VPKLO (R372). -/
def execVpklo (d a b : BitVec 7) (s : State) : Host.Outcome State Fault Refusal :=
  vectorPack (.vpklo d a b) false d a b s

/-- VPKHI (R372). -/
def execVpkhi (d a b : BitVec 7) (s : State) : Host.Outcome State Fault Refusal :=
  vectorPack (.vpkhi d a b) true d a b s

/-- VUNLO (R372). -/
def execVunlo (d a b : BitVec 7) (s : State) : Host.Outcome State Fault Refusal :=
  vectorUnpack (.vunlo d a b) false d a b s

/-- VUNHI (R372). -/
def execVunhi (d a b : BitVec 7) (s : State) : Host.Outcome State Fault Refusal :=
  vectorUnpack (.vunhi d a b) true d a b s

end Sys2Proof.Machine
end

