-- ==== Sys2Proof/Machine/Dispatch.lean ====
section
/-! DEFINITION. The meaning of every instruction and event, one arm for each. -/

namespace Sys2Proof.Machine

def exec (i : Instr) (s : State) : Host.Outcome State Fault Refusal :=
  match i with
  | .nop d a b => Sys2Proof.Machine.execNop d a b s
  | .vadd d a b => Sys2Proof.Machine.execVadd d a b s
  | .vsub d a b => Sys2Proof.Machine.execVsub d a b s
  | .vmul d a b => Sys2Proof.Machine.execVmul d a b s
  | .vmin d a b => Sys2Proof.Machine.execVmin d a b s
  | .vmax d a b => Sys2Proof.Machine.execVmax d a b s
  | .vabsd d a b => Sys2Proof.Machine.execVabsd d a b s
  | .vand d a b => Sys2Proof.Machine.execVand d a b s
  | .vor d a b => Sys2Proof.Machine.execVor d a b s
  | .vxor d a b => Sys2Proof.Machine.execVxor d a b s
  | .vandn d a b => Sys2Proof.Machine.execVandn d a b s
  | .vshl d a b => Sys2Proof.Machine.execVshl d a b s
  | .vshr d a b => Sys2Proof.Machine.execVshr d a b s
  | .vsra d a b => Sys2Proof.Machine.execVsra d a b s
  | .vcmpEq d a b => Sys2Proof.Machine.execVcmpEq d a b s
  | .vcmpNe d a b => Sys2Proof.Machine.execVcmpNe d a b s
  | .vcmpLt d a b => Sys2Proof.Machine.execVcmpLt d a b s
  | .vcmpLe d a b => Sys2Proof.Machine.execVcmpLe d a b s
  | .vcmpGt d a b => Sys2Proof.Machine.execVcmpGt d a b s
  | .vcmpGe d a b => Sys2Proof.Machine.execVcmpGe d a b s
  | .vcmpUn d a b => Sys2Proof.Machine.execVcmpUn d a b s
  | .vcmpOrd d a b => Sys2Proof.Machine.execVcmpOrd d a b s
  | .vcvt d a b => Sys2Proof.Machine.execVcvt d a b s
  | .vrcp d a b => Sys2Proof.Machine.execVrcp d a b s
  | .vrsq d a b => Sys2Proof.Machine.execVrsq d a b s
  | .vsqrt d a b => Sys2Proof.Machine.execVsqrt d a b s
  | .vex2 d a b => Sys2Proof.Machine.execVex2 d a b s
  | .vlg2 d a b => Sys2Proof.Machine.execVlg2 d a b s
  | .vsin d a b => Sys2Proof.Machine.execVsin d a b s
  | .vcos d a b => Sys2Proof.Machine.execVcos d a b s
  | .vtnh d a b => Sys2Proof.Machine.execVtnh d a b s
  | .vshup d a b => Sys2Proof.Machine.execVshup d a b s
  | .vshdn d a b => Sys2Proof.Machine.execVshdn d a b s
  | .vshxor d a b => Sys2Proof.Machine.execVshxor d a b s
  | .vshidx d a b => Sys2Proof.Machine.execVshidx d a b s
  | .vlredAdd d a b => Sys2Proof.Machine.execVlredAdd d a b s
  | .vlredMin d a b => Sys2Proof.Machine.execVlredMin d a b s
  | .vlredMax d a b => Sys2Proof.Machine.execVlredMax d a b s
  | .vlredAnd d a b => Sys2Proof.Machine.execVlredAnd d a b s
  | .vlredOr d a b => Sys2Proof.Machine.execVlredOr d a b s
  | .vlredXor d a b => Sys2Proof.Machine.execVlredXor d a b s
  | .vscanAdd d a b => Sys2Proof.Machine.execVscanAdd d a b s
  | .vscanMax d a b => Sys2Proof.Machine.execVscanMax d a b s
  | .vpopc d a b => Sys2Proof.Machine.execVpopc d a b s
  | .vclz d a b => Sys2Proof.Machine.execVclz d a b s
  | .vbrev d a b => Sys2Proof.Machine.execVbrev d a b s
  | .vpklo d a b => Sys2Proof.Machine.execVpklo d a b s
  | .vpkhi d a b => Sys2Proof.Machine.execVpkhi d a b s
  | .vunlo d a b => Sys2Proof.Machine.execVunlo d a b s
  | .vunhi d a b => Sys2Proof.Machine.execVunhi d a b s
  | .vldB d a b => Sys2Proof.Machine.execVldB d a b s
  | .vldH d a b => Sys2Proof.Machine.execVldH d a b s
  | .vldW d a b => Sys2Proof.Machine.execVldW d a b s
  | .vldD d a b => Sys2Proof.Machine.execVldD d a b s
  | .vldQ d a b => Sys2Proof.Machine.execVldQ d a b s
  | .vstB d a b => Sys2Proof.Machine.execVstB d a b s
  | .vstH d a b => Sys2Proof.Machine.execVstH d a b s
  | .vstW d a b => Sys2Proof.Machine.execVstW d a b s
  | .vstD d a b => Sys2Proof.Machine.execVstD d a b s
  | .vstQ d a b => Sys2Proof.Machine.execVstQ d a b s
  | .ldfA d a b => Sys2Proof.Machine.execLdfA d a b s
  | .ldfB d a b => Sys2Proof.Machine.execLdfB d a b s
  | .ldfC d a b => Sys2Proof.Machine.execLdfC d a b s
  | .stfC d a b => Sys2Proof.Machine.execStfC d a b s
  | .vldaWg d a b => Sys2Proof.Machine.execVldaWg d a b s
  | .vldaDie d a b => Sys2Proof.Machine.execVldaDie d a b s
  | .vldaPkg d a b => Sys2Proof.Machine.execVldaPkg d a b s
  | .vldaDom d a b => Sys2Proof.Machine.execVldaDom d a b s
  | .vstrWg d a b => Sys2Proof.Machine.execVstrWg d a b s
  | .vstrDie d a b => Sys2Proof.Machine.execVstrDie d a b s
  | .vstrPkg d a b => Sys2Proof.Machine.execVstrPkg d a b s
  | .vstrDom d a b => Sys2Proof.Machine.execVstrDom d a b s
  | .vatomWgAdd d a b => Sys2Proof.Machine.execVatomWgAdd d a b s
  | .vatomWgMin d a b => Sys2Proof.Machine.execVatomWgMin d a b s
  | .vatomWgMax d a b => Sys2Proof.Machine.execVatomWgMax d a b s
  | .vatomWgAnd d a b => Sys2Proof.Machine.execVatomWgAnd d a b s
  | .vatomWgOr d a b => Sys2Proof.Machine.execVatomWgOr d a b s
  | .vatomWgXor d a b => Sys2Proof.Machine.execVatomWgXor d a b s
  | .vatomWgXchg d a b => Sys2Proof.Machine.execVatomWgXchg d a b s
  | .vatomWgCas d a b => Sys2Proof.Machine.execVatomWgCas d a b s
  | .vatomDieAdd d a b => Sys2Proof.Machine.execVatomDieAdd d a b s
  | .vatomDieMin d a b => Sys2Proof.Machine.execVatomDieMin d a b s
  | .vatomDieMax d a b => Sys2Proof.Machine.execVatomDieMax d a b s
  | .vatomDieAnd d a b => Sys2Proof.Machine.execVatomDieAnd d a b s
  | .vatomDieOr d a b => Sys2Proof.Machine.execVatomDieOr d a b s
  | .vatomDieXor d a b => Sys2Proof.Machine.execVatomDieXor d a b s
  | .vatomDieXchg d a b => Sys2Proof.Machine.execVatomDieXchg d a b s
  | .vatomDieCas d a b => Sys2Proof.Machine.execVatomDieCas d a b s
  | .vatomPkgAdd d a b => Sys2Proof.Machine.execVatomPkgAdd d a b s
  | .vatomPkgMin d a b => Sys2Proof.Machine.execVatomPkgMin d a b s
  | .vatomPkgMax d a b => Sys2Proof.Machine.execVatomPkgMax d a b s
  | .vatomPkgAnd d a b => Sys2Proof.Machine.execVatomPkgAnd d a b s
  | .vatomPkgOr d a b => Sys2Proof.Machine.execVatomPkgOr d a b s
  | .vatomPkgXor d a b => Sys2Proof.Machine.execVatomPkgXor d a b s
  | .vatomPkgXchg d a b => Sys2Proof.Machine.execVatomPkgXchg d a b s
  | .vatomPkgCas d a b => Sys2Proof.Machine.execVatomPkgCas d a b s
  | .vatomDomAdd d a b => Sys2Proof.Machine.execVatomDomAdd d a b s
  | .vatomDomMin d a b => Sys2Proof.Machine.execVatomDomMin d a b s
  | .vatomDomMax d a b => Sys2Proof.Machine.execVatomDomMax d a b s
  | .vatomDomAnd d a b => Sys2Proof.Machine.execVatomDomAnd d a b s
  | .vatomDomOr d a b => Sys2Proof.Machine.execVatomDomOr d a b s
  | .vatomDomXor d a b => Sys2Proof.Machine.execVatomDomXor d a b s
  | .vatomDomXchg d a b => Sys2Proof.Machine.execVatomDomXchg d a b s
  | .vatomDomCas d a b => Sys2Proof.Machine.execVatomDomCas d a b s
  | .nmredAdd d a b => Sys2Proof.Machine.execNmredAdd d a b s
  | .nmredMin d a b => Sys2Proof.Machine.execNmredMin d a b s
  | .nmredMax d a b => Sys2Proof.Machine.execNmredMax d a b s
  | .mma d a b => Sys2Proof.Machine.execMma d a b s
  | .mmac d a b => Sys2Proof.Machine.execMmac d a b s
  | .mmaz d a b => Sys2Proof.Machine.execMmaz d a b s
  | .hcvt d a b => Sys2Proof.Machine.execHcvt d a b s
  | .hcvtb d a b => Sys2Proof.Machine.execHcvtb d a b s
  | .hexp d a b => Sys2Proof.Machine.execHexp d a b s
  | .hadd d a b => Sys2Proof.Machine.execHadd d a b s
  | .hsub d a b => Sys2Proof.Machine.execHsub d a b s
  | .hneg d a b => Sys2Proof.Machine.execHneg d a b s
  | .hscl d a b => Sys2Proof.Machine.execHscl d a b s
  | .hdot d a b => Sys2Proof.Machine.execHdot d a b s
  | .hdotn d a b => Sys2Proof.Machine.execHdotn d a b s
  | .hrot d a b => Sys2Proof.Machine.execHrot d a b s
  | .sadd d a b => Sys2Proof.Machine.execSadd d a b s
  | .ssub d a b => Sys2Proof.Machine.execSsub d a b s
  | .smul d a b => Sys2Proof.Machine.execSmul d a b s
  | .sand d a b => Sys2Proof.Machine.execSand d a b s
  | .sor d a b => Sys2Proof.Machine.execSor d a b s
  | .sxor d a b => Sys2Proof.Machine.execSxor d a b s
  | .sshl d a b => Sys2Proof.Machine.execSshl d a b s
  | .sshr d a b => Sys2Proof.Machine.execSshr d a b s
  | .ssra d a b => Sys2Proof.Machine.execSsra d a b s
  | .smin d a b => Sys2Proof.Machine.execSmin d a b s
  | .smax d a b => Sys2Proof.Machine.execSmax d a b s
  | .scmpEq d a b => Sys2Proof.Machine.execScmpEq d a b s
  | .scmpNe d a b => Sys2Proof.Machine.execScmpNe d a b s
  | .scmpLt d a b => Sys2Proof.Machine.execScmpLt d a b s
  | .scmpLe d a b => Sys2Proof.Machine.execScmpLe d a b s
  | .scmpGt d a b => Sys2Proof.Machine.execScmpGt d a b s
  | .scmpGe d a b => Sys2Proof.Machine.execScmpGe d a b s
  | .scmpLtu d a b => Sys2Proof.Machine.execScmpLtu d a b s
  | .scmpGeu d a b => Sys2Proof.Machine.execScmpGeu d a b s
  | .vcalli d a b => Sys2Proof.Machine.execVcalli d a b s
  | .pand d a b => Sys2Proof.Machine.execPand d a b s
  | .por d a b => Sys2Proof.Machine.execPor d a b s
  | .pxor d a b => Sys2Proof.Machine.execPxor d a b s
  | .pandn d a b => Sys2Proof.Machine.execPandn d a b s
  | .fma d a b c => Sys2Proof.Machine.execFma d a b c s
  | .fms d a b c => Sys2Proof.Machine.execFms d a b c s
  | .sel d a b c => Sys2Proof.Machine.execSel d a b c s
  | .imad d a b c => Sys2Proof.Machine.execImad d a b c s
  | .smovi x imm => Sys2Proof.Machine.execSmovi x imm s
  | .smovhi x imm => Sys2Proof.Machine.execSmovhi x imm s
  | .saddi x imm => Sys2Proof.Machine.execSaddi x imm s
  | .sandi x imm => Sys2Proof.Machine.execSandi x imm s
  | .mode x imm => Sys2Proof.Machine.execMode x imm s
  | .br x imm => Sys2Proof.Machine.execBr x imm s
  | .brz x imm => Sys2Proof.Machine.execBrz x imm s
  | .brnz x imm => Sys2Proof.Machine.execBrnz x imm s
  | .brany x imm => Sys2Proof.Machine.execBrany x imm s
  | .brall x imm => Sys2Proof.Machine.execBrall x imm s
  | .brdiv x imm => Sys2Proof.Machine.execBrdiv x imm s
  | .call x imm => Sys2Proof.Machine.execCall x imm s
  | .calli x imm => Sys2Proof.Machine.execCalli x imm s
  | .ret x imm => Sys2Proof.Machine.execRet x imm s
  | .rjoin x imm => Sys2Proof.Machine.execRjoin x imm s
  | .exit x imm => Sys2Proof.Machine.execExit x imm s
  | .exitl x imm => Sys2Proof.Machine.execExitl x imm s
  | .sbal x imm => Sys2Proof.Machine.execSbal x imm s
  | .pset x imm => Sys2Proof.Machine.execPset x imm s
  | .pcnt x imm => Sys2Proof.Machine.execPcnt x imm s
  | .sld x imm => Sys2Proof.Machine.execSld x imm s
  | .sst x imm => Sys2Proof.Machine.execSst x imm s
  | .sldd x imm => Sys2Proof.Machine.execSldd x imm s
  | .vrget x imm => Sys2Proof.Machine.execVrget x imm s
  | .vrset x imm => Sys2Proof.Machine.execVrset x imm s
  | .brew x imm => Sys2Proof.Machine.execBrew x imm s
  | .xrel x imm => Sys2Proof.Machine.execXrel x imm s
  | .claim x imm => Sys2Proof.Machine.execClaim x imm s
  | .surr x imm => Sys2Proof.Machine.execSurr x imm s
  | .bara x imm => Sys2Proof.Machine.execBara x imm s
  | .barw x imm => Sys2Proof.Machine.execBarw x imm s
  | .baraw x imm => Sys2Proof.Machine.execBaraw x imm s
  | .barq x imm => Sys2Proof.Machine.execBarq x imm s
  | .barwg x imm => Sys2Proof.Machine.execBarwg x imm s
  | .fenceWgAcq x imm => Sys2Proof.Machine.execFenceWgAcq x imm s
  | .fenceWgRel x imm => Sys2Proof.Machine.execFenceWgRel x imm s
  | .fenceWgFull x imm => Sys2Proof.Machine.execFenceWgFull x imm s
  | .fenceDieAcq x imm => Sys2Proof.Machine.execFenceDieAcq x imm s
  | .fenceDieRel x imm => Sys2Proof.Machine.execFenceDieRel x imm s
  | .fenceDieFull x imm => Sys2Proof.Machine.execFenceDieFull x imm s
  | .fencePkgAcq x imm => Sys2Proof.Machine.execFencePkgAcq x imm s
  | .fencePkgRel x imm => Sys2Proof.Machine.execFencePkgRel x imm s
  | .fencePkgFull x imm => Sys2Proof.Machine.execFencePkgFull x imm s
  | .fenceDomAcq x imm => Sys2Proof.Machine.execFenceDomAcq x imm s
  | .fenceDomRel x imm => Sys2Proof.Machine.execFenceDomRel x imm s
  | .fenceDomFull x imm => Sys2Proof.Machine.execFenceDomFull x imm s
  | .nmfenceWg x imm => Sys2Proof.Machine.execNmfenceWg x imm s
  | .nmfenceDie x imm => Sys2Proof.Machine.execNmfenceDie x imm s
  | .nmfencePkg x imm => Sys2Proof.Machine.execNmfencePkg x imm s
  | .nmfenceDom x imm => Sys2Proof.Machine.execNmfenceDom x imm s
  | .tfenceWg x imm => Sys2Proof.Machine.execTfenceWg x imm s
  | .tfenceDie x imm => Sys2Proof.Machine.execTfenceDie x imm s
  | .tfencePkg x imm => Sys2Proof.Machine.execTfencePkg x imm s
  | .tfenceDom x imm => Sys2Proof.Machine.execTfenceDom x imm s
  | .batchK x imm => Sys2Proof.Machine.execBatchK x imm s
  | .batchA x imm => Sys2Proof.Machine.execBatchA x imm s
  | .batchN x imm => Sys2Proof.Machine.execBatchN x imm s
  | .batchG x imm => Sys2Proof.Machine.execBatchG x imm s
  | .waitbK x imm => Sys2Proof.Machine.execWaitbK x imm s
  | .waitbA x imm => Sys2Proof.Machine.execWaitbA x imm s
  | .waitbN x imm => Sys2Proof.Machine.execWaitbN x imm s
  | .waitbG x imm => Sys2Proof.Machine.execWaitbG x imm s
  | .kld x imm => Sys2Proof.Machine.execKld x imm s
  | .kst x imm => Sys2Proof.Machine.execKst x imm s
  | .klut x imm => Sys2Proof.Machine.execKlut x imm s
  | .lqry x imm => Sys2Proof.Machine.execLqry x imm s
  | .lapp x imm => Sys2Proof.Machine.execLapp x imm s
  | .lctl x imm => Sys2Proof.Machine.execLctl x imm s
  | .lpf x imm => Sys2Proof.Machine.execLpf x imm s
  | .qpush x imm => Sys2Proof.Machine.execQpush x imm s
  | .qpop x imm => Sys2Proof.Machine.execQpop x imm s
  | .qtry x imm => Sys2Proof.Machine.execQtry x imm s
  | .dcset x imm => Sys2Proof.Machine.execDcset x imm s
  | .dcdec x imm => Sys2Proof.Machine.execDcdec x imm s
  | .dcatt x imm => Sys2Proof.Machine.execDcatt x imm s
  | .mark x imm => Sys2Proof.Machine.execMark x imm s
  | .cut x imm => Sys2Proof.Machine.execCut x imm s
  | .graft x imm => Sys2Proof.Machine.execGraft x imm s
  | .unmark x imm => Sys2Proof.Machine.execUnmark x imm s
  | .enter x imm => Sys2Proof.Machine.execEnter x imm s
  | .svc x imm => Sys2Proof.Machine.execSvc x imm s
  | .bkpt x imm => Sys2Proof.Machine.execBkpt x imm s
  | .srd x imm => Sys2Proof.Machine.execSrd x imm s
  | .swr x imm => Sys2Proof.Machine.execSwr x imm s
  | .wakewSignal x imm => Sys2Proof.Machine.execWakewSignal x imm s
  | .wakewWait x => Sys2Proof.Machine.execWakewWait x s
  | .yield x imm => Sys2Proof.Machine.execYield x imm s
  | .tret x imm => Sys2Proof.Machine.execTret x imm s
  | .shln x imm => Sys2Proof.Machine.execShln x imm s
  | .hsetn x imm => Sys2Proof.Machine.execHsetn x imm s
  | .unassignedOpcode w => Sys2Proof.Machine.execUnassignedOpcode w s
  | .undefinedClassH w => Sys2Proof.Machine.execUndefinedClassH w s
  | .clauseStart => Sys2Proof.Machine.execClauseStart s
  | .shortLatencyWriteback slot seq => Sys2Proof.Machine.execShortLatencyWriteback slot seq s
  | .memoryAccessComplete slot op => Sys2Proof.Machine.execMemoryAccessComplete slot op s
  | .sfuComplete slot op => Sys2Proof.Machine.execSfuComplete slot op s
  | .mmaResult slot op => Sys2Proof.Machine.execMmaResult slot op s
  | .checksumCompare slot op mismatch => Sys2Proof.Machine.execChecksumCompare slot op mismatch s
  | .checksumRerunResult slot op mismatch => Sys2Proof.Machine.execChecksumRerunResult slot op mismatch s
  | .headingCommit slot seq => Sys2Proof.Machine.execHeadingCommit slot seq s
  | .claimGrant quad => Sys2Proof.Machine.execClaimGrant quad s
  | .surrReturn slot => Sys2Proof.Machine.execSurrReturn slot s
  | .warpRetire slot => Sys2Proof.Machine.execWarpRetire slot s
  | .deferredTrap slot => Sys2Proof.Machine.execDeferredTrap slot s
  | .bkptDelivery slot => Sys2Proof.Machine.execBkptDelivery slot s
  | .workgroupPlacement wg => Sys2Proof.Machine.execWorkgroupPlacement wg s
  | .temperatureReading core quarters => Sys2Proof.Machine.execTemperatureReading core quarters s
  | .droopEvent core => Sys2Proof.Machine.execDroopEvent core s
  | .starvationPriority slot split => Sys2Proof.Machine.execStarvationPriority slot split s
  | .iterationSpawn core => Sys2Proof.Machine.execIterationSpawn core s
  | .counterReleaseDeferred core => Sys2Proof.Machine.execCounterReleaseDeferred core s
  | .caskRefill cask => Sys2Proof.Machine.execCaskRefill cask s
  | .kilnExpand core => Sys2Proof.Machine.execKilnExpand core s
  | .kilnPack core => Sys2Proof.Machine.execKilnPack core s
  | .latticeLoad core => Sys2Proof.Machine.execLatticeLoad core s
  | .batchComplete slot cls => Sys2Proof.Machine.execBatchComplete slot cls s
  | .combinerApply red => Sys2Proof.Machine.execCombinerApply red s
  | .lanternAppend die cmd => Sys2Proof.Machine.execLanternAppend die cmd s
  | .lanternQuery die cmd => Sys2Proof.Machine.execLanternQuery die cmd s
  | .stagingFill die => Sys2Proof.Machine.execStagingFill die s
  | .lctlCreate die cmd => Sys2Proof.Machine.execLctlCreate die cmd s
  | .lctlFree die cmd => Sys2Proof.Machine.execLctlFree die cmd s
  | .lctlTrunc die cmd => Sys2Proof.Machine.execLctlTrunc die cmd s
  | .lctlMap1 die cmd => Sys2Proof.Machine.execLctlMap1 die cmd s
  | .lctlUnmap1 die cmd => Sys2Proof.Machine.execLctlUnmap1 die cmd s
  | .lctlMap2 die cmd => Sys2Proof.Machine.execLctlMap2 die cmd s
  | .lctlPool die cmd => Sys2Proof.Machine.execLctlPool die cmd s
  | .lctlSettier die cmd => Sys2Proof.Machine.execLctlSettier die cmd s
  | .lctlPfmode die cmd => Sys2Proof.Machine.execLctlPfmode die cmd s
  | .lanternPrefetchHint die cmd => Sys2Proof.Machine.execLanternPrefetchHint die cmd s
  | .remoteWriteAck slot op => Sys2Proof.Machine.execRemoteWriteAck slot op s
  | .remoteWriteTimeout slot op => Sys2Proof.Machine.execRemoteWriteTimeout slot op s
  | .gateCommit core => Sys2Proof.Machine.execGateCommit core s
  | .wakeMessage core => Sys2Proof.Machine.execWakeMessage core s
  | .coreUngate core => Sys2Proof.Machine.execCoreUngate core s
  | .dbell ten queue v => Sys2Proof.Machine.execDbell ten queue v s
  | .replay ten v => Sys2Proof.Machine.execReplay ten v s
  | .frcons ten v => Sys2Proof.Machine.execFrcons ten v s
  | .trcons ten v => Sys2Proof.Machine.execTrcons ten v s
  | .nrcons ten v => Sys2Proof.Machine.execNrcons ten v s
  | .controlRegisterWrite reg v => Sys2Proof.Machine.execControlRegisterWrite reg v s
  | .launch ten queue => Sys2Proof.Machine.execLaunch ten queue s
  | .load ten queue => Sys2Proof.Machine.execLoad ten queue s
  | .unload ten queue => Sys2Proof.Machine.execUnload ten queue s
  | .preempt ten queue => Sys2Proof.Machine.execPreempt ten queue s
  | .contextSave wg => Sys2Proof.Machine.execContextSave wg s
  | .resume ten queue => Sys2Proof.Machine.execResume ten queue s
  | .signal ten queue => Sys2Proof.Machine.execSignal ten queue s
  | .barrier ten queue => Sys2Proof.Machine.execBarrier ten queue s
  | .trapres ten queue => Sys2Proof.Machine.execTrapres ten queue s
  | .kill ten queue => Sys2Proof.Machine.execKill ten queue s
  | .cask ten queue => Sys2Proof.Machine.execCask ten queue s
  | .migrate ten queue => Sys2Proof.Machine.execMigrate ten queue s
  | .migrationCopy mig => Sys2Proof.Machine.execMigrationCopy mig s
  | .inval ten queue => Sys2Proof.Machine.execInval ten queue s
  | .tencfg ten queue => Sys2Proof.Machine.execTencfg ten queue s
  | .tenancyCreate cfg => Sys2Proof.Machine.execTenancyCreate cfg s
  | .tenancyReset ten => Sys2Proof.Machine.execTenancyReset ten s
  | .frameAssign kind frame ten => Sys2Proof.Machine.execFrameAssign kind frame ten s
  | .coreSetJoin core ten => Sys2Proof.Machine.execCoreSetJoin core ten s
  | .keySlotLoad slot ten gen => Sys2Proof.Machine.execKeySlotLoad slot ten gen s
  | .hostCxlMemAccess acc => Sys2Proof.Machine.execHostCxlMemAccess acc s
  | .packageReset => Sys2Proof.Machine.execPackageReset s
  | .levelAdvance => Sys2Proof.Machine.execLevelAdvance s
  | .uncorrectableSoftError loc len => Sys2Proof.Machine.execUncorrectableSoftError loc len s
  | .droopEventExpiry core => Sys2Proof.Machine.execDroopEventExpiry core s
  | .homeNodeRemoteRequest req => Sys2Proof.Machine.execHomeNodeRemoteRequest req s
  | .remoteBlockFetch who die global => Sys2Proof.Machine.execRemoteBlockFetch who die global s

end Sys2Proof.Machine
end

