-- ==== Sys2Proof/Machine/Schedule.lean ====
section
/-! DEFINITION. What the machine does next: inputs and events that are due, then the quadrant schedulers, then time (R25 to R30, R83, R86,
R138, R231, R234, R249, R258, R321, R385, entry 1). -/

namespace Sys2Proof.Machine

/-! Events that come about inside the package (entry 1). -/

/-- An event that is due. -/
inductive Due where
  | writeback (slot seq : Nat)
  | heading (slot seq : Nat)
  | access (slot op : Nat)
  | result (slot op : Nat)
  | compare (slot op : Nat)
  | matrix (slot op : Nat)
  | rerun (slot op : Nat)
  | ack (slot op : Nat)
  | timeout (slot op : Nat)
  | combine (red : Nat)
  | grant (quad : Nat)
  | surrender (slot : Nat)
  | spawn (core : Nat)
  | rejoin (slot : Nat)
  | retire (slot : Nat)
  | deferred (slot : Nat)
  | bkpt (slot : Nat)
  | starve (slot split : Nat)
  | batch (slot : Nat) (cls : EngineClass)
  | refill (cask : Nat)
  | serve (cask : Nat)
  | release (core : Nat)
  | kiln (core : Nat) (job : KilnJob)
  | lantern (die cmd op : Nat)
  | fill (die : Nat)
  | droop (core : Nat)
  | gate (core : Nat)
  | ungate (core : Nat)
  | save (wg : Nat)
  | migrate (mig : Nat)
  | packet (kd : PacketKind) (ten queue : Nat)
  | place (n : Nat)
  | reset (ten : Nat)
deriving DecidableEq, Repr

/-- The event of an executing Kiln command. -/
def runKilnDue (core : Nat) (job : KilnJob) (s : State) : Host.Outcome State Fault Refusal :=
  match job with
  | .expand _ _ => execKilnExpand core s
  | .pack _ => execKilnPack core s
  | .lattice _ _ => execLatticeLoad core s

/-- The event of an executing Lantern command: 0 append, 1 query, 2 hint, 16 + n the control operation n, 24 UNMAP1
(R219, R224). -/
def runLanternDue (die cmd op : Nat) (s : State) : Host.Outcome State Fault Refusal :=
  match op with
  | 0 => execLanternAppend die cmd s
  | 1 => execLanternQuery die cmd s
  | 2 => execLanternPrefetchHint die cmd s
  | 16 => execLctlCreate die cmd s
  | 17 => execLctlFree die cmd s
  | 18 => execLctlTrunc die cmd s
  | 19 => execLctlMap1 die cmd s
  | 20 => execLctlMap2 die cmd s
  | 21 => execLctlPool die cmd s
  | 22 => execLctlSettier die cmd s
  | 23 => execLctlPfmode die cmd s
  | _ => execLctlUnmap1 die cmd s

/-- The event made. -/
def runDue (e : Due) (s : State) : Host.Outcome State Fault Refusal :=
  match e with
  | .writeback k n => execShortLatencyWriteback k n s
  | .heading k n => execHeadingCommit k n s
  | .access k o => execMemoryAccessComplete k o s
  | .result k o => execSfuComplete k o s
  | .compare k o => execChecksumCompare k o false s
  | .matrix k o => execMmaResult k o s
  | .rerun k o => execChecksumRerunResult k o false s
  | .ack k o => execRemoteWriteAck k o s
  | .timeout k o => execRemoteWriteTimeout k o s
  | .combine r => execCombinerApply r s
  | .grant q => execClaimGrant q s
  | .surrender k => execSurrReturn k s
  | .spawn c => execIterationSpawn c s
  | .rejoin k => .next (rejoinWg s [k])
  | .retire k => execWarpRetire k s
  | .deferred k => execDeferredTrap k s
  | .bkpt k => execBkptDelivery k s
  | .starve k j => execStarvationPriority k j s
  | .batch k c => execBatchComplete k c s
  | .refill c => execCaskRefill c s
  | .serve c => .next (serveAll s c)
  | .release c => execCounterReleaseDeferred c s
  | .kiln c j => runKilnDue c j s
  | .lantern d c o => runLanternDue d c o s
  | .fill d => execStagingFill d s
  | .droop c => execDroopEventExpiry c s
  | .gate c => execGateCommit c s
  | .ungate c => execCoreUngate c s
  | .save g => execContextSave g s
  | .migrate m => execMigrationCopy m s
  | .packet kd t q => execPacket kd t q s
  | .place n => execWorkgroupPlacement n s
  | .reset t => execTenancyReset t s

/-- The workgroup of the warp is being drained (R234). -/
def drainingWarp (s : State) (w : Warp) : Bool :=
  match wgAt s w.wg with
  | some g => g.draining
  | none => false

/-- A short-latency result whose cycle has come (R51). -/
def duePend (now k : Nat) (w : Warp) : Option Due :=
  (w.pend.find? fun p => decide (p.due ≤ now)).map fun p => if p.dest.heading then .heading k p.seq else .writeback k p.seq

/-- A matrix step whose cycle has come (R185, R186). The comparison of cycle t + 20 comes after the words that issue in it. -/
def dueMatrix (now k : Nat) (o : Op) (m : MatrixOp) : Option Due :=
  if !m.compared then (if m.start + 21 ≤ now then some (.compare k o.id) else none)
  else if m.rerun then (if m.start + 48 ≤ now then some (.rerun k o.id) else none)
  else if m.start + 24 ≤ now then some (.matrix k o.id)
  else none

/-- A step of an outstanding operation that can be made. -/
def dueOp (s : State) (k : Nat) (w : Warp) : Option Due :=
  w.ops.findSome? fun o =>
    match o.kind with
    | .matrix m => dueMatrix s.now k o m
    | .write _ _ => if o.due ≤ s.now then some (.result k o.id) else none
    | .retry => none
    | _ => if decide (o.due ≤ s.now) && opReady s w o then some (.access k o.id) else none

/-- A live split that has just starved (R27). -/
def dueStarve (now k : Nat) (w : Warp) : Option Due :=
  (w.splits.find? fun e => !e.2.starving && decide (e.2.lastIssue + 64 ≤ now)).map fun e => .starve k e.1

/-- What is due in one warp. -/
def dueWarp (s : State) (k : Nat) (w : Warp) : Option Due :=
  (duePend s.now k w).orElse fun _ => (dueOp s k w).orElse fun _ =>
    if !(surrsReady s k w).isEmpty then some (.surrender k)
    else if rejoinDue s k w then some (.rejoin k)
    else
      match (if drainingWarp s w then none else waitbReady w) with
      | some (c, _) => some (.batch k c)
      | none =>
        if (deferredNext w).isSome && !drainingWarp s w && running s (coreOfSlot k) then some (.deferred k)
        else if bkptReady w then some (.bkpt k)
        else if exitReady w && (w.deferred.isEmpty || wgKilled s w) then some (.retire k)
        else dueStarve s.now k w

/-- A remote write whose acknowledgement or limit has come (R161). -/
def dueRemote (s : State) : Option Due :=
  s.remotes.findSome? fun r =>
    if r.sent + remoteLimit s ≤ s.now then some (.timeout r.slot r.op)
    else if r.due ≤ s.now then some (.ack r.slot r.op)
    else none

/-- A reduction to apply, or whose gated slice must be woken (R160, R258). -/
def dueCombine (s : State) : Option Due :=
  s.reds.findSome? fun r =>
    let gated := decide (spaceOf r.xl.loc = 0) && !running s (r.xl.loc / Config.sliceBytes)
    if decide (r.due ≤ s.now) && firstAt s.reds r
        && (!gated || (coreAt s (r.xl.loc / Config.sliceBytes)).wakeAt.isNone) then some (.combine r.id)
    else none

/-- What is due in one core. -/
def dueCore (s : State) (c : Nat) : Option Due :=
  match (List.range 4).find? fun q => claimReady s c q with
  | some q => some (.grant (4 * c + q))
  | none =>
    match (coreAt s c).brew with
    | some b =>
      if spawnRoom s c b && (!b.requested || spawnGranted s c b) then some (.spawn c) else dueUnits s c
    | none => dueUnits s c
where
  /-- The units of a core beside its quadrants. -/
  dueUnits (s : State) (c : Nat) : Option Due :=
    match nextKiln s c with
    | some k => some (.kiln c k.job)
    | none =>
      match releaseDue s c with
      | some r => if running s (r.cask / 4) || (coreAt s (r.cask / 4)).wakeAt.isNone then some (.release c) else dueTimes s c
      | none => dueTimes s c
  /-- Its times. -/
  dueTimes (s : State) (c : Nat) : Option Due :=
    if droopDue s c then some (.droop c)
    else if ungateDue s c then some (.ungate c)
    else none

/-- A core to be gated (R258). -/
def dueGate (s : State) : Option Due := ((List.range Config.cores).find? fun c => gateDue s c).map fun c => .gate c

/-- The step of a Lantern command, as `runLanternDue` numbers it. -/
def lanternCode (c : LanternCmd) : Nat :=
  match c.op with
  | .append => 0
  | .query => 1
  | .hint => 2
  | .control => if recOp c.record = 3 ∧ field c.record 1 1 = 1 then 24 else 16 + recOp c.record

/-- What is due at the Lantern dies (R219, R226). -/
def dueLantern (s : State) : Option Due :=
  (List.range s.lanterns.length).findSome? fun d =>
    match (dieAt s d).cmds.find? fun c => cmdReady s d c with
    | some c => some (.lantern d c.id (lanternCode c))
    | none => if fillDue s d then some (.fill d) else none

/-- No scalar word has issued in this cycle: every push of the cycle before has been made, and none of this one. -/
def calm (s : State) : Bool := s.cores.all fun e => e.2.quads.all fun q => decide (q.scalarAt ≠ some s.now)

/-- A cask to be refilled, or on which a parked warp can go on: after the pushes of a cycle (R29, R213, R214). -/
def dueCask (s : State) : Option Due :=
  match s.casks.find? fun e => refillDue e.2 && (refillSlices s e.1).all (coreWakes s) with
  | some e => some (.refill e.1)
  | none => if calm s then (s.casks.find? fun e => (firstOnCask s e.1).isSome).map fun e => .serve e.1 else none

/-- The priority of what waits for the distributor (R249). -/
def waitPrio (s : State) (n : Nat) : Nat :=
  match tget s.launches n with
  | some l => prioOf s l.ten l.queue
  | none =>
    match s.ctxs.find? fun x => decide (x.gid = n) with
    | none => 4
    | some x =>
      match tget s.launches x.wg.launch with
      | some l => prioOf s l.ten l.queue
      | none => 4

/-- What the distributor places next: by priority, then in the order of arrival (R21, R249). -/
def duePlace (s : State) : Option Due :=
  (((s.ctxs.filter fun x => x.waiting).map fun x => x.gid) ++ s.launches.map fun l => l.1).foldl (fun (r : Option Nat) n =>
    if placeable s n then (match r with
      | none => some n
      | some m => if waitPrio s n < waitPrio s m then some n else r)
    else r) none |>.map fun n => .place n

/-- THE FIRST EVENT THAT IS DUE. -/
def dueEvent (s : State) : Option Due :=
  (s.warps.findSome? fun e => dueWarp s e.1 e.2).orElse fun _ =>
  (dueRemote s).orElse fun _ =>
  (dueCombine s).orElse fun _ =>
  (s.cores.findSome? fun e => dueCore s e.1).orElse fun _ =>
  (dueLantern s).orElse fun _ =>
  (dueCask s).orElse fun _ =>
  ((resetReady s).map .reset).orElse fun _ =>
  ((s.preempts.find? fun p => decide (nextSave s.preempts p.wg = some p) && saveReady s p).map fun p => .save p.wg).orElse fun _ =>
  ((s.migs.find? fun m => !m.2.inFlight s).map fun m => .migrate m.1).orElse fun _ =>
  (duePlace s).orElse fun _ =>
  ((nextQueue s).bind fun q => (headOf s q.1 q.2).map fun h => .packet (packetKind h.2) q.1 q.2).orElse fun _ =>
  dueGate s

/-! The quadrant schedulers (R25 to R30, R83, R385). -/

/-- The word takes the vector slot (R25, R78). -/
def vectorSlot (w : Word) : Bool :=
  let c := (w.extractLsb' 30 2).toNat
  if c = 0 then decide ((w.extractLsb' 21 9).toNat < 0xA0) || decide ((w.extractLsb' 21 9).toNat = 0xC0)
  else if c = 1 then true
  else if c = 2 then decide ((w.extractLsb' 22 8).toNat = 0x28) || decide ((w.extractLsb' 22 8).toNat = 0x29)
  else false

/-- Passes of a quadrant from this cycle on. -/
def bookedFrom (s : State) (k : Nat) : List Pass :=
  (quadAt s (coreOfSlot k) (quadOfSlot k)).passes.filter fun p => decide (s.now ≤ p.cycle)

/-- The split is not parked, or waits for what is looked at again each cycle. -/
def parkRetries : Park → Bool
  | .running => true
  | .presence => true
  | .fence _ => true
  | _ => false

/-- No warp that waits for the same phase of a barrier comes before this one: a second arrival keeps its place until it has entered the
phase (R30, R261). -/
def firstParked (s : State) (w : Warp) : Bool :=
  s.warps.all fun e => decide (e.2.wg ≠ w.wg) || decide (e.2.park ≠ w.park) || decide (w.parkOrder ≤ e.2.parkOrder)

/-- The issue spacing of the clause has elapsed (R27, R46). -/
def spaced (now : Nat) (sp : Split) : Bool :=
  match sp.clause, sp.lastPass with
  | some cl, some t => decide (t + (cl.word.extractLsb' 6 2).toNat + 1 ≤ now)
  | _, _ => true

/-- A breakpoint has stopped the warp: its splits issue nothing, unless another split's handler runs (R231, R237). -/
def bkptHolds (w : Warp) : Bool := w.bkpt.any fun b => !w.handled b.1

/-- The split's next word is one that holds its flag to be made again: an operation that goes on whatever stops its split from issuing
others (R165, R231, R237, R282). -/
def madeAgain (w : Warp) (j : Nat) : Bool := w.ops.any fun o => o.retries j

/-- Nothing else in its warp stops the split: no breakpoint, no handler of another split, no exclusive group without it, and no EXIT but
while its own handler runs (R86, R231, R237, R282). -/
def unheld (w : Warp) (j : Nat) (sp : Split) : Bool :=
  !bkptHolds w && !w.handled j && decide (sp.group = w.groups.length) && (!sp.stopped || decide (w.handler = some j))

/-- Nothing but its warp's own park, the time and the slot keeps the split from issuing (R27, R86, R138, R231, R234, R237, R258). -/
def unblocked (s : State) (cx : Cx) : Bool :=
  parkRetries cx.sp.park && !cx.g.draining && (madeAgain cx.w cx.j || unheld cx.w cx.j cx.sp) && running s (coreOfSlot cx.k)
    && !(cx.w.ops.any fun o => o.blocks && decide (o.split = cx.j)) && !cx.w.faultBefore cx.j

/-- The next word of a split: the one it holds, or what its fetch would read (R198). -/
def peekWord (s : State) (cx : Cx) : Except Stop Word :=
  match nextWord s cx with
  | .ok (w, _) => .ok w
  | .error e => .error e

/-- What the split does next: it starts its clause, or its next word is executed. None where the fetch of that word parks it. -/
def nextInstr (s : State) (cx : Cx) : Option Instr :=
  if cx.sp.clause.isNone then some .clauseStart
  else
    match peekWord s cx with
    | .ok w => some (decodeWord w)
    | .error _ => none

/-- The state after what the split does next, were it to do so now. -/
def trialOf (s : State) (cx : Cx) : Option State :=
  match (nextInstr s cx).map fun i => exec i { s with cur := some (cx.k, cx.j) } with
  | some (.next t) => some t
  | _ => none

/-- The split in whose word its warp is parked on a keg. -/
def kegParked (s : State) (k : Nat) (w : Warp) : Option Cx :=
  match w.park with
  | some (.keg _) => cxAt s k w.parkSplit
  | _ => none

/-- The warps of a workgroup that are parked on its kegs, in the order in which they parked (R30). -/
def kegQueue (s : State) (gid : Nat) : List Cx :=
  ((s.warps.filter fun e => decide (e.2.wg = gid)).filterMap fun e => kegParked s e.1 e.2).foldl (fun l cx =>
    l.takeWhile (fun x => decide (x.w.parkOrder ≤ cx.w.parkOrder)) ++ cx :: l.dropWhile fun x => decide (x.w.parkOrder ≤ cx.w.parkOrder)) []

/-- Those of them that can proceed, each after the entries and places that the ones before it take: a warp that can not, or that waits for
a replay, holds none back (R30). -/
def wokenOnKegs (s : State) (gid : Nat) : List Cx → List Nat
  | [] => []
  | cx :: r =>
    match (if unblocked s cx then trialOf s cx else none) with
    | none => wokenOnKegs s gid r
    | some t =>
      if ((warpAt t cx.k).bind fun w => kegParked t cx.k w).isSome then wokenOnKegs s gid r
      else
        cx.k :: wokenOnKegs (match wgAt t gid with
          | some g => setWg s gid g
          | none => s) gid r

/-- A word has issued in this cycle in a quadrant of the core after that of slot `k`: what the kegs of a workgroup have seen in the cycle
comes after the words of this quadrant (R38). -/
def turnOver (s : State) (k : Nat) : Bool :=
  (List.range 4).any fun q =>
    let x := quadAt s (coreOfSlot k) q
    decide (quadOfSlot k < q) && (decide (x.scalarAt = some s.now) || x.passes.any fun p => decide (p.first = s.now))

/-- A parked warp may make its word again (R29, R30). One parked on a keg is woken when it can proceed: those that can are woken in the order
in which they parked, and the words of a cycle act on the kegs in ascending quadrant order (R30, R38; DEDUCED, entry 59). -/
def warpRetries (s : State) (cx : Cx) : Bool :=
  match cx.w.park with
  | none => true
  | some (.keg _) =>
    decide (cx.w.parkSplit = cx.j) && !turnOver s cx.k && (wokenOnKegs s cx.w.wg (kegQueue s cx.w.wg)).contains cx.k
  | some (.arrival b ph) => decide (cx.w.parkSplit = cx.j) && decide ((barrierAt cx.g b).phase ≠ ph) && firstParked s cx.w
  | some .wake => decide (cx.w.parkSplit = cx.j) && cx.w.waking
  | some .exiting => decide (cx.w.parkSplit ≠ cx.j)
  | some _ => false

/-- THE SPLIT MAY ISSUE, but for its slot (R27, R28). -/
def mayIssue (s : State) (cx : Cx) : Bool :=
  decide (cx.sp.wakeAt ≤ s.now) && decide (cx.sp.lastIssue ≠ s.now) && spaced s.now cx.sp && unblocked s cx && warpRetries s cx

/-- A pass of the split's last vector word is still to come: only its next scalar word has a free slot (R26, R27). -/
def midWord (s : State) (cx : Cx) : Bool := (bookedFrom s cx.k).any fun p => decide (p.slot = cx.k) && decide (p.split = cx.j)

/-- The splits that may issue. -/
def readySplits (s : State) : List Cx :=
  s.warps.flatMap fun e => e.2.splits.filterMap fun x =>
    match cxAt s e.1 x.1 with
    | some cx => if mayIssue s cx then some cx else none
    | none => none

/-- The split issued in the cycle before (R27). -/
def issuedBefore (s : State) (cx : Cx) : Bool :=
  !cx.sp.unissued && (decide (cx.sp.lastIssue + 1 = s.now)
    || (quadAt s (coreOfSlot cx.k) (quadOfSlot cx.k)).passes.any fun p =>
      decide (p.cycle + 1 = s.now) && decide (p.slot = cx.k) && decide (p.split = cx.j))

/-- The rank of a split: 0 starving, 1 the one that issued last, 2 the others, 3 one that yielded (R27, R385). -/
def rankOf (s : State) (cx : Cx) : Nat :=
  if cx.sp.starving then 0
  else if cx.sp.yielded && decide (cx.sp.lastIssue + 1 = s.now) then 3
  else if issuedBefore s cx then 1
  else 2

/-- The order of two splits: rank, then spawn order, then slot, then split index (R27). DEDUCED (entry 53): R27's order stands where splits
of older warps that starve take the vector slot in every cycle, though R28 promises a younger warp that it issues in the end. -/
def before (s : State) (a b : Cx) : Bool :=
  let x := [rankOf s a, a.w.born, a.k, a.j]
  let y := [rankOf s b, b.w.born, b.k, b.j]
  decide (x < y)

/-- The first of a list of splits (R27). -/
def bestSplit (s : State) : List Cx → Option Cx
  | [] => none
  | c :: r => some (r.foldl (fun b x => if before s x b then x else b) c)

/-- How a second split's passes stand to those booked (R83). -/
inductive Pairing where
  | fits | overlap | conflict
deriving DecidableEq, Repr

/-- The new passes beside the booked ones (R83). DESIGN CHOICE (entry 53): a word that overlaps in one cycle and conflicts in another does not
pair, and neither split loses. -/
def pairing (old new : List Pass) : Pairing :=
  let meet := new.flatMap fun p => (old.filter fun o => decide (o.cycle = p.cycle)).map fun o => (o, p)
  if meet.any fun e => decide (e.1.word &&& e.2.word ≠ 0) then .overlap
  else if (new.any fun p => decide (1 < (old.filter fun o => decide (o.cycle = p.cycle)).length))
      || (meet.any fun e => e.1.solo || e.2.solo) then .overlap
  else if meet.any fun e => (e.1.banks.any fun b => e.2.banks.contains b) || (e.1.port.isSome && decide (e.1.port = e.2.port)) then
    .conflict
  else .fits

/-- The passes a word would book, were it to issue now. -/
def trialPasses (s : State) (cx : Cx) (w : Word) : List Pass :=
  match exec (decodeWord w) { s with cur := some (cx.k, cx.j) } with
  | .next s' => (bookedFrom s' cx.k).filter fun p => decide (p.slot = cx.k) && decide (p.split = cx.j)
  | _ => []

/-- What a quadrant's vector slot does with a split (R25, R83). -/
def vectorRoom (s : State) (cx : Cx) (w : Word) : Pairing :=
  match bookedFrom s cx.k with
  | [] => .fits
  | old =>
    if old.all fun p => decide (p.slot = cx.k) && !p.solo then pairing old (trialPasses s cx w)
    else .overlap

/-- What the schedulers decide. -/
inductive Choice where
  /-- The word of the split issues, or its clause starts. -/
  | issue (k j : Nat)
  /-- The split loses a pairing (R83). -/
  | lose (k j : Nat)
  /-- A split that an EXIT has stopped has nothing left to issue: it leaves (R282). -/
  | leave (k j : Nat)
deriving DecidableEq, Repr

/-- The choice is about this split. -/
def Choice.of (c : Choice) (cx : Cx) : Bool :=
  match c with
  | .issue k j => decide ((k, j) = (cx.k, cx.j))
  | .lose k j => decide ((k, j) = (cx.k, cx.j))
  | .leave k j => decide ((k, j) = (cx.k, cx.j))

/-- The split that the choice is about issues. -/
def Choice.issues (c : Choice) : Bool :=
  match c with
  | .issue _ _ => true
  | _ => false

/-- The quadrant of a split. -/
def Cx.quad (s : State) (cx : Cx) : Quad := quadAt s (coreOfSlot cx.k) (quadOfSlot cx.k)

/-- A split whose next word takes the slot asked for: those whose fetch goes wrong are met by the vector slot. -/
def wants (s : State) (vec : Bool) (cx : Cx) : Bool :=
  match peekWord s cx with
  | .ok w => decide (vectorSlot w = vec) && !(vec && midWord s cx)
  | .error _ => vec && !midWord s cx

/-- How the split's next word stands to the vector passes booked. -/
def passRoom (s : State) (cx : Cx) : Pairing :=
  match peekWord s cx with
  | .ok w => vectorRoom s cx w
  | .error _ => .fits

/-- The split's next word takes the vector slot, and its slot is free (R27, R83). What issues in the cycle of a scalar word has been
chosen before it (R321). -/
def fitsVector (s : State) (cx : Cx) : Bool :=
  wants s true cx && decide (passRoom s cx ≠ .overlap) && decide ((cx.quad s).scalarAt ≠ some s.now)

/-- The split's next word takes the scalar slot, and that is free (R25, R27). -/
def fitsScalar (s : State) (cx : Cx) : Bool := wants s false cx && decide ((cx.quad s).scalarAt ≠ some s.now)

/-- A word of the quadrant has issued in this cycle. -/
def issuedNow (s : State) (cx : Cx) : Bool :=
  decide ((cx.quad s).scalarAt = some s.now) || (cx.quad s).passes.any fun p => decide (p.first = s.now)

/-- A split that yielded in the cycle before gives way to every other ready split of its quadrant, `cs`, whichever slot that one
takes (R385). -/
def yieldsTo (s : State) (cs : List Cx) (cx : Cx) : Bool :=
  cx.sp.yielded && decide (cx.sp.lastIssue + 1 = s.now) && !cx.sp.starving
    && (issuedNow s cx || cs.any fun x => decide ((x.k, x.j) ≠ (cx.k, cx.j)) && (fitsVector s x || fitsScalar s x))

/-- Two splits of one warp whose next vector words need one bank or port in one cycle (R83). -/
def conflicts (s : State) (a b : Cx) : Bool :=
  match peekWord s a, peekWord s b with
  | .ok x, .ok y => decide (pairing (trialPasses s a x) (trialPasses s b y) = .conflict)
  | _, _ => false

/-- Of the split `c`, chosen for an empty vector slot, and the splits of its warp refused a pairing with it, the one that issues: one
that has lost twice, or else the one with the lowest index (R83). -/
def pairWinner (s : State) (cs : List Cx) (c : Cx) : Cx :=
  if 2 ≤ c.sp.losses then c
  else
    let xs := cs.filter fun x => decide (x.k = c.k) && decide (x.j ≠ c.j) && conflicts s c x
    match xs.find? fun x => decide (2 ≤ x.sp.losses) with
    | some x => x
    | none => (xs.find? fun x => decide (x.j < c.j)).getD c

/-- A split that would pair with a word of its warp still in its passes holds back when a split of another warp has starved for the
vector slot: so that one finds it free in the end (R27, R28; DEDUCED, entry 47). -/
def pairingHeld (s : State) (cs : List Cx) (c : Cx) : Bool :=
  !(bookedFrom s c.k).isEmpty && cs.any fun x => decide (x.k ≠ c.k) && x.sp.starving && wants s true x

/-- The vector slot's choice among the ready splits of its quadrant (R27, R83). -/
def chooseVector (s : State) (cs : List Cx) : Option Choice :=
  let fit := cs.filter fun c => fitsVector s c && !yieldsTo s cs c && !pairingHeld s cs c
  match bestSplit s fit with
  | none => none
  | some c =>
    let c := if (bookedFrom s c.k).isEmpty then pairWinner s fit c else c
    some (if passRoom s c = .conflict then .lose c.k c.j else .issue c.k c.j)

/-- The scalar slot's choice (R25, R27). -/
def chooseScalar (s : State) (cs : List Cx) : Option Choice :=
  (bestSplit s (cs.filter fun c => fitsScalar s c && !yieldsTo s cs c)).map fun c => .issue c.k c.j

/-- What the split does next traps, in a warp that is in no handler. -/
def trapsNow (s : State) (cx : Cx) : Bool :=
  cx.w.handler.isNone && (match nextInstr s cx, peekWord s cx with
    | none, .error (.trapHere _) => true
    | none, _ => false
    | some _, _ =>
      match (trialOf s cx).bind fun t => warpAt t cx.k with
      | some x => x.handler.isSome || x.onRing
      | none => false)

/-- What a quadrant issues next: clauses start first, then the vector slot, then the scalar slot (R25, R45, R321). -/
def nextOfQuad (s : State) (cs : List Cx) : Option Choice :=
  match cs.find? fun x => x.sp.clause.isNone with
  | some x => some (.issue x.k x.j)
  | none => (chooseVector s cs).orElse fun _ => chooseScalar s cs

/-- The slots of its quadrant as the split leaves them that issues now, and nothing else of what it does. -/
def slotsAfter (s : State) (cx : Cx) : State :=
  match trialOf s cx with
  | none => s
  | some t =>
    let q := quadAt t (coreOfSlot cx.k) (quadOfSlot cx.k)
    setQuad s (coreOfSlot cx.k) (quadOfSlot cx.k) { cx.quad s with passes := q.passes, scalarAt := q.scalarAt }

/-- A split of slot `k` below `j` whose word issues in this same cycle, beside those already chosen, and traps too. -/
def trapsBeside (s : State) (k j : Nat) : Nat → List Cx → Option Choice
  | 0, _ => none
  | n + 1, cs =>
    match nextOfQuad s cs with
    | none => none
    | some c =>
      let rest := cs.filter fun x => !c.of x
      match cs.find? fun x => c.of x && c.issues with
      | none => trapsBeside s k j n rest
      | some x => if x.k = k ∧ x.j < j ∧ trapsNow s x then some c else trapsBeside (slotsAfter s x) k j n rest

/-- Of two splits of a warp that trap in one cycle the one with the lower index is delivered (R231): the one that comes before
split `j` of slot `k`, if any. -/
def lowerTrap (s : State) (cs : List Cx) (k j : Nat) : Option Choice :=
  match cs.find? fun x => decide (x.k = k) && decide (x.j = j) with
  | none => none
  | some c =>
    if !(cs.any fun x => decide (x.k = k) && decide (x.j < j)) || !trapsNow s c then none
    else trapsBeside (slotsAfter s c) k j cs.length (cs.filter fun x => decide ((x.k, x.j) ≠ (k, j)))

/-- A quadrant's choice (R25, R45, R231, R321). -/
def chooseQuad (s : State) (cs : List Cx) : Option Choice :=
  match nextOfQuad s cs with
  | some (.issue k j) => (lowerTrap s cs k j).orElse fun _ => some (.issue k j)
  | c => c

/-- The quadrants that hold ready splits, ascending (R38). -/
def quadsOf (cs : List Cx) : List Nat := ((cs.map fun c => c.k / 16).eraseDups)

/-- The word chosen is a QPOP or QTRY, which comes after the pushes of its cycle (R214). -/
def popChoice (s : State) : Choice → Bool
  | .lose _ _ => false
  | .leave _ _ => false
  | .issue k j =>
    match (cxAt s k j).map (peekWord s) with
    | some (.ok w) => decide ((w.extractLsb' 22 10).toNat = 0x271) || decide ((w.extractLsb' 22 10).toNat = 0x272)
    | _ => false

/-- A split that an EXIT has stopped, with no word to be made again and in no handler, of a warp that an interrupted EXIT has left
running (R282). -/
def stoppedSplit (s : State) : Option Choice :=
  s.warps.findSome? fun e =>
    if e.2.park = some .exiting then none
    else (e.2.splits.find? fun x => x.2.stopped && decide (x.2.park = .running) && decide (e.2.handler ≠ some x.1)
        && !madeAgain e.2 x.1 && !(e.2.deferred.any fun d => decide (d.split = x.1)) && othersLive e.2 x.1).map fun x => .leave e.1 x.1

/-- THE SCHEDULERS' CHOICE, quadrant by quadrant, pops of casks last (R27, R38, R214). -/
def nextChoice (s : State) : Option Choice :=
  (stoppedSplit s).orElse fun _ =>
  let cs := readySplits s
  let qs := (quadsOf cs).filterMap fun q => chooseQuad s (cs.filter fun c => decide (c.k / 16 = q))
  (qs.find? fun c => !popChoice s c).orElse fun _ => qs.head?

/-! One step. -/

/-- What the next step is. -/
inductive Action where
  /-- The first input of the environment. -/
  | input
  | due (e : Due)
  | choice (c : Choice)
  | tick
deriving DecidableEq, Repr

/-- The environment's next event has come. -/
def inputDue (s : State) : Bool :=
  match s.inputs with
  | [] => false
  | e :: _ => decide (e.1 ≤ s.now)

/-- The next action: inputs, then events, then the schedulers, then time. -/
def nextAction (s : State) : Action :=
  if inputDue s then .input
  else
    match dueEvent s with
    | some e => .due e
    | none =>
      match nextChoice s with
      | some c => .choice c
      | none => .tick

/-- The word of split `j` of slot `k` is fetched, decoded and executed, or its clause starts (R26, R45, R138). -/
def issueWord (k j : Nat) (s : State) : Host.Outcome State Fault Refusal :=
  let s := { s with cur := some (k, j) }
  match focus s with
  | none => .next s
  | some cx =>
    if cx.sp.clause.isNone then exec .clauseStart s
    else
      match nextWord s cx with
      | .error e => finishStop s (unpark s cx) cx 0 e
      | .ok (w, s) => exec (decodeWord w) s

/-- A decision of the schedulers carried out. -/
def runChoice (c : Choice) (s : State) : Host.Outcome State Fault Refusal :=
  match c with
  | .issue k j => issueWord k j s
  | .lose k j => .next (updSplit s k j fun sp => { sp with losses := sp.losses + 1, wakeAt := s.now + 1 })
  | .leave k j => .next (rejoinAll (dropSplit s k j) k)

/-- The first input executed. -/
def runInput (s : State) : Host.Outcome State Fault Refusal :=
  match s.inputs with
  | [] => .next s
  | e :: r => exec e.2 { s with inputs := r }

/-- An action carried out. -/
def runAction (a : Action) (s : State) : Host.Outcome State Fault Refusal :=
  match a with
  | .input => runInput s
  | .due e => runDue e s
  | .choice c => runChoice c s
  | .tick => .next (tick s)

end Sys2Proof.Machine
end

