-- ==== Sys2Proof/Machine/Step.lean ====
section
/-! DEFINITION. One step of the package, and a state in which the next step issues a given word (entry 21). -/

namespace Sys2Proof.Machine

/-- ONE STEP: the next action, carried out (entry 1). -/
def step (s : State) : Host.Outcome State Fault Refusal := runAction (nextAction s) s

/-- The leaf that maps the placed address space: its first GiB, readable, writable and executable, accessed and dirty, to
compute HBM from 1 GiB on (R133, R134). -/
def placedLeaf : DWord := BitVec.ofNat 64 (2 ^ 18 * 2 ^ 24 + 0xDF)

/-- The translation of the placed code (R133 to R136): the descriptor of ASID 0, its L4 table with one entry, and an L3
table whose first entry is the leaf. -/
def placeTables (m : List Host.Cell) (dt : Nat) : List Host.Cell :=
  let m := memWrite m (hbmLoc dt) (leBytes 8 0x100000 ++ leBytes 4 0 ++ leBytes 4 1 ++ leBytes 20 0)
  let m := memWrite m (hbmLoc 0x100000) (leBytes 8 (0x101 * 2 ^ 24 + 1))
  memWrite m (hbmLoc 0x101000) (leBytes 8 placedLeaf.toNat)

/-- The header of the placed clause: no wait, flags 0 and 1, `n` body words beside the first (R45). -/
def placedHeader (n : Nat) : Word := encodeHeader { wm := 0, sa := 0, sb := 1, sp := 0, len := BitVec.ofNat 6 n }

/-- The placed code: the header, the word and literals of zero. -/
def placedCode (w : Word) (n : Nat) : List Byte := bytesOfWord (placedHeader n) ++ bytesOfWord w ++ leBytes 16 0

/-- A record ring of the placed tenancy. -/
def placedRing (va : DWord) : Ring := { base := va, log := 4, asid := 0, prod := 0, cons := 0, waiting := [] }

/-- The placed tenancy: core 0 and ASID 0, no trap handlers (R240). -/
def placedTenancy : Tenancy :=
  { coreSet := [0], asids := [0], keys := [], tvb := 0, fseq := 0, tseq := 0, thresh := 0, fault := placedRing 0x2000
    trap := placedRing 0x3000, notif := placedRing 0x4000, queues := [], stopped := false, resetting := false }

/-- The placed workgroup: one warp with 10 blocks in slot 0 of core 0, 4 KiB of SRAM. -/
def placedWg : Workgroup :=
  { launch := 0, ten := 0, linear := 0, grid := 1, core := 0, asid := 0, sram := 0, sramBytes := 4096, n := 1, allot := 10
    brewSlots := 0, entry := 0x1000, block := 0x10000, ssz := 4096, slen := 2048
    kegs := List.replicate 8 Keg.empty, barriers := List.replicate 17 Barrier.empty
    quads := [[]], warps := [(0, 0)], slots := [0], freeBrew := [], relocatable := false, bound := false, draining := false
    killed := false }

/-- The placed split stands at the word after its header, the last instruction of its clause (R45, R49). -/
def placedSplit (now n : Nat) : Split :=
  { firstSplit now 0x1004 0 with
    clause := some { addr := 0x1000, word := placedHeader n, left := n + 1, held := [] }
    lastPass := none }

/-- The placed warp (R22). -/
def placedWarp (gid now n : Nat) : Warp :=
  { newWarp gid placedWg now 0 0 10 none (launchScalar placedWg 0) 0 0x1000 0 with splits := [(0, placedSplit now n)] }

/-- The placed core: its tenancy, the translation in its cache, and its first quadrant's pool less the warp's blocks. -/
def placedCore : Core :=
  { Core.empty with
    ten := some 0, idleSince := none
    tlb := [{ asid := 0, base := 0, log := 30, pte := placedLeaf, loc := hbmLoc 0x101000 }]
    quads := Core.empty.quads.set 0 { Quad.empty with pool := Config.poolBlocks - 10 } }

/-- THE STATE IN WHICH THE NEXT STEP ISSUES A WORD (entry 21). The package is at FULL; one warp of one workgroup is resident
and stands before the word, with all its lanes and every operand zero; no input, event or other warp comes first. -/
def State.withFetchWord (s : State) (nbits w : Nat) : State :=
  let x : Word := BitVec.ofNat 32 (w % 2 ^ nbits)
  let n := litCount (decodeWord x)
  { s with
    level := 2
    now := s.now + 1
    mem := memWrite (placeTables s.mem s.dtbase.toNat) (hbmLoc (2 ^ 30 + 0x1000)) (placedCode x n)
    poison := [], sectorKeys := []
    tenancies := [(0, placedTenancy)], cores := [(0, placedCore)], casks := []
    warps := [(0, placedWarp s.nextId s.now n)], wgs := [(s.nextId, placedWg)], launches := [], preempts := [], ctxs := [], migs := []
    lanterns := [LanternDie.empty, LanternDie.empty], reds := [], remotes := [], inputs := []
    cur := some (0, 0), nextId := s.nextId + 1 }

end Sys2Proof.Machine
end

