-- ==== Sys2Proof/Safety.lean ====
section
/-! DEFINITION. What counts as a safe run, in the terms claims use. -/

namespace Sys2Proof.Machine

/-- One step leads from `s` to `t`. -/
def StepsTo (s t : State) : Prop := step s = .next t

/-- `t` comes about from `s` by steps alone. -/
inductive Reaches : State → State → Prop where
  | refl (s : State) : Reaches s s
  | tail {s t u : State} : Reaches s t → StepsTo t u → Reaches s u

/-- The step goes on: it neither faults nor is refused. -/
def GoesOn (s : State) : Prop := ∃ t, StepsTo s t

/-- A run from `s` is safe: every state that it reaches goes on. -/
def SafeRun (s : State) : Prop := ∀ t, Reaches s t → GoesOn t

/-- Keys of a table rise strictly. -/
def tableWf {α : Type} : Table α → Bool
  | [] => true
  | (k, _) :: r => (r.all fun e => decide (k < e.1)) && tableWf r

/-- The memory of a state keeps its canonical form. -/
def MemInv (s : State) : Prop := memWf s.mem = true

/-- ONLY WHAT THE WAY TO MEMORY MAY CHANGE: memory with its marks and keys, translations kept at cores and wake messages, the records,
rings and counters of tenancies, and the workgroups bound to their slices (R131, R135 to R137, R140 to R143, R258). Every warp, cask,
counter, launch, queue of an engine, the cycle and the names are as they were. -/
structure AccessFrame (s t : State) : Prop where
  rest : t = { s with
    mem := t.mem, poison := t.poison, latched := t.latched, sectorKeys := t.sectorKeys, fresh := t.fresh, tenancies := t.tenancies, cores := t.cores
    wgs := t.wgs, times := t.times }
  cores : ∀ c, { coreAt t c with
    tlb := (coreAt s c).tlb, walks := (coreAt s c).walks, gatedAt := (coreAt s c).gatedAt, idleSince := (coreAt s c).idleSince
    wakeAt := (coreAt s c).wakeAt } = coreAt s c

/-! Words that reach their meaning. -/

/-- A word of R86 starts the exclusive group of its split. -/
def entered (excl : Bool) (s : State) (cx : Cx) : State :=
  if excl then updWarp s cx.k fun w => enterGroup w cx.j else s

/-- THE WORD OF THE SPLIT IN FOCUS REACHES ITS MEANING: some lane is active (R26), its fields are legal (R79), the body of its clause
holds it with its literals (R41), and they are held or fetched (R43, R198), which gives the words `ls`; `t` is the state then, the
exclusive group of a word of R86 entered. -/
structure Issues (rule : IssueRule) (excl : Bool) (i : Instr) (s : State) (cx : Cx) (ls : List Word) (t : State) : Prop where
  focus : focus s = some cx
  active : wordLanes rule s cx ≠ 0
  legal : legal i = true
  room : litCount i + 1 ≤ wordsLeft cx.sp
  lits : ∃ u, fetchLits cx (litCount i) (unpark s cx) = .ok (ls, u) ∧ t = entered excl u cx

/-- The same for a word that has no literal, as those of class S: some lane is active, the fields are legal, the clause holds it. -/
structure Ready (i : Instr) (s : State) (cx : Cx) : Prop where
  focus : focus s = some cx
  active : eff s cx ≠ 0
  legal : legal i = true
  room : 1 ≤ wordsLeft cx.sp

/-- A split but for what the issue of another word of its warp may change: its place among the exclusive groups (R86) and its operand
latches (R35). -/
def Split.core (sp : Split) : Split := { sp with group := 0, latches := [] }

/-- THE WORD IS DONE: slot `cx.k` holds the warp `w'`, its split stands at `pc` with its lanes and its divisions, not parked, its
sibling splits are as they were, and every other slot holds the warp it held. -/
structure Completes (s t : State) (cx : Cx) (pc : DWord) (w' : Warp) : Prop where
  warp : warpAt t cx.k = some w'
  split : ∃ sp, tget w'.splits cx.j = some sp ∧ sp.pc = pc ∧ sp.mask = cx.sp.mask ∧ sp.park = .running ∧ sp.path = cx.sp.path
  siblings : ∀ j, j ≠ cx.j → (tget w'.splits j).map Split.core = (tget cx.w.splits j).map Split.core
  others : ∀ k, k ≠ cx.k → warpAt t k = warpAt s k

/-- A split but for what its operand latches hold of brew registers, named from 512 on (R35). -/
def Split.noBrewLatches (sp : Split) : Split := { sp with latches := sp.latches.map fun l => l.filter fun n => decide (n < 512) }

/-- A warp but for the cycles in which its results come, and for its latches of brew registers. -/
def Warp.untimed (w : Warp) : Warp :=
  { w with
    pend := w.pend.map fun r => { r with due := 0 }
    splits := w.splits.map fun e => (e.1, e.2.noBrewLatches) }

/-- A VECTOR WORD IS DONE: as `Completes`; of the other warps, those whose passes lose a brew bank to the word's get their results later
(R98), and those that share the brew file lose latches of a brew register it writes (R35). -/
structure CompletesV (s t : State) (cx : Cx) (pc : DWord) (w' : Warp) : Prop where
  warp : warpAt t cx.k = some w'
  split : ∃ sp, tget w'.splits cx.j = some sp ∧ sp.pc = pc ∧ sp.mask = cx.sp.mask ∧ sp.park = .running ∧ sp.path = cx.sp.path
  siblings : ∀ j, j ≠ cx.j → (tget w'.splits j).map Split.core = (tget cx.w.splits j).map Split.core
  others : ∀ k, k ≠ cx.k → (warpAt t k).map Warp.untimed = (warpAt s k).map Warp.untimed

/-- THE WORD HAS MOVED ITS SPLIT: as `Completes`, with the lanes `m` and whatever divisions. -/
structure Arrives (s t : State) (cx : Cx) (pc : DWord) (m : Mask) (w' : Warp) : Prop where
  warp : warpAt t cx.k = some w'
  split : ∃ sp, tget w'.splits cx.j = some sp ∧ sp.pc = pc ∧ sp.mask = m ∧ sp.park = .running
  siblings : ∀ j, j ≠ cx.j → (tget w'.splits j).map Split.core = (tget cx.w.splits j).map Split.core
  others : ∀ k, k ≠ cx.k → warpAt t k = warpAt s k

/-- As `Arrives`, of a word that has read operands: see `CompletesV`. -/
structure ArrivesV (s t : State) (cx : Cx) (pc : DWord) (m : Mask) (w' : Warp) : Prop where
  warp : warpAt t cx.k = some w'
  split : ∃ sp, tget w'.splits cx.j = some sp ∧ sp.pc = pc ∧ sp.mask = m ∧ sp.park = .running
  siblings : ∀ j, j ≠ cx.j → (tget w'.splits j).map Split.core = (tget cx.w.splits j).map Split.core
  others : ∀ k, k ≠ cx.k → (warpAt t k).map Warp.untimed = (warpAt s k).map Warp.untimed

/-- The address of the word after a word with `n` literals (R41). -/
def nextPc (cx : Cx) (n : Nat) : DWord := cx.sp.pc + BitVec.ofNat 64 (4 * (n + 1))

/-- THE WORD STAYS: its split stands before it, parked as `p` says, its siblings and every other warp are as they were, and of its own
warp nothing else has changed (R29). -/
structure Stays (s t : State) (cx : Cx) (p : Park) : Prop where
  warp : ∃ w', warpAt t cx.k = some w' ∧ w' = { cx.w.retried cx.j with splits := w'.splits }
    ∧ (∃ sp, tget w'.splits cx.j = some sp ∧ sp.pc = cx.sp.pc ∧ sp.mask = cx.sp.mask ∧ sp.park = p ∧ sp.path = cx.sp.path
        ∧ sp.clause = cx.sp.clause)
    ∧ ∀ j, j ≠ cx.j → tget w'.splits j = tget cx.w.splits j
  others : ∀ k, k ≠ cx.k → warpAt t k = warpAt s k

/-- Of every quadrant of the package only the booking of its issue slots may differ: vector passes and the scalar slot (R25). -/
def OnlySlots (s t : State) : Prop :=
  ∀ c q, { quadAt t c q with passes := (quadAt s c q).passes, scalarAt := (quadAt s c q).scalarAt } = quadAt s c q

/-- ONLY THE SCHEDULING OF A QUADRANT: of the whole package only the warps, the names given out, and the booking of issue slots in
the quadrants may differ. All memory, every tenancy, workgroup and control register, every core beside its quadrants, and every
quadrant's pool, claims, array and counters are as they were. -/
structure SlotFrame (s t : State) : Prop where
  rest : t = { s with warps := t.warps, cores := t.cores, nextId := t.nextId }
  cores : ∀ c, { coreAt t c with quads := (coreAt s c).quads } = coreAt s c
  quads : OnlySlots s t

/-- As `SlotFrame`, where operands were read: the workgroup's kegs and the counter of free values may differ too (R37). -/
structure OperandFrame (s t : State) (cx : Cx) : Prop where
  rest : t = { s with warps := t.warps, wgs := t.wgs, cores := t.cores, nextId := t.nextId, fresh := t.fresh }
  cores : ∀ c, { coreAt t c with quads := (coreAt s c).quads } = coreAt s c
  quads : OnlySlots s t
  wgs : ∀ g, g ≠ cx.w.wg → wgAt t g = wgAt s g

/-- What a word of split `j` leaves of its warp beside its splits, its exclusive groups and the results still to come: registers, mode,
operations, stack, batches and everything else are those of `w`. The warp is not parked, but where another split's EXIT waits, and the
word holds no flag for being made again (R29, R47, R282). -/
def SameWarp (j : Nat) (w w' : Warp) : Prop :=
  w' = { w.retried j with pend := w'.pend, splits := w'.splits, groups := w'.groups, deferPresence := w'.deferPresence }

/-- The warp as the word of the split finds it when it is made: as `SameWarp` says. -/
def Cx.base (cx : Cx) : Warp := cx.w.retried cx.j

/-- A short-latency result is on its way: `x` for `d` in the lanes `m`, visible from cycle `due` on (R51). -/
def Results (w w' : Warp) (d : Dest) (x : Payload) (m : Mask) (due : Nat) : Prop :=
  ∃ r : PendWrite, w'.pend = w.pend ++ [r] ∧ r.dest = d ∧ r.payload = x ∧ r.lanes = m ∧ r.due = due

/-! The results of scalar words (R326 to R328, R336, R338 to R340, R342). -/

/-- The scalar register or predicate a scalar word writes, and the value. -/
def scalarResult (s : State) (cx : Cx) : Instr → Option (Dest × Payload)
  | .sadd d a b => some (.s d.toNat, .word (readS s cx.w a.toNat + readS s cx.w b.toNat))
  | .ssub d a b => some (.s d.toNat, .word (readS s cx.w a.toNat - readS s cx.w b.toNat))
  | .smul d a b => some (.s d.toNat, .word (readS s cx.w a.toNat * readS s cx.w b.toNat))
  | .sand d a b => some (.s d.toNat, .word (readS s cx.w a.toNat &&& readS s cx.w b.toNat))
  | .sor d a b => some (.s d.toNat, .word (readS s cx.w a.toNat ||| readS s cx.w b.toNat))
  | .sxor d a b => some (.s d.toNat, .word (readS s cx.w a.toNat ^^^ readS s cx.w b.toNat))
  | .sshl d a b => some (.s d.toNat, .word (readS s cx.w a.toNat <<< (readS s cx.w b.toNat).toNat))
  | .sshr d a b => some (.s d.toNat, .word (readS s cx.w a.toNat >>> (readS s cx.w b.toNat).toNat))
  | .ssra d a b => some (.s d.toNat, .word ((readS s cx.w a.toNat).sshiftRight (readS s cx.w b.toNat).toNat))
  | .smin d a b => some (.s d.toNat, .word (if (readS s cx.w b.toNat).toInt < (readS s cx.w a.toNat).toInt
      then readS s cx.w b.toNat else readS s cx.w a.toNat))
  | .smax d a b => some (.s d.toNat, .word (if (readS s cx.w a.toNat).toInt < (readS s cx.w b.toNat).toInt
      then readS s cx.w b.toNat else readS s cx.w a.toNat))
  | .scmpEq d a b => some (.p d.toNat, .mask (if readS s cx.w a.toNat = readS s cx.w b.toNat then ~~~0 else 0))
  | .scmpNe d a b => some (.p d.toNat, .mask (if readS s cx.w a.toNat = readS s cx.w b.toNat then 0 else ~~~0))
  | .scmpLt d a b => some (.p d.toNat, .mask (if (readS s cx.w a.toNat).toInt < (readS s cx.w b.toNat).toInt then ~~~0 else 0))
  | .scmpLe d a b => some (.p d.toNat, .mask (if (readS s cx.w b.toNat).toInt < (readS s cx.w a.toNat).toInt then 0 else ~~~0))
  | .scmpGt d a b => some (.p d.toNat, .mask (if (readS s cx.w b.toNat).toInt < (readS s cx.w a.toNat).toInt then ~~~0 else 0))
  | .scmpGe d a b => some (.p d.toNat, .mask (if (readS s cx.w a.toNat).toInt < (readS s cx.w b.toNat).toInt then 0 else ~~~0))
  | .scmpLtu d a b => some (.p d.toNat, .mask (if readS s cx.w a.toNat < readS s cx.w b.toNat then ~~~0 else 0))
  | .scmpGeu d a b => some (.p d.toNat, .mask (if readS s cx.w a.toNat < readS s cx.w b.toNat then 0 else ~~~0))
  | .pand d a b => some (.p d.toNat, .mask (cx.w.p.getD a.toNat 0 &&& cx.w.p.getD b.toNat 0))
  | .por d a b => some (.p d.toNat, .mask (cx.w.p.getD a.toNat 0 ||| cx.w.p.getD b.toNat 0))
  | .pxor d a b => some (.p d.toNat, .mask (cx.w.p.getD a.toNat 0 ^^^ cx.w.p.getD b.toNat 0))
  | .pandn d a b => some (.p d.toNat, .mask (cx.w.p.getD a.toNat 0 &&& ~~~(cx.w.p.getD b.toNat 0)))
  | .smovi x imm => some (.s x.toNat, .word (imm.signExtend 32))
  | .smovhi x imm => some (.s x.toNat, .word (imm.setWidth 32 <<< 16 ||| readS s cx.w x.toNat &&& 0xFFFF))
  | .saddi x imm => some (.s x.toNat, .word (readS s cx.w x.toNat + imm.signExtend 32))
  | .sandi x imm => some (.s x.toNat, .word (readS s cx.w x.toNat &&& imm.signExtend 32))
  | .sbal x imm => some (.s x.toNat, .word
      ((if imm.getLsbD 3 then (cx.w.p.getD (imm.toNat % 8) 0 &&& eff s cx) >>> 32 else cx.w.p.getD (imm.toNat % 8) 0 &&& eff s cx).setWidth 32))
  | .pcnt x imm => some (.s x.toNat, .word
      (if imm.getLsbD 3 then BitVec.ofNat 32 ((lanesOf (cx.w.p.getD (imm.toNat % 8) 0 &&& eff s cx)).head?.getD 64)
       else BitVec.ofNat 32 (lanesOf (cx.w.p.getD (imm.toNat % 8) 0 &&& eff s cx)).length))
  | .pset x imm => some (.p x.toNat, .mask
      (if imm.getLsbD 7 then readPair s cx.w (imm.toNat % 64) else if imm.getLsbD 6 then ~~~0 else 0))
  | .shln x imm => some (.s x.toNat, .word (cx.w.norms.getD imm.toNat 0))
  | _ => none

/-! Branches, and words that change nothing of their warp but its place. -/

/-- A branch: whether it is taken, and its offset in words (R267 to R269, R272). -/
def branchOf (s : State) (cx : Cx) : Instr → Option (Bool × Half)
  | .br _ imm => some (true, imm)
  | .brz x imm => some (decide (readS s cx.w x.toNat = 0), imm)
  | .brnz x imm => some (!decide (readS s cx.w x.toNat = 0), imm)
  | .brany x imm => some (decide (eff s cx &&& cx.w.p.getD x.toNat 0 ≠ 0), imm)
  | .brall x imm => some (decide (eff s cx &&& ~~~(cx.w.p.getD x.toNat 0) = 0), imm)
  | _ => none

/-- The kind and the scope of a FENCE (R286). -/
def fenceOf : Instr → Option (FenceKind × Scope)
  | .fenceWgAcq _ _ => some (.acq, .wg)
  | .fenceWgRel _ _ => some (.rel, .wg)
  | .fenceWgFull _ _ => some (.full, .wg)
  | .fenceDieAcq _ _ => some (.acq, .die)
  | .fenceDieRel _ _ => some (.rel, .die)
  | .fenceDieFull _ _ => some (.full, .die)
  | .fencePkgAcq _ _ => some (.acq, .pkg)
  | .fencePkgRel _ _ => some (.rel, .pkg)
  | .fencePkgFull _ _ => some (.full, .pkg)
  | .fenceDomAcq _ _ => some (.acq, .dom)
  | .fenceDomRel _ _ => some (.rel, .dom)
  | .fenceDomFull _ _ => some (.full, .dom)
  | _ => none

/-- The scope of an NMFENCE (R323). -/
def nmfenceOf : Instr → Option Scope
  | .nmfenceWg _ _ => some .wg
  | .nmfenceDie _ _ => some .die
  | .nmfencePkg _ _ => some .pkg
  | .nmfenceDom _ _ => some .dom
  | _ => none

/-- The scope of a TFENCE (R354). -/
def tfenceOf : Instr → Option Scope
  | .tfenceWg _ _ => some .wg
  | .tfenceDie _ _ => some .die
  | .tfencePkg _ _ => some .pkg
  | .tfenceDom _ _ => some .dom
  | _ => none

/-- The ordering word is one, and its conditions hold or not (R137, R153, R160, R286, R323, R354). -/
def orderReady (s : State) (cx : Cx) (i : Instr) : Option Bool :=
  match fenceOf i, nmfenceOf i, tfenceOf i with
  | some (kd, sc), _, _ => some (fenceReady s cx kd sc)
  | none, some sc, _ => some (reductionsDone s cx sc)
  | none, none, some sc => some (storesDone s cx sc)
  | none, none, none => none

/-- NOP, YIELD, and a FENCE whose conditions hold: words without effect on registers and memory (R286, R325, R385). -/
def noEffect (s : State) (cx : Cx) (i : Instr) : Bool :=
  match i with
  | .nop _ _ _ => true
  | .yield _ _ => true
  | i => (fenceOf i).isSome && orderReady s cx i == some true

/-! The results of vector words (R288, R289, R304, R341, R357, R359, R364, R367, R371, R372, R376 to R378). -/

/-- What a vector word with one result row is: the operands it reads, its latency, the modes it takes, and the word of lane `l` of its
result, from the rows read in `x` and the effective mask `e`. -/
structure RowWord where
  spec : VSpec
  latency : Nat
  legal : Bool
  word : Nat → Word

/-- An operation on the elements of two words, as the mode has it. -/
def RowWord.arith (m : Half) (x : VIn) (op : ArithOp) (l : Nat) : Word :=
  mapElems2 (etOf m) (arithElem (etOf m) (fmodeOf m) op) (lane (x.row 0) l) (lane (x.row 1) l)

/-- A reduction or scan of R371 and R376 at lane `l`. -/
def RowWord.cross (m : Half) (e : Mask) (x : VIn) (scan : Bool) (op : CrossOp) (l : Nat) : Word :=
  let t0 := crossStart op (etOf m) (fmodeOf m) e (x.row 0) (x.row 1)
  let f := crossOpt op (etOf m) (fmodeOf m)
  ((if scan then scanSteps f [1, 2, 4, 8, 16, 32] t0 else redSteps f [32, 16, 8, 4, 2, 1] t0).getD l none).getD 0

/-- The vector words with one result row. -/
def rowWord (cx : Cx) (e : Mask) (x : VIn) : Instr → Option RowWord
  | .vadd d a b => some ⟨specAB d a b, 4, true, RowWord.arith cx.w.mode x .add⟩
  | .vsub d a b => some ⟨specAB d a b, 4, true, RowWord.arith cx.w.mode x .sub⟩
  | .vmul d a b => some ⟨specAB d a b, 6, true, RowWord.arith cx.w.mode x .mul⟩
  | .vmin d a b => some ⟨specAB d a b, 4, true, RowWord.arith cx.w.mode x .min⟩
  | .vmax d a b => some ⟨specAB d a b, 4, true, RowWord.arith cx.w.mode x .max⟩
  | .vabsd d a b => some ⟨specAB d a b, 4, true, RowWord.arith cx.w.mode x .absd⟩
  | .vand d a b => some ⟨specAB d a b, 4, true, fun l => lane (x.row 0) l &&& lane (x.row 1) l⟩
  | .vor d a b => some ⟨specAB d a b, 4, true, fun l => lane (x.row 0) l ||| lane (x.row 1) l⟩
  | .vxor d a b => some ⟨specAB d a b, 4, true, fun l => lane (x.row 0) l ^^^ lane (x.row 1) l⟩
  | .vandn d a b => some ⟨specAB d a b, 4, true, fun l => lane (x.row 0) l &&& ~~~(lane (x.row 1) l)⟩
  | .vshl d a b => some ⟨specAB d a b, 4, true, fun l =>
      mapElems2 (etOf cx.w.mode) (shiftElem (etWidth (etOf cx.w.mode)) .shl) (lane (x.row 0) l) (lane (x.row 1) l)⟩
  | .vshr d a b => some ⟨specAB d a b, 4, true, fun l =>
      mapElems2 (etOf cx.w.mode) (shiftElem (etWidth (etOf cx.w.mode)) .shr) (lane (x.row 0) l) (lane (x.row 1) l)⟩
  | .vsra d a b => some ⟨specAB d a b, 4, true, fun l =>
      mapElems2 (etOf cx.w.mode) (shiftElem (etWidth (etOf cx.w.mode)) .sra) (lane (x.row 0) l) (lane (x.row 1) l)⟩
  | .vcvt d a b => some ⟨VSpec.simple d [a], 4, true, fun l =>
      cvtWord (etOf cx.w.mode) (etCode b.toNat) (fmodeOf cx.w.mode) (lane (x.row 0) l)⟩
  | .vpopc d a b => some ⟨VSpec.unary d a b, 4, true, fun l =>
      mapElems (etOf cx.w.mode) (popElem (etWidth (etOf cx.w.mode))) (lane (x.row 0) l)⟩
  | .vclz d a b => some ⟨VSpec.unary d a b, 4, true, fun l =>
      mapElems (etOf cx.w.mode) (clzElem (etWidth (etOf cx.w.mode))) (lane (x.row 0) l)⟩
  | .vbrev d a b => some ⟨VSpec.unary d a b, 4, true, fun l =>
      mapElems (etOf cx.w.mode) (brevElem (etWidth (etOf cx.w.mode))) (lane (x.row 0) l)⟩
  | .vpklo d a b => some ⟨specAB d a b, 4, packedMode cx.w.mode, fun l =>
      packWord (etOf cx.w.mode) (fmodeOf cx.w.mode) false (lane (x.row 0) l) (lane (x.row 1) l)⟩
  | .vpkhi d a b => some ⟨specAB d a b, 4, packedMode cx.w.mode, fun l =>
      packWord (etOf cx.w.mode) (fmodeOf cx.w.mode) true (lane (x.row 0) l) (lane (x.row 1) l)⟩
  | .vunlo d a b => some ⟨VSpec.unary d a b, 4, packedMode cx.w.mode, fun l =>
      unpackWord (etOf cx.w.mode) (fmodeOf cx.w.mode) false (lane (x.row 0) l)⟩
  | .vunhi d a b => some ⟨VSpec.unary d a b, 4, packedMode cx.w.mode, fun l =>
      unpackWord (etOf cx.w.mode) (fmodeOf cx.w.mode) true (lane (x.row 0) l)⟩
  | .vshup d a b => some ⟨{ VSpec.simple d [a] with both := true }, 10, true, fun l =>
      lane (x.row 0) (if 64 / 2 ^ (b.toNat + 1) ≤ l then l - 64 / 2 ^ (b.toNat + 1) else l)⟩
  | .vshdn d a b => some ⟨{ VSpec.simple d [a] with both := true }, 10, true, fun l =>
      lane (x.row 0) (if l + 64 / 2 ^ (b.toNat + 1) < 64 then l + 64 / 2 ^ (b.toNat + 1) else l)⟩
  | .vshxor d a b => some ⟨{ VSpec.simple d [a] with both := true }, 10, true, fun l =>
      lane (x.row 0) (l ^^^ 64 / 2 ^ (b.toNat + 1))⟩
  | .vshidx d a b => some ⟨{ specAB d a b with both := true }, 10, true, fun l => lane (x.row 0) ((lane (x.row 1) l).toNat % 64)⟩
  | .vlredAdd d a b => some ⟨{ specAB d a b with both := true }, 10, true, RowWord.cross cx.w.mode e x false (.arith .add)⟩
  | .vlredMin d a b => some ⟨{ specAB d a b with both := true }, 10, true, RowWord.cross cx.w.mode e x false (.arith .min)⟩
  | .vlredMax d a b => some ⟨{ specAB d a b with both := true }, 10, true, RowWord.cross cx.w.mode e x false (.arith .max)⟩
  | .vlredAnd d a b => some ⟨{ specAB d a b with both := true }, 10, true, RowWord.cross cx.w.mode e x false (.bits 0)⟩
  | .vlredOr d a b => some ⟨{ specAB d a b with both := true }, 10, true, RowWord.cross cx.w.mode e x false (.bits 1)⟩
  | .vlredXor d a b => some ⟨{ specAB d a b with both := true }, 10, true, RowWord.cross cx.w.mode e x false (.bits 2)⟩
  | .vscanAdd d a b => some ⟨{ specAB d a b with both := true }, 10, true, RowWord.cross cx.w.mode e x true (.arith .add)⟩
  | .vscanMax d a b => some ⟨{ specAB d a b with both := true }, 10, true, RowWord.cross cx.w.mode e x true (.arith .max)⟩
  | .sel d a b c => some ⟨specAB d a b, 4, true, fun l =>
      if (cx.w.p.getD c.toNat 0).getLsbD l then lane (x.row 0) l else lane (x.row 1) l⟩
  | .fma d a b c => some ⟨VSpec.simple d [a, b, c], 6, floatMode cx.w.mode, fun l =>
      mapElems3 (etOf cx.w.mode) (fmaElem ((etFmt (etOf cx.w.mode)).getD fF32) (fmodeOf cx.w.mode) false)
        (lane (x.row 0) l) (lane (x.row 1) l) (lane (x.row 2) l)⟩
  | .fms d a b c => some ⟨VSpec.simple d [a, b, c], 6, floatMode cx.w.mode, fun l =>
      mapElems3 (etOf cx.w.mode) (fmaElem ((etFmt (etOf cx.w.mode)).getD fF32) (fmodeOf cx.w.mode) true)
        (lane (x.row 0) l) (lane (x.row 1) l) (lane (x.row 2) l)⟩
  | .imad d a b c => some ⟨VSpec.simple d [a, b, c], 6, intMode cx.w.mode, fun l =>
      mapElems3 (etOf cx.w.mode) (imadElem (etOf cx.w.mode) (satOf cx.w.mode))
        (lane (x.row 0) l) (lane (x.row 1) l) (lane (x.row 2) l)⟩
  | _ => none

/-- The operands d, a, b and the relation of a VCMP (R366). -/
def cmpOf : Instr → Option (BitVec 7 × BitVec 7 × BitVec 7 × CmpOp)
  | .vcmpEq d a b => some (d, a, b, .eq)
  | .vcmpNe d a b => some (d, a, b, .ne)
  | .vcmpLt d a b => some (d, a, b, .lt)
  | .vcmpLe d a b => some (d, a, b, .le)
  | .vcmpGt d a b => some (d, a, b, .gt)
  | .vcmpGe d a b => some (d, a, b, .ge)
  | .vcmpUn d a b => some (d, a, b, .un)
  | .vcmpOrd d a b => some (d, a, b, .ord)
  | _ => none

/-- The operands d, a, b and the function of a special-function word (R373). -/
def sfuOf : Instr → Option (BitVec 7 × BitVec 7 × BitVec 7 × SfuOp)
  | .vrcp d a b => some (d, a, b, .rcp)
  | .vrsq d a b => some (d, a, b, .rsq)
  | .vsqrt d a b => some (d, a, b, .sqrt)
  | .vex2 d a b => some (d, a, b, .ex2)
  | .vlg2 d a b => some (d, a, b, .lg2)
  | .vsin d a b => some (d, a, b, .sin)
  | .vcos d a b => some (d, a, b, .cos)
  | .vtnh d a b => some (d, a, b, .tnh)
  | _ => none

/-! What vector operands name (R33, R37, R42, R43, R97). -/

/-- No outstanding operation of the warp writes `d`: a read gives what the register holds (R52). -/
def Warp.quiet (w : Warp) (d : Dest) : Prop := ∀ o ∈ w.ops, o.value d = none

/-- WHAT THE SOURCE CODE `c` GIVES, at position `n` of the codes `cs` of a word with the literals `ls` (R42): a static register; the brew
register of age g and offset o, of block k - g of iteration k, or zeros where there was no such warp (R97, R98); the oldest entries of a
keg, one for each position that names it (R37); zero, the lane index, the iteration index, 64, or the next literal (R43). -/
structure SourceGives (s : State) (cx : Cx) (ls : List Word) (cs : List (BitVec 7)) (n : Nat) (c : BitVec 7) (r : Row) : Prop where
  static : c.toNat < 80 → cx.w.quiet (.v c.toNat) → r = cx.w.v.getD c.toNat zeroRow
  brew : ∀ x, c.toNat = 80 + x → x < 32 → ∃ k b, cx.w.iter = some k ∧ brewOf s cx.k = some b ∧ x < b.fresh * b.ages
    ∧ (k < x / b.fresh → r = zeroRow)
    ∧ ∀ sl, x / b.fresh ≤ k → sl = b.fresh * ((k - x / b.fresh) % (256 / b.fresh)) + x % b.fresh → cx.w.quiet (.brew sl) →
        r = brewRow s (coreOfSlot cx.k) sl
  keg : ∀ q kg, c.toNat = 112 + q → q < 8 → kg = kegAt cx.g q → ∃ e, kg.entries[(cs.take n).countP fun x => decide (x = c)]? = some e
    ∧ e.written = true ∧ ∀ l, l < 64 → lane r l
        = BitVec.ofNat 32 (leNat (((readBytes s none (sramLoc cx.g.core (cx.g.sram + 256 * (kg.base + e.place))) 256).drop (4 * l)).take 4))
  zr : c.toNat = 120 → ∀ l, l < 64 → lane r l = 0
  ln : c.toNat = 121 → ∀ l, l < 64 → lane r l = BitVec.ofNat 32 l
  it : c.toNat = 122 → ∀ l, l < 64 → lane r l = BitVec.ofNat 32 (cx.w.iter.getD 0)
  ww : c.toNat = 123 → ∀ l, l < 64 → lane r l = 64
  lit : c.toNat = 127 → ∀ l, l < 64 → lane r l = ls.getD ((cs.take n).countP fun x => decide (x.toNat = 127)) 0

/-- WHERE THE DESTINATION CODE `c` WRITES (R42): a static register, the brew register of the warp's own block (R97), a new entry of a keg
(R37), or nowhere. -/
structure DestNames (s : State) (cx : Cx) (c : BitVec 7) (d : Dest) : Prop where
  static : c.toNat < 80 → d = .v c.toNat
  brew : ∀ x, c.toNat = 80 + x → x < 32 → ∃ k b, cx.w.iter = some k ∧ brewOf s cx.k = some b ∧ x < b.fresh
    ∧ d = .brew (b.fresh * (k % (256 / b.fresh)) + x)
  keg : ∀ q, c.toNat = 112 + q → q < 8 → d = .keg q s.nextId
  zr : c.toNat = 120 → d = .none

/-- THE OPERANDS OF A VECTOR WORD that are read: each source gives its row, the destination is named, and of each keg the entries that the
sources pop are gone and the one that the destination pushes is reserved (R36, R37, R42). -/
structure OperandsRead (s : State) (cx : Cx) (ls : List Word) (v : VSpec) (x : VIn) : Prop where
  sources : ∀ n c, (v.srcs ++ v.popD.toList)[n]? = some c → SourceGives s cx ls (v.srcs ++ v.popD.toList) n c (x.row n)
  dest : ∀ c, v.dst = some c → DestNames s cx c x.dest
  noDest : v.dst = none → x.dest = .none
  kegs : ∃ g, wgAt x.s cx.w.wg = some g ∧ ∀ q, q < 8 → (kegAt g q).entries
    = (kegAt cx.g q).entries.drop ((v.srcs ++ v.popD.toList).countP fun c => decide (c.toNat = 112 + q))
      ++ if v.dst.map BitVec.toNat = some (112 + q) then [{ id := s.nextId, place := (kegAt cx.g q).next, written := false }] else []

/-! Where an address leads (R130 to R137, R146). -/

/-- The entry of a page table at byte `a` of compute HBM (R133). -/
def entryAt (s : State) (a : Nat) : DWord := BitVec.ofNat 64 (memNat s.mem (hbmLoc a) 8)

/-- How a walk ends: at a leaf, with log2 of its page, or with a PAGE cause (R135). -/
inductive WalkEnd where
  | leaf (e : DWord) (log : Nat)
  | fault (c : FaultCause)
deriving DecidableEq, Repr

/-- THE WALK OF ADDRESS `va` FROM A TABLE of a level (0 L4 to 3 L1; `big`: one of 64 KiB pages) at byte `base` of compute HBM ends so, at
the level given last (R133, R135). -/
inductive Walked (s : State) (va : Nat) : Nat → Nat → Bool → WalkEnd → Nat → Prop where
  | invalid (level base : Nat) (big : Bool) (e : DWord) : e = entryAt s (base + 8 * walkIndex va level big) → pteBit e 0 = false →
      Walked s va level base big (.fault .notValid) level
  | leafAtTop (base : Nat) (big : Bool) (e : DWord) : e = entryAt s (base + 8 * walkIndex va 0 big) → pteBit e 0 = true →
      pteBit e 1 = true → Walked s va 0 base big (.fault .malformed) 0
  | leaf (level base : Nat) (big : Bool) (e : DWord) : e = entryAt s (base + 8 * walkIndex va level big) → pteBit e 0 = true →
      pteBit e 1 = true → 1 ≤ level → level ≤ 3 → Walked s va level base big (.leaf e (leafLog level big)) level
  | tableAtBottom (base : Nat) (big : Bool) (e : DWord) : e = entryAt s (base + 8 * walkIndex va 3 big) → pteBit e 0 = true →
      pteBit e 1 = false → Walked s va 3 base big (.fault .malformed) 3
  | beyond (level base : Nat) (big : Bool) (e : DWord) : e = entryAt s (base + 8 * walkIndex va level big) → pteBit e 0 = true →
      pteBit e 1 = false → level < 3 → Config.hbmBytes < tableAddr e level + tableBytes e level →
      Walked s va level base big (.fault .malformed) level
  | down (level base : Nat) (big : Bool) (e : DWord) (x : WalkEnd) (n : Nat) : e = entryAt s (base + 8 * walkIndex va level big) →
      pteBit e 0 = true → pteBit e 1 = false → level < 3 → tableAddr e level + tableBytes e level ≤ Config.hbmBytes →
      Walked s va (level + 1) (tableAddr e level) (decide (level = 2) && pteBit e 10) x n → Walked s va level base big x n

/-- The core of the request has cached nothing of the address space: its walks go to memory (R137). -/
def Afresh (s : State) (rq : Req) : Prop :=
  ∀ c, rq.core = some c → (∀ t ∈ (coreAt s c).tlb, t.asid ≠ rq.asid) ∧ ∀ t ∈ (coreAt s c).walks, t.asid ≠ rq.asid

/-- The place in memory of an address in the page of a leaf (R132, R133): PFN × 4 KiB plus the bits below the page size, in the space of its
KIND; REMOTE, of node PFN[39:31], compute HBM or T2 by PFN[30]. -/
def PlaceOf (e : DWord) (log : Nat) (va : DWord) (loc : Nat) : Prop :=
  (pteKind e = 0 → loc = hbmLoc (ptePfn e * 4096 + va.toNat % 2 ^ log))
  ∧ (pteKind e = 1 → loc = t2Loc (ptePfn e * 4096 + va.toNat % 2 ^ log))
  ∧ (pteKind e = 2 → loc = hostLoc (ptePfn e * 4096 + va.toNat % 2 ^ log))
  ∧ (pteKind e = 3 → ptePfn e / 2 ^ 31 ≠ Config.node → loc = space (if (ptePfn e).testBit 30 then 6 else 5) + (ptePfn e / 2 ^ 31) * 2 ^ 42
      + ptePfn e % 2 ^ 30 * 4096 + va.toNat % 2 ^ log)

/-- The KIND lets an access of `len` bytes on its path reach it (R132). -/
def KindAllows (rq : Req) (e : DWord) (va : DWord) (len : Nat) : Prop :=
  (pteKind e = 1 ∨ pteKind e = 2 → rq.path ≠ .reduce)
  ∧ (pteKind e = 3 → rq.path ≠ .fetch ∧ rq.path ≠ .frag ∧ rq.path ≠ .lantern ∧ rq.path ≠ .kiln
      ∧ (rq.path = .reduce → (ptePfn e).testBit 30 = false))
  ∧ (pteKind e = 4 → rq.path = .plain ∧ (len = 4 ∨ len = 8) ∧ va.toNat % len = 0)

/-- The key slot that the data of a page goes through, when its address space encrypts it (R136, R146). -/
def slotOf (d : Descriptor) (e : DWord) : Option Nat :=
  if d.flags.testBit 1 ∧ (pteKind e = 0 ∨ pteKind e = 1 ∨ pteKind e = 3) then
    some (if d.flags.testBit 2 then pteKey e else d.dkey)
  else none

/-- The slot is loaded and the tenancy's (R146). -/
def SlotHeld (s : State) (ten : Nat) (k : Option Nat) : Prop := ∀ n, k = some n → ∃ x, tget s.keySlots n = some x ∧ x.ten = ten

/-- WHAT A LEAF GIVES, entry `e` of a page of 2 ^ log bytes found at level `n` (R132, R135, R146): the rows of R135 in order, then the key
slot, then the kind. -/
structure LeafGives (s : State) (rq : Req) (va : DWord) (len : Nat) (e : DWord) (log n : Nat) : Prop where
  malformed : leafSound e log = false → xlate s rq va len = .error (.fault .malformed n log)
  service : leafSound e log = true → pteBit e 5 = true → rq.svc = false → xlate s rq va len = .error (.trap .prot (va.setWidth 32))
  migrating : leafSound e log = true → (pteBit e 5 = true → rq.svc = true) → pteBit e 11 = true →
    xlate s rq va len = .error (.fault .migrating n log)
  noRead : leafSound e log = true → (pteBit e 5 = true → rq.svc = true) → pteBit e 11 = false → rq.acc = .load ∨ rq.acc = .atomic →
    pteBit e 2 = false → xlate s rq va len = .error (.fault .noRead n log)
  noWrite : leafSound e log = true → (pteBit e 5 = true → rq.svc = true) → pteBit e 11 = false → rq.acc = .store ∨ rq.acc = .atomic →
    (rq.acc = .atomic → pteBit e 2 = true) → pteBit e 3 = false → xlate s rq va len = .error (.fault .noWrite n log)
  noExec : leafSound e log = true → (pteBit e 5 = true → rq.svc = true) → pteBit e 11 = false → rq.acc = .fetch → pteBit e 4 = false →
    xlate s rq va len = .error (.fault .noExec n log)
  permitted : leafSound e log = true → (pteBit e 5 = true → rq.svc = true) → pteBit e 11 = false →
    (rq.acc = .load ∨ rq.acc = .atomic → pteBit e 2 = true) → (rq.acc = .store ∨ rq.acc = .atomic → pteBit e 3 = true) →
    (rq.acc = .fetch → pteBit e 4 = true) →
    (¬SlotHeld s rq.ten (slotOf (descriptor s rq.asid) e) → xlate s rq va len = .error (.trap .prot (va.setWidth 32)))
    ∧ (SlotHeld s rq.ten (slotOf (descriptor s rq.asid) e) → ¬KindAllows rq e va len →
        xlate s rq va len = .error (.trap .memkind (BitVec.ofNat 32 (pteKind e))))
    ∧ (SlotHeld s rq.ten (slotOf (descriptor s rq.asid) e) → KindAllows rq e va len → ∃ x l, xlate s rq va len = .ok (x, some l)
        ∧ l.pte = e ∧ l.log = log ∧ x.kind = pteKind e ∧ PlaceOf e log va x.loc ∧ x.key.map (·.1) = slotOf (descriptor s rq.asid) e)

/-- WHERE AN ADDRESS LEADS at FULL, `len` bytes of one location (R130, R133 to R137): a poisoned pointer, the PROT ranges, the windows of
the slices, and the pages of an address space of which the core has cached nothing. DESIGN CHOICE (entry 30): a fetch from a window is
MEMKIND whichever core's slice it names. -/
structure Leads (s : State) (rq : Req) (va : DWord) (len : Nat) : Prop where
  dangle : va.toNat / 2 ^ 48 = 0xDEAD → xlate s rq va len = .error (.trap .dangle (va.extractLsb' 32 32))
  high : va.toNat / 2 ^ 48 ≠ 0xDEAD → 2 ^ 47 ≤ va.toNat → xlate s rq va len = .error (.trap .prot (va.setWidth 32))
  between : 0x7F0000000000 + 192 * 2 ^ 20 ≤ va.toNat → va.toNat < 2 ^ 47 →
    (va.toNat < 0x7F8000000000 ∨ 0x7F8000000000 + 2 ^ 20 ≤ va.toNat ∨ rq.core = none) →
    xlate s rq va len = .error (.trap .prot (va.setWidth 32))
  window : ∀ c o, 2 ≤ s.level → o < 2 ^ 20 →
    (c < 192 ∧ va.toNat = 0x7F0000000000 + c * 2 ^ 20 + o ∨ va.toNat = 0x7F8000000000 + o ∧ rq.core = some c) →
    (rq.acc = .fetch → xlate s rq va len = .error (.trap .memkind 0xFF))
    ∧ (rq.acc ≠ .fetch → inCoreSet s rq.ten c = false → xlate s rq va len = .error (.trap .prot (va.setWidth 32)))
    ∧ (rq.acc ≠ .fetch → inCoreSet s rq.ten c = true →
        xlate s rq va len = .ok ({ loc := sramLoc c o, kind := 255, key := none, counter := none }, none))
  foreign : 2 ≤ s.level → va.toNat < 0x7F0000000000 → (descriptor s rq.asid).valid = false ∨ (descriptor s rq.asid).ten ≠ rq.ten →
    xlate s rq va len = .error (.trap .prot (va.setWidth 32))
  page : 2 ≤ s.level → va.toNat < 0x7F0000000000 → (descriptor s rq.asid).valid = true → (descriptor s rq.asid).ten = rq.ten → Afresh s rq →
    ∀ r n, Walked s va.toNat 0 ((descriptor s rq.asid).root / 4096 * 4096) false r n →
      (∀ c, r = .fault c → ∃ g, xlate s rq va len = .error (.fault c n g)) ∧ ∀ e log, r = .leaf e log → LeafGives s rq va len e log n

/-- The check of one piece of an access within an 8-byte location (R138): where its address leads, and then ALIGN. -/
def checkOf (s : State) (rq : Req) (align : Bool) (p : Piece) : Except Bad (List Chunk) :=
  match xlate s rq p.va p.len with
  | .error (.trap c i) => .error (.trap c i)
  | .error (.fault c n g) => .error (.faults [{ cause := c, level := n, log := g, va := p.va }])
  | .ok x => if align ∧ p.va.toNat % 4 ≠ 0 then .error (.trap .align (p.va.setWidth 32)) else .ok [(0, p.len, x.1, x.2)]

/-- WHAT THE CHECKS OF THE PIECES OF AN ACCESS GIVE (R138, R228): all sound, each piece goes to its place; where one traps, the access
traps, with the lowest class, and no lane is accessed; where none traps and one faults, it has lanes that wait for a replay. -/
structure Checks (s : State) (cx : Cx) (a : Access) : Prop where
  piece : ∀ p : Piece, 0 < p.len → p.va.toNat % 8 + p.len ≤ 8 →
    checkPiece s (cx.req a.kind.acc a.path) a.kind.aligned p = checkOf s (cx.req a.kind.acc a.path) a.kind.aligned p
  sound : ∀ f : Piece → Xlat × Option Leaf,
    (∀ p ∈ a.pieces, checkPiece s (cx.req a.kind.acc a.path) a.kind.aligned p = .ok [(0, p.len, f p)]) →
    ∃ tr, translateAccess s cx a (fun _ => true) = .ok tr ∧ tr.faulted = false
      ∧ tr.pieces = a.pieces.map fun p => { p with at? := some (f p).1, faults := [] }
  trap : ∀ p ∈ a.pieces, ∀ c i, checkPiece s (cx.req a.kind.acc a.path) a.kind.aligned p = .error (.trap c i) →
    ∃ t, translateAccess s cx a (fun _ => true) = .error t ∧ classNo t.cls ≤ classNo c
      ∧ ∃ q ∈ a.pieces, checkPiece s (cx.req a.kind.acc a.path) a.kind.aligned q = .error (.trap t.cls t.info)
  fault : (∀ p ∈ a.pieces, ∀ c i, checkPiece s (cx.req a.kind.acc a.path) a.kind.aligned p ≠ .error (.trap c i)) →
    (∃ p ∈ a.pieces, ∃ f fs, checkPiece s (cx.req a.kind.acc a.path) a.kind.aligned p = .error (.faults (f :: fs))) →
    ∃ tr, translateAccess s cx a (fun _ => true) = .ok tr ∧ tr.faulted = true

/-! Memory words (R175, R179, R324, R348, R360 to R362, R368, R369, R379, R380). -/

/-- What a vector memory word is: the operands it reads, whether its mode, alignment and order let it issue, the access it makes, not
yet translated, and where loaded data goes. -/
structure MemWord where
  spec : VSpec
  ready : Bool
  access : Access
  dest : Dest

/-- The address of lane `l`: base pair plus sign-extended offset (R57). -/
def MemWord.va (t0 : State) (cx : Cx) (x : VIn) (b : BitVec 7) (l : Nat) : DWord :=
  readPair t0 cx.w b.toNat + (lane (x.row 0) l).signExtend 64

/-- A load of `n` bytes to each lane: to one destination up to 4 bytes, to n ÷ 4 static registers above (R368, R369). -/
def MemWord.load (t0 : State) (cx : Cx) (x : VIn) (n : Nat) (acq : Option Scope) (d a b : BitVec 7) : MemWord :=
  { spec := if n ≤ 4 then { memSpec a with dst := some d } else { memSpec a with more := (List.range (n / 4)).map fun i => d.toNat + i }
    ready := true
    access := { mkAccess .load (if n ≤ 4 then .one x.dest else .rows d.toNat (n / 4)) (eff t0 cx)
      ((lanesOf (eff t0 cx)).map fun l => mkPiece l 0 n (MemWord.va t0 cx x b l) []) with acq := acq, sext := etSigned (etOf cx.w.mode) }
    dest := x.dest }

/-- A store of `n` bytes from each lane (R379, R380); at DOM it waits for the warp's remote writes (R161). -/
def MemWord.store (t0 : State) (cx : Cx) (x : VIn) (n : Nat) (rel : Option Scope) (d a b : BitVec 7) : MemWord :=
  let many := (List.range (n / 4)).map fun i => d.toNat + i
  let data := if n ≤ 4 then [x.row 1] else many.map fun r => readV t0 cx.w r
  { spec := if n ≤ 4 then { memSpec a with popD := some d } else { memSpec a with extra := many }
    ready := !(rel == some .dom) || remoteIdle t0 cx.k cx.w
    access := { mkAccess .store .nowhere (eff t0 cx)
      ((lanesOf (eff t0 cx)).map fun l => mkPiece l 0 n (MemWord.va t0 cx x b l) ((regBytes data l).take n)) with rel := rel }
    dest := .none }

/-- A read-modify-write of one word from each lane, the old word to d (R362). -/
def MemWord.atom (t0 : State) (cx : Cx) (x : VIn) (op : AtomOp) (d a b : BitVec 7) : MemWord :=
  let regs := if op = .cas then [d.toNat, d.toNat + 1] else [d.toNat]
  { spec := { memSpec a with extra := regs }
    ready := !atomTyped op || wideMode cx.w.mode
    access := mkAccess (.atomic op (etOf cx.w.mode)) (.rows d.toNat 1) (eff t0 cx)
      ((lanesOf (eff t0 cx)).map fun l => mkPiece l 0 4 (MemWord.va t0 cx x b l) (regBytes (regs.map fun r => readV t0 cx.w r) l))
    dest := .none }

/-- One reduction from each lane (R175, R324). -/
def MemWord.reduce (t0 : State) (cx : Cx) (x : VIn) (op : AtomOp) (d a b : BitVec 7) : MemWord :=
  { spec := { memSpec a with popD := some d }
    ready := wideMode cx.w.mode
    access := { mkAccess (.reduce op (etOf cx.w.mode)) .nowhere (eff t0 cx)
      ((lanesOf (eff t0 cx)).map fun l => mkPiece l 0 4 (MemWord.va t0 cx x b l) (leBytes 4 (lane (x.row 1) l).toNat)) with engine := 5 }
    dest := .none }

/-- A tile between memory and a fragment, at the address of the lowest active lane, a multiple of 1024 (R179, R313, R348). -/
def MemWord.tile (t0 : State) (cx : Cx) (x : VIn) (f : Fragment) (store : Bool) (d a b : BitVec 7) : MemWord :=
  let regs := (List.range (fragmentRegs f)).map fun i => d.toNat + i
  let t := MemWord.va t0 cx x b (lowLane (eff t0 cx))
  let data := regs.map fun r => readV t0 cx.w r
  { spec := if store then { memSpec a with extra := regs } else { memSpec a with more := regs }
    ready := t.toNat % 1024 == 0
    access := { mkAccess (if store then .store else .load) (if store then .nowhere else .rows d.toNat (fragmentRegs f)) (eff t0 cx)
      ((lanesOf (eff t0 cx)).flatMap fun l => (fragmentParts f (quadOfSlot cx.k) l).map fun p =>
        mkPiece l p.1 p.2.2 (t + BitVec.ofNat 64 p.2.1) (if store then ((regBytes data l).drop p.1).take p.2.2 else []))
      with engine := 3, tile := some t }
    dest := .none }

/-- The vector memory words. -/
def memWord (t0 : State) (cx : Cx) (x : VIn) : Instr → Option MemWord
  | .vldB d a b => some (MemWord.load t0 cx x 1 none d a b)
  | .vldH d a b => some (MemWord.load t0 cx x 2 none d a b)
  | .vldW d a b => some (MemWord.load t0 cx x 4 none d a b)
  | .vldD d a b => some (MemWord.load t0 cx x 8 none d a b)
  | .vldQ d a b => some (MemWord.load t0 cx x 16 none d a b)
  | .vstB d a b => some (MemWord.store t0 cx x 1 none d a b)
  | .vstH d a b => some (MemWord.store t0 cx x 2 none d a b)
  | .vstW d a b => some (MemWord.store t0 cx x 4 none d a b)
  | .vstD d a b => some (MemWord.store t0 cx x 8 none d a b)
  | .vstQ d a b => some (MemWord.store t0 cx x 16 none d a b)
  | .vldaWg d a b => some (MemWord.load t0 cx x 4 (some .wg) d a b)
  | .vstrWg d a b => some (MemWord.store t0 cx x 4 (some .wg) d a b)
  | .vldaDie d a b => some (MemWord.load t0 cx x 4 (some .die) d a b)
  | .vstrDie d a b => some (MemWord.store t0 cx x 4 (some .die) d a b)
  | .vldaPkg d a b => some (MemWord.load t0 cx x 4 (some .pkg) d a b)
  | .vstrPkg d a b => some (MemWord.store t0 cx x 4 (some .pkg) d a b)
  | .vldaDom d a b => some (MemWord.load t0 cx x 4 (some .dom) d a b)
  | .vstrDom d a b => some (MemWord.store t0 cx x 4 (some .dom) d a b)
  | .vatomWgAdd d a b => some (MemWord.atom t0 cx x .add d a b)
  | .vatomWgMin d a b => some (MemWord.atom t0 cx x .min d a b)
  | .vatomWgMax d a b => some (MemWord.atom t0 cx x .max d a b)
  | .vatomWgAnd d a b => some (MemWord.atom t0 cx x .and d a b)
  | .vatomWgOr d a b => some (MemWord.atom t0 cx x .or d a b)
  | .vatomWgXor d a b => some (MemWord.atom t0 cx x .xor d a b)
  | .vatomWgXchg d a b => some (MemWord.atom t0 cx x .xchg d a b)
  | .vatomWgCas d a b => some (MemWord.atom t0 cx x .cas d a b)
  | .vatomDieAdd d a b => some (MemWord.atom t0 cx x .add d a b)
  | .vatomDieMin d a b => some (MemWord.atom t0 cx x .min d a b)
  | .vatomDieMax d a b => some (MemWord.atom t0 cx x .max d a b)
  | .vatomDieAnd d a b => some (MemWord.atom t0 cx x .and d a b)
  | .vatomDieOr d a b => some (MemWord.atom t0 cx x .or d a b)
  | .vatomDieXor d a b => some (MemWord.atom t0 cx x .xor d a b)
  | .vatomDieXchg d a b => some (MemWord.atom t0 cx x .xchg d a b)
  | .vatomDieCas d a b => some (MemWord.atom t0 cx x .cas d a b)
  | .vatomPkgAdd d a b => some (MemWord.atom t0 cx x .add d a b)
  | .vatomPkgMin d a b => some (MemWord.atom t0 cx x .min d a b)
  | .vatomPkgMax d a b => some (MemWord.atom t0 cx x .max d a b)
  | .vatomPkgAnd d a b => some (MemWord.atom t0 cx x .and d a b)
  | .vatomPkgOr d a b => some (MemWord.atom t0 cx x .or d a b)
  | .vatomPkgXor d a b => some (MemWord.atom t0 cx x .xor d a b)
  | .vatomPkgXchg d a b => some (MemWord.atom t0 cx x .xchg d a b)
  | .vatomPkgCas d a b => some (MemWord.atom t0 cx x .cas d a b)
  | .vatomDomAdd d a b => some (MemWord.atom t0 cx x .add d a b)
  | .vatomDomMin d a b => some (MemWord.atom t0 cx x .min d a b)
  | .vatomDomMax d a b => some (MemWord.atom t0 cx x .max d a b)
  | .vatomDomAnd d a b => some (MemWord.atom t0 cx x .and d a b)
  | .vatomDomOr d a b => some (MemWord.atom t0 cx x .or d a b)
  | .vatomDomXor d a b => some (MemWord.atom t0 cx x .xor d a b)
  | .vatomDomXchg d a b => some (MemWord.atom t0 cx x .xchg d a b)
  | .vatomDomCas d a b => some (MemWord.atom t0 cx x .cas d a b)
  | .nmredAdd d a b => some (MemWord.reduce t0 cx x .add d a b)
  | .nmredMin d a b => some (MemWord.reduce t0 cx x .min d a b)
  | .nmredMax d a b => some (MemWord.reduce t0 cx x .max d a b)
  | .ldfA d a b => some (MemWord.tile t0 cx x .a false d a b)
  | .ldfB d a b => some (MemWord.tile t0 cx x .b false d a b)
  | .ldfC d a b => some (MemWord.tile t0 cx x .c false d a b)
  | .stfC d a b => some (MemWord.tile t0 cx x .c true d a b)
  | _ => none

/-- THE WORD PARKS ITS SPLIT on the lanes of its operation `o` that fault: the operation is attached to flag SA, and the split stands after
the word, parked on it (R138). -/
def ParksAfter (t : State) (cx : Cx) (pc : DWord) (w' : Warp) (o : Op) : Prop :=
  warpAt t cx.k = some w' ∧ w'.ops = cx.base.ops ++ [o] ∧ o.flag = cxFlag cx true
    ∧ ∃ sp, tget w'.splits cx.j = some sp ∧ sp.pc = pc ∧ sp.mask = cx.sp.mask ∧ sp.park = .access o.id

/-- The access of SLD, SLDD and SST, at the pair that bits 15 to 10 name plus 4 × the signed offset (R58, R343). -/
def scalarAccess (t0 : State) (cx : Cx) : Instr → Option Access
  | .sld x imm => some { mkAccess .load (.scalars x.toNat 1) (eff t0 cx) [mkPiece 0 0 4 (scalarVa t0 cx imm) []] with engine := 2 }
  | .sldd x imm => some { mkAccess .load (.scalars x.toNat 2) (eff t0 cx) [mkPiece 0 0 8 (scalarVa t0 cx imm) []] with engine := 2 }
  | .sst x imm => some { mkAccess .store .nowhere (eff t0 cx)
      [mkPiece 0 0 4 (scalarVa t0 cx imm) (leBytes 4 (readS t0 cx.w x.toNat).toNat)] with engine := 2 }
  | _ => none

/-- The index, the source and the destination code of VRGET and VRSET (R374, R375). -/
def moveOf (t0 : State) (cx : Cx) : Instr → Option (Nat × BitVec 7 × BitVec 7)
  | .vrget x imm =>
    let ix := (readS t0 cx.w x.toNat + BitVec.ofNat 32 (imm.toNat % 512)).toNat
    some (ix, BitVec.ofNat 7 ix, imm.extractLsb' 9 7)
  | .vrset x imm =>
    let ix := (readS t0 cx.w x.toNat + BitVec.ofNat 32 (imm.toNat % 512)).toNat
    some (ix, imm.extractLsb' 9 7, BitVec.ofNat 7 ix)
  | _ => none

/-! Matrix and heading words. -/

/-- The form and the operands of MMA, MMAC and MMAZ (R318, R319). -/
def matrixOf : Instr → Option (MatrixForm × BitVec 7 × BitVec 7 × BitVec 7)
  | .mma d a b => some (.plain, d, a, b)
  | .mmac d a b => some (.complex, d, a, b)
  | .mmaz d a b => some (.zero, d, a, b)
  | _ => none

/-- The components a lane gives to HCVTB and HROT: its low and its high half as BF16 (R295, R300). -/
def halvesOf (w : Word) : List FVal := [decodeF fBF16 (w.toNat % 2 ^ 16), decodeF fBF16 (w.toNat / 2 ^ 16)]

/-- The heading a heading word writes, its vector sources with the position of the first, 1 (b) for HROT, and the heading's value, from the
rows read in `x` (R35, R193, R293 to R295, R299 to R301, R303). -/
def headingOf (t0 : State) (cx : Cx) (x : VIn) : Instr → Option (BitVec 7 × Nat × List (BitVec 7) × HOut)
  | .hcvt d a b => some (d, 0, [a, b], renormFloats ((List.range 64).flatMap fun l =>
      if (eff t0 cx).getLsbD l then [decodeF fF32 (lane (x.row 0) l).toNat, decodeF fF32 (lane (x.row 1) l).toNat]
      else [.fin false 0 0, .fin false 0 0]))
  | .hcvtb d a _ => some (d, 0, [a], renormFloats ((List.range 64).flatMap fun l =>
      if (eff t0 cx).getLsbD l then halvesOf (lane (x.row 0) l) else [.fin false 0 0, .fin false 0 0]))
  | .hadd d a b => some (d, 0, [], addHeadings (readH cx.w a.toNat).val (readH cx.w b.toNat).val)
  | .hsub d a b => some (d, 0, [], addHeadings (readH cx.w a.toNat).val (negHeading (readH cx.w b.toNat).val))
  | .hneg d a _ => some (d, 0, [],
      ((readH cx.w a.toNat).cls, (readH cx.w a.toNat).codes.map negCode, (readH cx.w a.toNat).norm))
  | .hscl d a b => some (d, 0, [],
      let h := readH cx.w a.toNat
      let n := roundNE fF32 (addF .rne (decodeF fF32 h.norm.toNat) (decodeF fF32 (readS t0 cx.w b.toNat).toNat))
      match decodeF fF32 n with
      | .nan => nanHeading
      | .inf false => nanHeading
      | .inf true => zeroHeading
      | .fin _ _ _ => (h.cls, h.codes.map fun c => BitVec.ofInt 16 c, BitVec.ofNat 32 n))
  | .hrot d a b => some (d, 1, [b],
      match commonScale ((List.range 64).flatMap fun l =>
        if (eff t0 cx).getLsbD l then halvesOf (lane (x.row 0) l) else [FVal.fin false 1 0, FVal.fin false 0 0]) with
      | none => nanHeading
      | some (ps, q) =>
        match (readH cx.w a.toNat).val with
        | .nan => nanHeading
        | .zero => zeroHeading
        | .val c e =>
          renorm (HVec.rational ((List.range 64).flatMap fun l =>
            rotatePair (c.getD (2 * l) 0) (c.getD (2 * l + 1) 0) (ps.getD (2 * l) 0) (ps.getD (2 * l + 1) 0))
            (e.add { mant := q, exp := 0 })))
  | _ => none

/-- Both parts of a heading are on their way: the direction visible at `due1`, the norm at `due2`, in all lanes (R196). -/
def HeadingResult (w w' : Warp) (n : Nat) (h : HOut) (due1 due2 : Nat) : Prop :=
  ∃ p q : PendWrite, w'.pend = w.pend ++ [p, q] ∧ p.dest = .dir n ∧ p.payload = .dir { cls := h.1, codes := h.2.1 } ∧ p.due = due1
    ∧ p.lanes = BitVec.allOnes 64 ∧ q.dest = .norm n ∧ q.payload = .word h.2.2 ∧ q.due = due2 ∧ q.lanes = BitVec.allOnes 64

/-- The dot product of HDOT and HDOTN (R296, R297). -/
def dotOf (cx : Cx) : Instr → Option (BitVec 7 × Word)
  | .hdot d a b =>
    let x := readH cx.w a.toNat
    let y := readH cx.w b.toNat
    some (d, if x.cls = .nan ∨ y.cls = .nan then 0x7FC00000 else cosineF (dotCodes x.codes y.codes))
  | .hdotn d a b => some (d,
      match (readH cx.w a.toNat).val, (readH cx.w b.toNat).val with
      | .nan, _ => 0x7FC00000
      | _, .nan => 0x7FC00000
      | .val c e, .val c' e' => BitVec.ofNat 32 (scaleRound (dotCodes c c') (e.add e'))
      | _, _ => 0)
  | _ => none

/-! Calls, returns and slices (R201 to R207, R273, R274, R317, R333, R356). -/

/-- Nothing outstanding stands before the word of the split in focus: its own accesses follow none (R148, R151). -/
def quietSplit (cx : Cx) : Bool := cx.base.ops.all fun o => !o.before cx.j

/-- An operation, a deferred trap, a remote write but for the split it is of. -/
def Op.unnamed (o : Op) : Op := { o with split := 0, order := [] }
def DeferredTrap.unnamed (d : DeferredTrap) : DeferredTrap := { d with split := 0 }
def RemoteWrite.unnamed (r : RemoteWrite) : RemoteWrite := { r with split := 0 }

/-- THE WARP PARKS TO END (R282): of its other splits only those stay whose word is still to be replayed, their names among what is
outstanding are given up, its claims have left their quadrant's queue, no handler runs in it (the model's choice, entry 48), and nothing
else changes. -/
def Exits (s t : State) (cx : Cx) : Prop :=
  ∃ w' sp, warpAt t cx.k = some w' ∧ w'.park = some .exiting ∧ w'.parkSplit = cx.j
    ∧ tget w'.splits cx.j = some sp ∧ sp.pc = cx.sp.pc ∧ sp.mask = cx.sp.mask
    ∧ (∀ j sp, j ≠ cx.j → tget w'.splits j = some sp →
        ∃ o, tget cx.w.splits j = some o ∧ staysForReplay cx.base (j, o) = true ∧ sp.park = o.park ∧ sp.pc = o.pc ∧ sp.mask = o.mask)
    ∧ w'.ops.map Op.unnamed = cx.base.ops.map Op.unnamed
    ∧ w'.deferred.map DeferredTrap.unnamed = cx.w.deferred.map DeferredTrap.unnamed
    ∧ w' = { cx.base with
        splits := w'.splits, groups := w'.groups, park := some .exiting, parkSplit := cx.j, parkOrder := w'.parkOrder, handler := none
        ops := w'.ops, deferred := w'.deferred }
    ∧ (∀ k, k ≠ cx.k → warpAt t k = warpAt s k)
    ∧ t.remotes.map RemoteWrite.unnamed = s.remotes.map RemoteWrite.unnamed
    ∧ ((quadAt t (coreOfSlot cx.k) (quadOfSlot cx.k)).claims.all fun r => decide (r.slot ≠ some cx.k)) = true
    ∧ SlotFrame (setQuad { s with remotes := t.remotes } (coreOfSlot cx.k) (quadOfSlot cx.k)
        { quadAt s (coreOfSlot cx.k) (quadOfSlot cx.k) with
          claims := (quadAt s (coreOfSlot cx.k) (quadOfSlot cx.k)).claims.filter fun r => decide (r.slot ≠ some cx.k) }) t

/-- The state once the split in focus has parked at its RJOIN (R84). -/
def atJoin (s : State) (cx : Cx) : State :=
  updSplit (useScalar (unpark s cx) cx.k) cx.k cx.j fun sp => { sp.issued s.now with park := .rjoin sp.pc, latches := noLatches }

/-- THE RJOIN OF A SERIALISED DIVISION (R85, R389): the split in focus is its warp's only one, its innermost division is serialised, `r`
is that division's record, on top, and its 16 bytes are read, which gives `bs` and `s1`. -/
structure SerialJoin (s s1 : State) (cx : Cx) (r : SpillRec) (bs : List Byte) : Prop where
  free : joinForbidden cx = false
  only : cx.w.splits = [(cx.j, cx.sp)]
  inner : ∃ d, cx.sp.inner = some d ∧ d.serial = true ∧ d.id = r.id
  top : cx.w.spills.getLast? = some r
  quiet : quietSplit cx = true
  read : loadNow (atJoin s cx) (cx.req .load .plain) (spillVa cx.w (cx.w.spills.length - 1)) 16 = .ok (bs, s1)
  awake : asleep (atJoin s cx) (slicesOf (atJoin s cx) (cx.req .load .plain) (spillVa cx.w (cx.w.spills.length - 1)) 16) = false

/-- WHAT SPLITS OF THE WARP HAVE OUTSTANDING GOES ON UNDER OTHER NAMES, as `f` says (R229): its operations, deferred traps and remote
writes, from the warp `w` of slot `k` in state `s` to `w'` in `t`. -/
structure Renames (k : Nat) (f : Nat → Nat) (w w' : Warp) (s t : State) : Prop where
  ops : w'.ops = w.ops.map fun o => { o with split := f o.split }
  deferred : w'.deferred = w.deferred.map fun d => { d with split := f d.split }
  remotes : t.remotes = s.remotes.map fun r => if r.slot = k then { r with split := f r.split } else r

/-- The names after split `n` has left the record `r`, if it was there, for entry `j`, whose own became `gone` before (R229, R389). -/
def SpillRec.names (r : SpillRec) (j : Nat) (i : Nat) : Nat := if r.joinAt.isSome ∧ i = r.owner then j else i

/-- The brew slots whose presence divergence has deferred: those of its writes, and with XREL its whole block (R99, R384). -/
def deferredSlots (s : State) (cx : Cx) : List Nat :=
  cx.w.deferPresence ++ if cx.w.deferXrel then ownSlots s cx.k cx.w else []

/-- A write of the warp to one of these brew slots is outstanding. -/
def Warp.writing (w : Warp) (sl : Nat) : Bool := (w.pend.any fun p => decide (p.dest = .brew sl)) || w.ops.any fun o => o.fills sl

/-- DEFERRED PRESENCE IS SET (R99, R335, R384): at once for a brew slot to which no write is outstanding, by that write for the others; no
other slot's presence changes, and nothing stays deferred. -/
structure PresenceSet (s t : State) (cx : Cx) (w' : Warp) : Prop where
  done : w'.deferPresence = [] ∧ w'.deferXrel = false
  pend : w'.pend = cx.w.pend.map fun p =>
    if (deferredSlots s cx).any fun sl => decide (p.dest = .brew sl) then { p with present := true } else p
  ops : w'.ops.map Op.unnamed = cx.base.ops.map fun o =>
    (if (deferredSlots s cx).any fun sl => o.fills sl then { o with present := true } else o).unnamed
  now : ∀ sl, sl < 256 → (coreAt t (coreOfSlot cx.k)).presence.getLsbD sl
    = ((coreAt s (coreOfSlot cx.k)).presence.getLsbD sl || ((deferredSlots s cx).contains sl && !cx.base.writing sl))
  rest : t = { s with warps := t.warps, cores := t.cores, nextId := t.nextId, remotes := t.remotes }
  cores : ∀ c, { coreAt t c with
    quads := (coreAt s c).quads, presence := if c = coreOfSlot cx.k then (coreAt s c).presence else (coreAt t c).presence } = coreAt s c
  quads : OnlySlots s t

/-- The only split of a warp whose innermost division is serialised loses its last lanes by EXITL (R89, R389): `r` is that division's
record, on top, in slices that run; its 16 bytes are read, which gives `bs` and `s1`. -/
structure SerialExit (s s1 : State) (cx : Cx) (r : SpillRec) (bs : List Byte) (d : Division) (rest : List Division) : Prop where
  all : cx.sp.mask &&& ~~~(eff s cx) = 0
  only : cx.w.splits = [(cx.j, cx.sp)]
  path : cx.sp.path = d :: rest ∧ d.serial = true ∧ d.id = r.id
  top : cx.w.spills.getLast? = some r
  quiet : quietSplit cx = true
  read : loadNow (updWarp (useScalar (unpark s cx) cx.k) cx.k fun w => { w with exited := w.exited ||| eff s cx })
    (cx.req .load .plain) (spillVa cx.w (cx.w.spills.length - 1)) 16 = .ok (bs, s1)
  awake : asleep s1 (slicesOf s1 (cx.req .load .plain) (spillVa cx.w (cx.w.spills.length - 1)) 16) = false

/-- The lanes of a record that its division still has (R284, R389). -/
def SpillRec.lanes (r : SpillRec) (w : Warp) (bs : List Byte) : Mask := BitVec.ofNat 64 (field bs 0 8) &&& r.mask &&& ~~~w.exited

/-- What a word that pushes a frame pushes, whether it may, and where it goes: to a target, or to the next word (R201, R273, R274,
R317). -/
structure PushWord where
  ready : Bool
  rpc : DWord
  markw : Word
  target : Option DWord

/-- CALL, CALLI and MARK. -/
def pushOf (t0 : State) (cx : Cx) : Instr → Option PushWord
  | .call x imm =>
    let t := cx.sp.pc + imm.signExtend 64 * 4
    some ⟨lastInClause cx (.call x imm) && !unbound t0 cx t, cx.sp.pc + 4, 0, some t⟩
  | .calli x imm =>
    let t := readPair t0 cx.w x.toNat + imm.signExtend 64 * 4
    some ⟨lastInClause cx (.calli x imm) && t.toNat % 4 == 0 && !unbound t0 cx t, cx.sp.pc + 4, 0, some t⟩
  | .mark x imm =>
    let off := readS t0 cx.w x.toNat
    some ⟨off.toNat % 4 == 0 && cx.w.iter.isNone, cx.sp.pc + off.signExtend 64, 0x80000000 + imm.setWidth 32, none⟩
  | _ => none

/-- The state once RET has popped the frame `f` (R201, R333). -/
def popped (s : State) (cx : Cx) (f : Frame) : State :=
  updWarp s cx.k fun w =>
    (({ w.putS 61 (fbOf cx.w) with mode := savedMode f.mode }).putS 60 (fbOf cx.w - f.link)).updSplit cx.j fun sp =>
      { sp with mask := restoredMask cx.w cx.j f.mask }

/-- A RET MEETS THE FRAME OF A LANE-GROUP CALL (R87): the word's context `c` after the frame `f` is popped, the VCALLI at the return PC
less 1 with its operands, its record at `rec0` with the target `g` last gone to and the called lanes, and the offsets as they stand;
`s5` is the state then. -/
structure GroupReturn (s2 s5 : State) (cx c : Cx) (f : Frame) (d a b : BitVec 7) (rec0 : Word) (bs : List Byte) (row : Row) : Prop where
  ctx : ∃ c1, cxAt (popped s2 cx f) cx.k cx.j = some c1 ∧ c = { c1 with sp := { c1.sp with pc := cx.sp.pc, clause := cx.sp.clause } }
  legal : legal (.vcalli d a b) = true
  place : rec0 = stOf c.w - BitVec.ofNat 32 (if 112 ≤ a.toNat ∧ a.toNat < 120 then 272 else 16)
  reads : ∃ word s3 s4, fetchWord (popped s2 cx f) c (f.rpc - 1) = .ok (word, s3) ∧ decodeWord word = .vcalli d a b
    ∧ stackLoad s3 c (stackVa c.w rec0) 16 = .ok (bs, s4) ∧ laterOffsets s4 c (f.rpc - 1) a rec0 = .ok (row, s5)

/-- The lanes called that have not left and are in no other split (R87). -/
def calledLanes (c : Cx) (bs : List Byte) : Mask := BitVec.ofNat 64 (field bs 8 8) &&& ~~~c.w.exited &&& ~~~(otherLanes c.w c.j)

/-- The target of a lane of a lane-group call (R57, R87). -/
def groupTarget (s : State) (c : Cx) (b : BitVec 7) (row : Row) (l : Nat) : DWord := readPair s c.w b.toNat + (lane row l).signExtend 64

/-- A scalar register of a warp that a word leaves alone. -/
def SameScalars (w w' : Warp) (written : List Nat) : Prop := ∀ n, n ∉ written → w'.s.getD n 0 = w.s.getD n 0

/-- The slice header CUT writes: `r` is its walk, `origin` the lowest frame (R204, R205). -/
def cutHeader (t0 : State) (cx : Cx) (imm : Half) (r : CutWalk) (origin : Word) : SliceHeader :=
  { asid := cx.w.asid, frames := r.count, tag := imm, size := (stOf cx.w - origin).toNat, fboff := fbOf cx.w - origin
    origin := stackVa cx.w origin, resume := clauseEnd cx.sp, mask := cx.sp.mask
    sreg := (List.range 16).map fun n => readS t0 cx.w (16 + n), mode := cx.w.mode }

/-! Barriers, batches, engines, casks and counters. -/

/-- The barrier, the count and whether it waits, of BARA, BARAW and BARWG (R260 to R264). -/
def arrivalOf : Instr → Option (Nat × Nat × Bool)
  | .bara _ imm => some (imm.toNat % 16, imm.toNat / 16 % 128, false)
  | .baraw _ imm => some (imm.toNat % 16, imm.toNat / 16 % 128, true)
  | .barwg _ _ => some (16, 0, true)
  | _ => none

/-- The open phase of a barrier with one more arrival, the first of which fixes the count (R261). -/
def arrivedBarrier (x : Barrier) (index n : Nat) : Barrier :=
  { x with count := if x.arrived = [] then n else x.count, arrived := x.arrived ++ [index] }

/-- The phase is complete: every live warp has arrived where the count is 0, else as many as the count (R261). -/
def phaseFull (g : Workgroup) (x : Barrier) : Prop :=
  if x.count = 0 then ∀ e ∈ g.warps, e.1 ∈ x.arrived else x.arrived.length = x.count

/-- The class and the register of a BATCH word (R265). -/
def batchOf : Instr → Option (EngineClass × Nat)
  | .batchK x _ => some (.K, x.toNat)
  | .batchA x _ => some (.A, x.toNat)
  | .batchN x _ => some (.N, x.toNat)
  | .batchG x _ => some (.G, x.toNat)
  | _ => none

/-- The class and the register of a WAITB word (R381). -/
def waitbOf : Instr → Option (EngineClass × Nat)
  | .waitbK x _ => some (.K, x.toNat)
  | .waitbA x _ => some (.A, x.toNat)
  | .waitbN x _ => some (.N, x.toNat)
  | .waitbG x _ => some (.G, x.toNat)
  | _ => none

/-- KST packs, KLD expands; the register of the record's address (R305, R309). -/
def kilnOf : Instr → Option (Bool × Nat)
  | .kld x _ => some (false, x.toNat)
  | .kst x _ => some (true, x.toNat)
  | _ => none

/-- The operation of a Lantern word and the register of its record's address (R310, R312, R314, R315). -/
def lanternOf : Instr → Option (LanternOp × Nat)
  | .lqry x _ => some (.query, x.toNat)
  | .lapp x _ => some (.append, x.toNat)
  | .lctl x _ => some (.control, x.toNat)
  | .lpf x _ => some (.hint, x.toNat)
  | _ => none

/-- The word has attached one operation that holds its split until the flag clears, and goes on (R47, R165, R219). -/
def Attached (cx : Cx) (w' : Warp) (o : Op) : Prop :=
  w'.ops = cx.w.ops ++ [o] ∧ o.flag = cxFlag cx true ∧ o.blocks = true ∧ o.split = cx.j

/-- No warp of the package is parked on cask `c`. -/
def caskQuiet (s : State) (c : Nat) : Prop := ∀ e ∈ s.warps, ∀ ws, e.2.park ≠ some (.cask c ws)

/-- A cask word is done: of the warp its operation, its place and its park have changed, of the package cask `c` and times; the core is
no longer idle (R258). -/
structure CaskFrame (s t : State) (cx : Cx) (c : Nat) (w' : Warp) : Prop where
  warp : w' = { cx.base with
    splits := w'.splits, groups := w'.groups, ops := w'.ops, park := w'.park, parkSplit := w'.parkSplit, parkOrder := w'.parkOrder }
  casks : ∀ d, d ≠ c → caskAt t d = caskAt s d
  rest : t = { s with warps := t.warps, cores := t.cores, casks := t.casks, times := t.times, nextId := t.nextId }
  cores : ∀ d, { coreAt t d with quads := (coreAt s d).quads, idleSince := (coreAt s d).idleSince, gatedAt := (coreAt s d).gatedAt
                                 wakeAt := (coreAt s d).wakeAt } = coreAt s d
  quads : OnlySlots s t

/-- THE WARP WAITS ON A CASK (R29, R214): its split stands before the word, latches are empty, and the record it pushes, if any, is
kept; the cask's core is no longer idle (R258), and nothing else changes. -/
def WaitsOn (s t : State) (cx : Cx) (c : Nat) (ws : List Word) : Prop :=
  ∃ w' sp, warpAt t cx.k = some w' ∧ w'.park = some (.cask c ws) ∧ w'.parkSplit = cx.j ∧ tget w'.splits cx.j = some sp
    ∧ sp.pc = cx.sp.pc ∧ sp.mask = cx.sp.mask ∧ sp.park = .running
    ∧ (∀ j q, tget w'.splits j = some q → q.latches = noLatches)
    ∧ w' = { cx.base with
        splits := w'.splits, groups := w'.groups, park := w'.park, parkSplit := cx.j, parkOrder := w'.parkOrder }
    ∧ (∀ k, k ≠ cx.k → warpAt t k = warpAt s k) ∧ SlotFrame (wakeCore s (c / 4)) t

/-- A cask or counter word finds its unit: named by S[x], present, of the tenancy, its core running (R212, R214, R215, R258). -/
structure Reaches1 (s : State) (cx : Cx) (x : BitVec 6) (n per : Nat) : Prop where
  name : (readS s cx.w x.toNat).toNat = n
  own : inCoreSet s cx.w.ten (n / per) = true
  runs : running s (n / per) = true

/-! Traps (R227 to R233). -/

/-- The slot rule, class and INFO of a word whose effect is a trap (R78, R227, R350). -/
def trapWordOf : Instr → Option (IssueRule × TrapClass × Word)
  | .svc _ imm => some (.scalar, .svc, imm.setWidth 32)
  | .unassignedOpcode w => some (unassignedRule w, .und, w)
  | .undefinedClassH w => some (.scalar, .und, w)
  | _ => none

/-- The state in which a word of the split traps, `s` being the state with its literals read: its slot is used, and it has issued
(R25, R26, R78). -/
def trapState (rule : IssueRule) (s : State) (cx : Cx) : State := markIssued (spendSlot rule s cx) cx

/-- The warp that a trap of the split interrupts: its waits are given up, and results for S0 and S1 are visible (R228, R231). -/
def interrupted (s : State) (cx : Cx) : State := interruptWarp s cx.k cx.j

/-- A WARP STARTS in the stack region at `start`, which lies in its workgroup's block at `block`, with `slen` bytes of frames (R22, R94,
R190, R230, R244): the frame registers and the service stack stand in that region, every row of its allotment is zero, its headings hold the
zero code, its predicates are zero, and nothing of it is pending. -/
structure StartsAt (w : Warp) (block start : DWord) (slen : Nat) : Prop where
  fb : w.s.getD 60 0 = start.setWidth 32 + 1536 - 32
  st : w.s.getD 61 0 = start.setWidth 32 + 1536
  sbase : w.s.getD 62 0 = start.setWidth 32 + 1536 ∧ w.sbase = start.setWidth 32 + 1536
  slim : w.s.getD 63 0 = start.setWidth 32 + 1536 + BitVec.ofNat 32 slen
  service : w.stkhi = block.extractLsb' 32 32 ∧ w.svsp = start.setWidth 32 ∧ w.service = false ∧ w.handler = none
  rows : w.v.length = 8 * w.allot ∧ ∀ row ∈ w.v, row = List.replicate 64 0
  headings : w.dirs = List.replicate 16 { cls := .zero, codes := List.replicate 128 0 }
  norms : w.norms = List.replicate 16 0xFF800000
  preds : w.p = List.replicate 8 0
  flags : w.ops = [] ∧ w.pend = []
  whole : w.groups = [] ∧ w.spills = [] ∧ w.deferPresence = [] ∧ w.deferXrel = false
  running : w.park = none ∧ w.bkpt = none ∧ w.deferred = []

/-- NO TRAP OF SPLIT `j` CAN BE TAKEN NOW: the warp waits on the trap ring, another split's handler runs, or the split stands outside the
exclusive group that holds the warp (R86, R231). That such a trap waits till it can be taken is the model's choice (entry 22). -/
def Barred (w : Warp) (j : Nat) : Prop :=
  (∃ q, w.park = some (.trapRing q)) ∨ (∃ h, w.handler = some h ∧ h ≠ j)
    ∨ w.park ≠ some .exiting ∧ ∃ sp, (j, sp) ∈ w.splits ∧ sp.group ≠ w.groups.length

/-- SPLIT `j` CAN TAKE THE DEFERRED TRAP `d` (R229): where the warp waits at EXIT, the split that waits there; else the split that issued
the failing word, be it a taken side that a record holds; else the live split with the lowest index. It stands at an instruction boundary:
no word of it waits for its own operation, none of its accesses for a replay, and it runs or waits for a word it makes again. -/
structure CanTake (w : Warp) (d : DeferredTrap) (j : Nat) : Prop where
  exit : w.park = some .exiting → j = w.parkSplit
  own : w.park ≠ some .exiting → (∃ sp, tget w.splits d.split = some sp) ∨ (∃ r ∈ w.spills, r.joinAt ≠ none ∧ r.owner = d.split) →
    j = d.split
  lowest : w.park ≠ some .exiting → tget w.splits d.split = none → (∀ r ∈ w.spills, r.joinAt ≠ none → r.owner ≠ d.split) →
    ∀ e ∈ w.splits, j ≤ e.1
  free : ¬ Barred w j
  done : ∀ o ∈ w.ops, o.split = j → o.blocks = false
  replayed : w.faultBefore j = false
  runs : ∃ sp, tget w.splits j = some sp
    ∧ (sp.park = .running ∨ sp.park = .presence ∨ (∃ f, sp.park = .fault f) ∨ ∃ f, sp.park = .fence f)

/-- THE DEFERRED TRAP `n` IS THE NEXT, and split `j` takes it (R229): the warp stands where a deferred trap may interrupt it, with no
breakpoint noted, and of those that can be taken it has the lowest class, the earliest of that class. -/
structure NextDeferred (w : Warp) (n : Nat) (d : DeferredTrap) (j : Nat) : Prop where
  park : w.park = none ∨ (∃ c, w.park = some (.keg c)) ∨ (∃ b p, w.park = some (.arrival b p)) ∨ w.park = some .wake
    ∨ w.park = some .exiting
  bkpt : w.bkpt = none
  at? : w.deferred[n]? = some d
  takes : CanTake w d j
  first : ∀ m d' j', w.deferred[m]? = some d' → CanTake w d' j' →
    classNo d.trap.cls < classNo d'.trap.cls ∨ classNo d.trap.cls = classNo d'.trap.cls ∧ n ≤ m

/-- A TRAP CAN BE ENTERED in state `s`: nothing bars it in the warp (R86, R231), the interrupted warp is that of the context `cx'`, the
tenancy has handlers, the service stack has room, and the frame's store translates and is made, a REMOTE one sent, which gives `s2` (R161,
R228, R231, R232). -/
structure TrapRoom (s : State) (cx cx' : Cx) (tn : Tenancy) (t : Trap) (pc npc hdr : DWord) (deferred : Bool) (s2 : State) : Prop where
  free : ∀ w, warpAt s cx.k = some w → ¬ Barred w cx.j
  ctx : cxAt (interrupted s cx) cx.k cx.j = some cx'
  ten : tenAt s cx'.w.ten = some tn
  handlers : tn.tvb ≠ 0
  room : cx'.w.svsp.toNat + 64 ≤ (cx'.w.sbase - 512).toNat
  store : ∃ cs u, storeNow (interrupted s cx) { cx'.req .store .plain with svc := true } (cx'.w.stkhi ++ cx'.w.svsp)
      (frameBytes cx' t pc npc hdr deferred false 0) = .ok (cs, u)
    ∧ s2 = sentRemote u cx' pc t.lanes (cx'.w.stkhi ++ cx'.w.svsp) cs

/-- THE TRAP IS ENTERED: S0 and S1 hold the frame's address, SVSP is past the frame, MODE is 0, the warp is in service mode with this
split in the handler, at TVB + 64 × class; nothing else of the warp has changed, and beside the warp only the frame is stored. -/
def TrapTaken (cx cx' : Cx) (tn : Tenancy) (c : TrapClass) (s2 t : State) : Prop :=
  ∃ w' sp, warpAt t cx.k = some w' ∧ tget w'.splits cx.j = some sp ∧ sp.pc = tn.tvb + BitVec.ofNat 64 (64 * classNo c)
    ∧ sp.park = .running ∧ sp.clause = none ∧ sp.resumeAt = none ∧ sp.mask = cx'.sp.mask
    ∧ (∀ j, j ≠ cx.j → tget w'.splits j = tget cx'.w.splits j)
    ∧ w' = { cx'.w with
        s := (cx'.w.s.set 0 cx'.w.svsp).set 1 cx'.w.stkhi, svsp := cx'.w.svsp + 64, service := true, mode := 0, handler := some cx.j
        splits := w'.splits, bG := w'.bG }
    ∧ (∀ k, k ≠ cx.k → warpAt t k = warpAt s2 k) ∧ t = { s2 with warps := t.warps }

/-- The slot a word takes (R25, R55, R78, R233). -/
def slotFits (w : Word) : IssueRule → Prop
  | .vector _ => vectorSlot w = true
  | _ => vectorSlot w = false

/-- THE WORD `i` OF THE SPLIT TRAPS with `t`, PC at the word and NPC past its `n` literals: wherever that trap can be entered, the
word uses its slot, has no effect of its own, and the trap is taken; `u` is the state with the word's literals read (R41, R231, R232). -/
def Traps (i : Instr) (s u : State) (cx : Cx) (n : Nat) (t : Trap) : Prop :=
  ∃ rule, slotFits ((encodeWord i).getD 0) rule ∧ ∀ cx' tn s2,
    TrapRoom (trapState rule u cx) cx cx' tn t cx.sp.pc (nextPc cx n) (hdrFor cx.sp (nextPc cx n)) false s2 →
    ∃ r, exec i s = .next r ∧ TrapTaken cx cx' tn t.cls s2 r

/-- A CLAUSE START TRAPS with `t` at the address `pc` that it fetched from (R46, R233): wherever that trap can be entered it is taken, with
PC, NPC and HDR that address; `u` is the state with the word read. -/
def StartTraps (s u : State) (cx : Cx) (pc : DWord) (t : Trap) : Prop :=
  ∀ cx' tn s2, TrapRoom (updSplit u cx.k cx.j fun sp => { sp with wakeAt := u.now + 1 }) cx cx' tn t pc pc pc false s2 →
    ∃ r, exec .clauseStart s = .next r ∧ TrapTaken cx cx' tn t.cls s2 r

/-- THE SPLIT STANDS IN THE CLAUSE whose header, at `addr`, is `hw`, at the word at `pc`, with `left` words left, of which it holds `ws`:
of its warp nothing else changes, and beside the warp only what the fetches did, which led to `s2` (R45, R46, R198). -/
def StandsIn (s s2 t : State) (cx : Cx) (addr : DWord) (hw : Word) (pc : DWord) (left : Nat) (ws : List Word) : Prop :=
  ∃ w' sp, warpAt t cx.k = some w' ∧ tget w'.splits cx.j = some sp ∧ sp.pc = pc
    ∧ sp.clause = some { addr := addr, word := hw, left := left, held := ws } ∧ ws.length ≤ left
    ∧ sp.resumeAt = none ∧ sp.mask = cx.sp.mask ∧ sp.path = cx.sp.path
    ∧ sp.park = .running ∧ w' = { cx.w with splits := w'.splits } ∧ (∀ j, j ≠ cx.j → tget w'.splits j = tget cx.w.splits j)
    ∧ (∀ k, k ≠ cx.k → warpAt t k = warpAt s k) ∧ AccessFrame s s2 ∧ t = { s2 with warps := t.warps, times := t.times }

/-- The lanes a word runs in: MODE and TRET run in all lanes of their split whatever its guard (R55, R233). -/
def lanesFor (s : State) (cx : Cx) : Instr → Mask
  | .mode _ _ => cx.sp.mask
  | .tret _ _ => cx.sp.mask
  | _ => eff s cx

/-- The mode lets the memory word issue (R175, R362). -/
def MemWord.typed (m : MemWord) (mode : Half) : Bool :=
  match m.access.kind with
  | .atomic op _ => !atomTyped op || wideMode mode
  | .reduce _ _ => wideMode mode
  | _ => true

/-- Rows that stand for operands not read. -/
def VIn.unread (s : State) : VIn := { rows := [], dest := .none, stalls := 0, s := s }

/-- What a vector word names, where its mode lets it issue: of `rowWord`, of `memWord`, and the special functions. -/
def operandSpec (t0 : State) (cx : Cx) (i : Instr) : Option VSpec :=
  match rowWord cx (eff t0 cx) (VIn.unread t0) i, memWord t0 cx (VIn.unread t0) i, sfuOf i with
  | some r, _, _ => if r.legal then some r.spec else none
  | none, some m, _ => if m.typed cx.w.mode then some m.spec else none
  | none, none, some (d, a, b, _) =>
    if f32Mode cx.w.mode then some { VSpec.unary d a b with port := some .sfu, long := some false } else none
  | none, none, none => none

/-- The clause names a flag for the word, if it needs one (R47, R48). -/
def VSpec.flagged (v : VSpec) (cx : Cx) : Prop := ∀ mem, v.long = some mem → (cxFlag cx mem).isSome = true

/-- The static registers a word names: by its sources, a data field, its destination, and the registers above (R33). -/
def VSpec.regs (v : VSpec) : List Nat := (v.srcs ++ v.popD.toList).flatMap codeReg ++ v.extra ++ v.dst.toList.flatMap codeReg ++ v.more

/-- The kegs a word names (R37). -/
def VSpec.kegs (v : VSpec) : List Nat := (v.srcs ++ v.popD.toList).flatMap codeKeg ++ v.dst.toList.flatMap codeKeg

/-- WHAT A VECTOR WORD'S NAMES STOP IT WITH, in this order: its clause names no flag of its class (R48), a static register lies
beyond the allotment (R33), a keg is not configured (R37). -/
inductive NameTrap (i : Instr) (v : VSpec) (cx : Cx) : TrapClass → Word → Prop where
  | clause (mem : Bool) (w : Word) : v.long = some mem → cxFlag cx mem = none → encodeWord i = some w → NameTrap i v cx .clause w
  | regbound (n : Nat) : v.flagged cx → v.regs.find? (fun r => decide (8 * cx.w.allot ≤ r)) = some n →
      NameTrap i v cx .regbound (BitVec.ofNat 32 n)
  | queue (k : Nat) : v.flagged cx → (∀ r ∈ v.regs, r < 8 * cx.w.allot) → v.kegs.find? (fun k => decide ((kegAt cx.g k).cap = 0)) = some k →
      NameTrap i v cx .queue (BitVec.ofNat 32 k)

/-- A word of class S that needs flag SA: its register, and the alignment of the address it names, 1 where it does not check one. -/
def flaggedWord : Instr → Option (Nat × Nat)
  | .sld x _ => some (x.toNat, 1)
  | .sldd x _ => some (x.toNat, 1)
  | .sst x _ => some (x.toNat, 1)
  | .kld x _ => some (x.toNat, 64)
  | .kst x _ => some (x.toNat, 64)
  | .qpush x _ => some (x.toNat, 1)
  | .qpop x _ => some (x.toNat, 1)
  | .qtry x _ => some (x.toNat, 1)
  | .cut x _ => some (x.toNat, 8)
  | .lqry x _ => some (x.toNat, 64)
  | .lapp x _ => some (x.toNat, 64)
  | .lctl x _ => some (x.toNat, 64)
  | .lpf x _ => some (x.toNat, 64)
  | _ => none

/-- The register by which a word names a cask (R214). -/
def caskOf : Instr → Option Nat
  | .qpush x _ => some x.toNat
  | .qpop x _ => some x.toNat
  | .qtry x _ => some x.toNat
  | _ => none

/-- The register by which a word names a counter (R215). -/
def counterOf : Instr → Option Nat
  | .dcset x _ => some x.toNat
  | .dcdec x _ => some x.toNat
  | .dcatt x _ => some x.toNat
  | _ => none

/-- The word finds the stack at a limit: CALL has no room for a header, ENTER asks for more than there is, RET stands
in the base frame (R201). -/
def stackStops (s : State) (cx : Cx) : Instr → Prop
  | .call x imm => lastInClause cx (.call x imm) = true ∧ isBinding s cx.w.ten (cx.sp.pc + imm.signExtend 64 * 4) = false
      ∧ (slimOf cx.w).toNat < (stOf cx.w).toNat + 32
  | .enter _ imm => (slimOf cx.w).toNat < (fbOf cx.w + 32 + imm.setWidth 32).toNat
      ∨ (fbOf cx.w + 32 + imm.setWidth 32).toNat < (fbOf cx.w).toNat
  | .ret _ _ => inBase cx.w = true
  | _ => False

/-! Events. -/

/-- One result is visible in the warp: in the registers of `w'` it stands at its destination, in the lanes `m`, and every other register
is that of `w` (R51). -/
structure Shown (w w' : Warp) (d : Dest) (x : Payload) (m : Mask) : Prop where
  s : ∀ i, i < w.s.length → w'.s.getD i 0 = match d, x with
    | .s n, .word y => if i = n then y else w.s.getD i 0
    | _, _ => w.s.getD i 0
  v : ∀ i l, i < w.v.length → l < 64 → lane (w'.v.getD i zeroRow) l = match d, x with
    | .v n, .row r => if i = n ∧ m.getLsbD l = true then lane r l else lane (w.v.getD i zeroRow) l
    | _, _ => lane (w.v.getD i zeroRow) l
  p : ∀ i l, i < w.p.length → l < 64 → (w'.p.getD i 0).getLsbD l = match d, x with
    | .p n, .mask y => if i = n ∧ m.getLsbD l = true then y.getLsbD l else (w.p.getD i 0).getLsbD l
    | _, _ => (w.p.getD i 0).getLsbD l
  dirs : ∀ i, i < w.dirs.length → w'.dirs.getD i zeroDirection = match d, x with
    | .dir n, .dir y => if i = n then y else w.dirs.getD i zeroDirection
    | _, _ => w.dirs.getD i zeroDirection
  norms : ∀ i, i < w.norms.length → w'.norms.getD i 0 = match d, x with
    | .norm n, .word y => if i = n then y else w.norms.getD i 0
    | _, _ => w.norms.getD i 0

/-- Of a warp only its registers, its results to come, its operations and the latches of its splits may differ. -/
def OnlyRegisters (w w' : Warp) : Prop :=
  w' = { w with
    s := w'.s, v := w'.v, p := w'.p, dirs := w'.dirs, norms := w'.norms, pend := w'.pend, ops := w'.ops, splits := w'.splits }

/-- Every warp but that of slot `k` has its registers; matrix operations that read a written register, and latches, may differ (R35,
R183). -/
def OtherRegisters (s t : State) (k : Nat) : Prop :=
  ∀ j v, j ≠ k → warpAt s j = some v → ∃ v', warpAt t j = some v' ∧ v' = { v with ops := v'.ops, splits := v'.splits }

/-- The event of an outstanding operation whose results are known: a performed access, or a result known at issue (R138, R373). -/
def completionOf (k : Nat) (o : Op) : Option Instr :=
  match o.kind with
  | .access a => if a.performed then some (.memoryAccessComplete k o.id) else none
  | .write _ _ => some (.sfuComplete k o.id)
  | _ => none

/-- The results `outs` are visible in the lanes `m`, each once, and no other register has changed. -/
structure ShownAll (w w' : Warp) (outs : List (Dest × Payload)) (m : Mask) : Prop where
  s : ∀ n y, (.s n, .word y) ∈ outs → n < w.s.length → w'.s.getD n 0 = y
  sOther : ∀ n, (∀ e ∈ outs, e.1 ≠ .s n) → w'.s.getD n 0 = w.s.getD n 0
  v : ∀ n r l, (.v n, .row r) ∈ outs → n < w.v.length → l < 64 →
    lane (w'.v.getD n zeroRow) l = if m.getLsbD l then lane r l else lane (w.v.getD n zeroRow) l
  vOther : ∀ n, (∀ e ∈ outs, e.1 ≠ .v n) → w'.v.getD n zeroRow = w.v.getD n zeroRow

/-- The bytes from `loc` on are `bs`, and every other byte of memory is as it was. -/
def Stored (s t : State) (loc : Nat) (bs : List Byte) : Prop :=
  ∀ a, memByte t.mem a = if loc ≤ a ∧ a < loc + bs.length then bs.getD (a - loc) 0 else memByte s.mem a

/-- Every sector of the bytes is under the key (R146). -/
def UnderKey (s : State) (key : Option (Nat × Nat)) (loc n : Nat) : Prop := ∀ i, i < n → tget s.sectorKeys ((loc + i) / 64) = key

/-- None of the `n` bytes from `loc` on is marked uncorrectable (R229). -/
def Unmarked (s : State) (loc n : Nat) : Prop := ∀ a ∈ s.poison, ¬ (loc ≤ a ∧ a < loc + n)

/-- AN ACCESS OF ONE PIECE IS READY TO BE PERFORMED HERE: it is the operation `o` of slot `k`, its piece `p` is translated to `x` and not
done, no earlier access of its split holds it back, its slice runs, and no counter counts it (R142, R151, R258). -/
structure OnePiece (s : State) (k : Nat) (w : Warp) (o : Op) (a : Access) (p : Piece) (x : Xlat) : Prop where
  warp : warpAt s k = some w
  op : w.ops.find? (fun e => decide (e.id = o.id)) = some o
  kind : o.kind = .access a
  pending : a.performed = false
  pieces : a.pieces = [p]
  todo : p.done = false
  clean : p.faults = []
  early : a.late = false
  place : p.at? = some x
  near : x.kind ≠ 3
  counter : x.counter = none
  order : orderAllows w o a = true
  slice : spaceOf x.loc = 0 → running s (x.loc / Config.sliceBytes) = true

/-- The access of `OnePiece` has been performed: its data is `bs`, no register has changed yet, and the core of a slice it reaches is no
longer idle (R258). -/
def Performed (s t : State) (k : Nat) (w : Warp) (o : Op) (a : Access) (p : Piece) (bs : List Byte) : Prop :=
  ∃ w' o', warpAt t k = some w' ∧ w'.ops.find? (fun e => decide (e.id = o.id)) = some o'
    ∧ o'.kind = .access { a with pieces := [{ p with data := bs, done := true }], performed := true }
    ∧ w' = { w with ops := w'.ops, splits := w'.splits, groups := w'.groups } ∧ (∀ j, j ≠ k → warpAt t j = warpAt s j)
    ∧ t = { wakeSlices s a with warps := t.warps, mem := t.mem, poison := t.poison, fresh := t.fresh, times := t.times }

/-- Only core `c` may differ. -/
def CoreFrame (s t : State) (c : Nat) : Prop := (∀ d, d ≠ c → coreAt t d = coreAt s d) ∧ t = { s with cores := t.cores }

/-- A PACKET IS TAKEN (R241, R244, R248): it is at the head of a queue that takes packets, at index `i`, with bytes `b`, of kind `kd`,
well formed, and the queue may carry it, and no UNLOAD of the queue waits; `u` is the state with it taken. -/
structure Taken (kd : PacketKind) (s : State) (ten q i : Nat) (b : List Byte) (u : State) : Prop where
  head : ∃ x, headOf s ten q = some (x, b) ∧ x.rd = i ∧ x.unloads = [] ∧ (kd.service = true → x.spec.service = true)
  kind : packetKind b = kd
  sound : packetSound kd b = true
  taken : u = takePacket s ten q

/-- The address of a packet's completion word (R244). -/
def cplOf (b : List Byte) : DWord := BitVec.ofNat 64 (field b 56 8)

/-! Replay (R141, R145, R388). -/

/-- A split once what `pr` covers has been replayed: one that waits at its word or fetch for such a record goes on. -/
def Split.replayed (pr : FaultRef → Bool) (sp : Split) : Split :=
  match sp.park with
  | .fault rs => if rs.any pr then { sp with park := .running } else sp
  | _ => sp

/-- The operation has lanes that wait for a record that `pr` covers. -/
def Op.awaits (pr : FaultRef → Bool) (o : Op) : Bool :=
  match o.kind with
  | .access a => a.pieces.any (Piece.awaits pr)
  | _ => false

/-- Of a warp no division and no cask word completes by the replay: no split stands at its RJOIN, or at a spill record that `pr`
covers, and the warp is not parked on a cask. -/
structure Unjoined (w : Warp) (pr : FaultRef → Bool) : Prop where
  joins : ∀ e ∈ w.splits, ∀ a, e.2.park ≠ .rjoin a
  records : ∀ e ∈ w.splits, ∀ a rs, e.2.park = .record a rs → rs.any pr = false
  cask : ∀ c ws, w.park ≠ some (.cask c ws)

/-- Nothing of the warp waits for a record that `pr` covers. -/
structure Unwaiting (w : Warp) (pr : FaultRef → Bool) : Prop where
  ops : ∀ o ∈ w.ops, o.awaits pr = false
  words : ∀ e ∈ w.splits, ∀ rs, e.2.park = .fault rs → rs.any pr = false
  records : ∀ e ∈ w.splits, ∀ a rs, e.2.park = .record a rs → rs.any pr = false

/-- A queue's hold once what `pr` covers has been replayed. -/
def Held.replayed (pr : FaultRef → Bool) (h : Held) : Option Held := if h.recs.any pr then none else some h

/-- WHAT WAITS BESIDE THE WARPS GOES ON: every Kiln and Lantern command, release, cask, queue and pre-emption that waits for a record
that `pr` covers is made again, and no other; a completion word that waits for another record still waits; and a saved workgroup
remembers the replay `a`. -/
structure Replayed (pr : FaultRef → Bool) (a : Again) (s t : State) : Prop where
  kilns : ∀ c, (coreAt t c).kiln = (coreAt s c).kiln.map fun k => if k.faults.any pr then { k with faults := [], due := s.now + 1 } else k
  releases : ∀ c, (coreAt t c).releases = (coreAt s c).releases.map fun r => if r.faults.any pr then { r with faults := [] } else r
  lanterns : ∀ d, dieAt t d = { dieAt s d with
    cmds := (dieAt s d).cmds.map fun c => if c.faults.any pr then { c with faults := [], due := s.now + 1 } else c }
  casks : ∀ c, caskQuiet s c →
    caskAt t c = if (caskAt s c).faults.any pr then { caskAt s c with faults := [] } else caskAt s c
  queues : ∀ m q, (queueAt t m q).map (fun x => (x.spec, x.wr, x.rd, x.held))
    = (queueAt s m q).map fun x => (x.spec, x.wr, x.rd, x.held.bind (Held.replayed pr))
  preempts : t.preempts = s.preempts.map fun p => if p.faults.any pr then { p with faults := [] } else p
  cpls : ∀ c ∈ s.cpls, c.faults.any pr = false → c ∈ t.cpls
  ctxs : t.ctxs = s.ctxs.map fun x => { x with replays := x.replays ++ [a] }

/-- WHAT WAITED IS MADE AGAIN (R138, R141, R145, R388), of any package: a split parked at its word or fetch on a covered record goes on; the
lanes of an access that wait for a covered record are translated again, in a package of one warp as they are in state `s`; what
waits beside the warps goes on; and where nothing waits, warps and memory are as they were. -/
structure MadeAgain (a : Again) (s t : State) : Prop where
  rest : Replayed a.covers a s t
  splits : ∀ k w, warpAt s k = some w → (wgAt s w.wg).isSome = true → Unjoined w a.covers → (∀ o ∈ w.ops, o.awaits a.covers = false) →
    ∃ w', warpAt t k = some w' ∧ w' = { w with splits := w'.splits } ∧ ∀ j, tget w'.splits j = (tget w.splits j).map (Split.replayed a.covers)
  lanes : ∀ k w o x cx tr, s.warps = [(k, w)] → (wgAt s w.wg).isSome = true → Unjoined w a.covers →
    w.ops.filter (fun e => decide (e.id = o.id)) = [o] → o.kind = .access x → o.awaits a.covers = true →
    (∀ e ∈ w.ops, e.id ≠ o.id → e.awaits a.covers = false) → opCx s k o = some cx →
    translateAccess s cx x (Piece.awaits a.covers) = .ok tr →
    ∃ w' o', warpAt t k = some w' ∧ w'.ops.find? (fun e => decide (e.id = o.id)) = some o'
      ∧ o'.kind = .access { x with pieces := tr.pieces, buffered := x.buffered || tr.faulted }
      ∧ (∀ e, e.id ≠ o.id → (e ∈ w'.ops ↔ e ∈ w.ops)) ∧ w' = { w with ops := w'.ops, splits := w'.splits }
      ∧ ∀ j, tget w'.splits j = (tget w.splits j).map (Split.replayed a.covers)
  still : (∀ e ∈ s.warps, Unwaiting e.2 a.covers ∧ readyDivision e.2 = none ∧ ∀ c ws, e.2.park ≠ some (.cask c ws)) →
    (∀ c ∈ s.cpls, c.faults.any a.covers = false) → t.warps = s.warps ∧ t.mem = s.mem

/-- Cached translations and walk entries of the ASID, those of pages that meet the range, are gone at every core, and no others (R137,
R144, R245). -/
def CachesLose (s t : State) (asid : Nat) (range : Option (Nat × Nat)) : Prop :=
  ∀ c, (∀ e, e ∈ (coreAt t c).tlb ↔ e ∈ (coreAt s c).tlb
      ∧ ¬ (e.asid = asid ∧ ∀ a n, range = some (a, n) → e.base < a + n ∧ a < e.base + 2 ^ e.log))
    ∧ ∀ e, e ∈ (coreAt t c).walks ↔ e ∈ (coreAt s c).walks
      ∧ ¬ (e.asid = asid ∧ ∀ a n, range = some (a, n) → e.base < a + n ∧ a < e.base + 2 ^ e.log)

/-- The bytes of the page that a migration moves, in the frame it leaves. -/
def oldPage (s : State) (x : Migration) : List Byte :=
  rawBytes s (pageKeyOf s x.asid x.expected) (x.frame x.expected) (2 ^ x.log)

/-- THE MIGRATION `x` CAN COPY to the frame at `new` (R144): no translated access to its old frame is outstanding, no reduction applied
there has still to take its place, the new frame is under its key, and the page's entry does not lie in it. -/
structure Copies (s : State) (m : Nat) (x : Migration) (new : Nat) : Prop where
  running : tget s.migs m = some x
  landed : x.inFlight s = false
  frame : new = x.frame x.newPte
  mem : MemInv s
  placed : ∀ r ∈ s.reds, r.applied = true → rangesMeet (x.frame x.expected) (2 ^ x.log) r.xl.loc 4 = false
  keys : UnderKey s (pageKeyOf s x.asid x.newPte) new (2 ^ x.log)
  apart : x.pteLoc + 8 ≤ new ∨ new + 2 ^ x.log ≤ x.pteLoc

/-- Where FLAGS set a ring, the record's base and size of it keep R246: no ring, or 2^4 to 2^20 entries, aligned, in valid, writable and
pinned pages of the ASID. -/
def RingFits (u : State) (ten asid fl bit : Nat) (d : List Byte) (off log size : Nat) : Prop :=
  fl.testBit bit = true → ringSound u ten asid (field d off 8) (field d log 1) size = true

/-- Where FLAGS set a ring, the one it replaces holds no record (R246). -/
def RingIdle (fl bit : Nat) (r : Ring) : Prop := fl.testBit bit = true → r.prod = r.cons ∧ r.waiting = []

/-- A ring that FLAGS set starts empty, in place of `r` (R246). -/
def ringSet (fl bit base log asid : Nat) (r : Ring) : Ring :=
  if fl.testBit bit then { base := BitVec.ofNat 64 base, log := log, asid := asid, prod := 0, cons := 0, waiting := [] } else r

/-- CORE `c` IS ZEROED for a new owner (R147, R171, R212, R215): its SRAM slice and files, its lattice tables and translations, its casks
disabled and empty, its counters 0. -/
structure Scrubbed (t : State) (c : Nat) : Prop where
  slice : ∀ o, o < 0x100000 → memByte t.mem (0x100000 * c + o) = 0
  files : (coreAt t c).lattice = [] ∧ (coreAt t c).brewFile = [] ∧ (coreAt t c).presence = 0 ∧ (coreAt t c).kiln = []
  caches : (coreAt t c).tlb = [] ∧ (coreAt t c).walks = []
  casks : ∀ l, l < 4 → caskAt t (4 * c + l) = Cask.empty
  counters : ∀ l, l < 256 → counterAt t (256 * c + l) = Counter.empty

/-- What the record of a workgroup holds that is saved (R234, R235): its warps, each without latches and off the cask it was parked on, the
bytes of its SRAM and their uncorrectable marks, its brew, and no replay yet. -/
structure SavedAs (s : State) (p : Preemption) (g : Workgroup) (x : Context) : Prop where
  names : x.va = p.area ∧ x.ten = p.ten ∧ x.gid = p.wg ∧ x.wg = g ∧ x.replays = []
  warps : x.warps = (s.warps.filter (fun e => decide (e.2.wg = p.wg))).map fun e => (e.2.index, e.2.saved)
  sram : x.sram = memBytes (placeForSave s p.wg g).mem (sramLoc g.core g.sram) g.sramBytes
  marks : ∀ o, o ∈ x.marks ↔ o < g.sramBytes ∧ sramLoc g.core g.sram + o ∈ (placeForSave s p.wg g).poison
  brew : x.brew = (coreAt s g.core).brew.filter fun b => decide (b.wg = p.wg)
  files : x.brewFile = (coreAt s g.core).brewFile ∧ x.presence = (coreAt s g.core).presence ∧ x.blocks = (coreAt s g.core).blocks

/-- A packet has completed: it is no longer outstanding in its queue, and of the package only memory, tenancies, handles, launches and what
the way to memory changes differ (R244, R249). -/
structure Completed (u t : State) (n q i : Nat) (x : Queue) : Prop where
  live : ∃ y, queueAt t n q = some y ∧ y.live = x.live.filter fun j => decide (j ≠ i)
  warps : t.warps = u.warps
  wgs : ∀ g, (wgAt t g).map (fun y => { y with bound := false }) = (wgAt u g).map fun y => { y with bound := false }
  cpls : t.cpls = u.cpls
  ctxs : t.ctxs = u.ctxs

/-- A split as a context record keeps it: without latches, fetched words and the counts of cycles (R90, R198, R235). -/
def Split.kept (sp : Split) : Split :=
  { sp with
    latches := noLatches, lastPass := none, lastIssue := 0, unissued := false, yielded := false, wakeAt := 0, starving := false
    clause := sp.clause.map fun c => { c with held := [] } }

/-- What a saved workgroup's replays cover (R234). -/
def Context.covered (x : Context) (f : FaultRef) : Bool := x.replays.any fun r => r.covers f

/-- A SAVED WORKGROUP CAN RETURN to core `c` in `slots`, and nothing but it moves: its warps have slots of their own, keep their lanes and
have no division to complete; of the replays since its save none covers an access of it, a spill record, or what another warp waits for; and
no BREW waits. -/
structure Returns (u : State) (x : Context) (c : Nat) (slots : List Nat) : Prop where
  picked : pickSlots u c (slotQuads x.wg.n x.wg.brewSlots) [] = some slots
  runs : running u c = true
  quads : (coreAt u c).quads.length = 4
  mem : MemInv u
  keys : UnderKey u none (sramLoc c x.wg.sram) x.sram.length
  distinct : (x.warps.map Prod.fst).Nodup
  within : (∀ e ∈ x.warps, e.1 < slots.length ∧ e.2.wg = x.gid) ∧ ∀ r ∈ x.claims, r.1 < slots.length
  lanes : ∀ e ∈ x.warps, ∀ p ∈ e.2.splits, p.2.mask ≠ 0
  joins : ∀ e ∈ x.warps, readyDivision e.2 = none
  ops : ∀ e ∈ x.warps, ∀ o ∈ e.2.ops, o.awaits x.covered = false
  records : ∀ e ∈ x.warps, ∀ p ∈ e.2.splits, ∀ a rs, p.2.park = .record a rs → rs.any x.covered = false
  others : ∀ e ∈ u.warps, Unwaiting e.2 x.covered
  waits : x.waits = [] ∧ (coreAt u c).brewWait = []

/-- THE SAVED WORKGROUP IS BACK on core `c` in `slots` (R105, R235, R236, R275): itself, its warps with registers, operations, divisions and
parks as saved, splits that a replay has covered running, its SRAM bytes and their marks, its brew, its requests at the ends of the claim
queues, and its record is gone; every other warp and workgroup is as it was. -/
structure Restored (u t : State) (x : Context) (c : Nat) (slots : List Nat) : Prop where
  wg : wgAt t x.gid = some { x.wg with
    core := c, slots := slots, draining := false, warps := x.wg.warps.map fun e => (e.1, slots.getD e.1 0) }
  wgs : ∀ g, g ≠ x.gid → wgAt t g = wgAt u g
  warps : ∀ e ∈ x.warps, ∃ w', warpAt t (slots.getD e.1 0) = some w' ∧ w' = { e.2 with splits := w'.splits }
    ∧ (∀ j, (tget w'.splits j).map Split.kept = (tget e.2.splits j).map fun sp => (sp.replayed x.covered).kept)
    ∧ ∀ j sp, tget w'.splits j = some sp → sp.latches = noLatches ∧ ∀ cl, sp.clause = some cl → cl.held = []
  others : ∀ k, k ∉ slots → warpAt t k = warpAt u k
  sram : Stored u t (sramLoc c x.wg.sram) x.sram
  marks : ∀ o ∈ x.marks, sramLoc c x.wg.sram + o ∈ t.poison
  ctxs : t.ctxs = u.ctxs.filter fun y => decide (y.gid ≠ x.gid)
  brew : ∀ b, x.brew = some b → (coreAt t c).brew = some { b with host := movedSlot x slots b.host, requested := false }
    ∧ (coreAt t c).brewFile = x.brewFile ∧ (coreAt t c).presence = x.presence ∧ (coreAt t c).blocks = x.blocks
  noBrew : x.brew = none → (coreAt t c).brew = (coreAt u c).brew ∧ (coreAt t c).brewFile = (coreAt u c).brewFile
    ∧ (coreAt t c).presence = (coreAt u c).presence
  claims : ∀ q, q < 4 → (quadAt t c q).claims = (quadAt u c q).claims
    ++ (x.claims.filter fun r => decide (quadOfSlot (slots.getD r.1 0) = q)).map fun r =>
      { slot := some (slots.getD r.1 0), split := r.2.1, n := r.2.2 }

/-- Core `c` is the one R24 names among `cs`. -/
def BestOf (s : State) (cs : List Nat) (c : Nat) : Prop :=
  c ∈ cs ∧ ∀ d ∈ cs,
    ((coreAt s c).hot = true → (coreAt s d).hot = true)
    ∧ ((coreAt s d).hot = (coreAt s c).hot →
        (coreAt s c).temp + 8 * (coreAt s c).droops.length ≤ (coreAt s d).temp + 8 * (coreAt s d).droops.length
        ∧ ((coreAt s c).temp + 8 * (coreAt s c).droops.length = (coreAt s d).temp + 8 * (coreAt s d).droops.length → c ≤ d))

/-- The cores whose slices the ranges of a Kiln command lie in (R258). -/
abbrev KilnCmd.slices (s : State) (c : Nat) (k : KilnCmd) : List Nat := touchSlices s (k.req c) k.job.touches

/-- What of an access is left when it has lost what it sent: its lanes that wait for a replay (R138, R161). -/
def Access.kept (a : Access) : List Piece := a.pieces.filter fun p => !p.done && !(p.remote && p.faults.isEmpty)

/-- The Kiln command `k` of core `c` is complete: it has left the queue, and its batch (R173); of the warp `w` that issued it nothing
else has changed. -/
def KilnDone (s t : State) (c : Nat) (k : KilnCmd) (w : Warp) : Prop :=
  (coreAt t c).kiln = (coreAt s c).kiln.filter (fun e => decide (e.id ≠ k.id))
    ∧ warpAt t k.slot = some { w with bK := { w.bK with cmds := w.bK.cmds.filter fun e => decide (e.1 ≠ k.id) } }
    ∧ ∀ j, j ≠ k.slot → warpAt t j = warpAt s j

/-- The cores whose slices the ranges of a Lantern command lie in (R258). -/
abbrev LanternCmd.slices (s : State) (c : LanternCmd) : List Nat := touchSlices s c.req c.touches

/-- The command `c` of Lantern die `d`, issued by the warp `w`, can run: what it comes after is complete, and the slices that it reaches
run (R219, R220, R258). -/
structure LanternReady (s : State) (d : Nat) (c : LanternCmd) (w : Warp) : Prop where
  die : d < s.lanterns.length
  held : (dieAt s d).cmds.find? (fun x => decide (x.id = c.id)) = some c
  ready : cmdReady s d c = true
  awake : asleep s (c.slices s) = false
  warp : warpAt s c.slot = some w

/-- The command is complete: it has left its die's queue, and its batch (R173); of the warp `w` nothing else has changed. -/
def LanternDone (s t : State) (d : Nat) (c : LanternCmd) (w : Warp) : Prop :=
  (dieAt t d).cmds = (dieAt s d).cmds.filter (fun x => decide (x.id ≠ c.id))
    ∧ warpAt t c.slot = some { w with bA := { w.bA with cmds := w.bA.cmds.filter fun e => decide (e.1 ≠ c.id) } }
    ∧ ∀ j, j ≠ c.slot → warpAt t j = warpAt s j

/-- Of the package only warps and Lantern die `d` differ. -/
def OneDie (s t : State) (d : Nat) : Prop :=
  (∀ e, e ≠ d → dieAt t e = dieAt s e) ∧ t = { s with warps := t.warps, lanterns := t.lanterns }

/-- The stage-1 entries of die `d` that meet `p` are gone, and a block of this node that one of them named, where it is the tenancy's, has
no stage-2 entry and is back in the tenancy's pool, on whichever die it stood (R224, R225); beside the sequences and commands of die `d`
nothing else of the dies differs. -/
structure Freed (s t : State) (d ten : Nat) (p : Stage1 → Bool) : Prop where
  stage1 : (dieAt t d).stage1 = (dieAt s d).stage1.filter fun e => !p e
  back : ∀ e x y, e ∈ (dieAt s d).stage1 → p e = true → e.node = Config.node → stage2Of s e.global = some (x, y) → y.ten = ten →
    { ten := ten, tier := y.tier, phys := y.phys } ∈ (dieAt t x).pool ∧ ∀ z ∈ (dieAt t x).stage2, z.global ≠ e.global
  mapped : ∀ x z, z ∈ (dieAt t x).stage2 → z ∈ (dieAt s x).stage2
  kept : ∀ x z, z ∈ (dieAt s x).stage2 →
    (∀ e ∈ (dieAt s d).stage1, p e = true → e.node = Config.node → e.global ≠ z.global) → z ∈ (dieAt t x).stage2
  pooled : ∀ x b, b ∈ (dieAt s x).pool → b ∈ (dieAt t x).pool
  pool : ∀ x b, b ∈ (dieAt t x).pool → b ∈ (dieAt s x).pool ∨ ∃ e z, e ∈ (dieAt s d).stage1 ∧ p e = true ∧ e.node = Config.node
    ∧ z ∈ (dieAt s x).stage2 ∧ z.global = e.global ∧ z.ten = ten ∧ b = { ten := ten, tier := z.tier, phys := z.phys }
  own : dieAt t d = { dieAt s d with
    seqs := (dieAt t d).seqs, cmds := (dieAt t d).cmds, stage1 := (dieAt t d).stage1, stage2 := (dieAt t d).stage2, pool := (dieAt t d).pool }
  others : ∀ e, e ≠ d → dieAt t e = { dieAt s e with stage2 := (dieAt t e).stage2, pool := (dieAt t e).pool }
  rest : t = { s with warps := t.warps, lanterns := t.lanterns }

/-- Of the sequences of a die only that of the tenancy with this number differs. -/
def OneSeq (x y : LanternDie) (ten id : Nat) : Prop := ∀ k n, (k ≠ ten ∨ n ≠ id) → y.seq k n = x.seq k n

/-! Words with plain results. -/

/-- SMOVI, SMOVHI, SADDI and SANDI: the register, and the word R338's table gives it. -/
def immediateOf (s : State) (cx : Cx) : Instr → Option (Nat × Word)
  | .smovi x imm => some (x.toNat, imm.signExtend 32)
  | .smovhi x imm => some (x.toNat, BitVec.ofNat 32 (imm.toNat * 2 ^ 16 + (readS s cx.w x.toNat).toNat % 2 ^ 16))
  | .saddi x imm => some (x.toNat, BitVec.ofNat 32 (((readS s cx.w x.toNat).toNat + (imm.signExtend 32).toNat) % 2 ^ 32))
  | .sandi x imm => some (x.toNat, readS s cx.w x.toNat &&& imm.signExtend 32)
  | _ => none

/-- The vector words on signed 32-bit elements: destination and sources, latency, and the result of a lane (R357, R377). -/
def intWord : Instr → Option (BitVec 7 × BitVec 7 × BitVec 7 × Nat × (Word → Word → Word))
  | .vadd d a b => some (d, a, b, 4, fun x y => x + y)
  | .vsub d a b => some (d, a, b, 4, fun x y => x - y)
  | .vmul d a b => some (d, a, b, 6, fun x y => x * y)
  | .vmin d a b => some (d, a, b, 4, fun x y => if x.toInt ≤ y.toInt then x else y)
  | .vmax d a b => some (d, a, b, 4, fun x y => if x.toInt ≤ y.toInt then y else x)
  | .vabsd d a b => some (d, a, b, 4, fun x y => if x.toInt ≤ y.toInt then y - x else x - y)
  | .vshl d a b => some (d, a, b, 4, fun x y => x <<< y.toNat)
  | .vshr d a b => some (d, a, b, 4, fun x y => x >>> y.toNat)
  | .vsra d a b => some (d, a, b, 4, fun x y => x.sshiftRight y.toNat)
  | _ => none

end Sys2Proof.Machine
end

