-- ==== Sys2Proof/Certificates/Slice0/Obligations.lean ====
section
/-! DEFINITION. The statements to be proved about the model. -/

open Sys2Proof Sys2Proof.Machine

/-! Words of the scalar slot. -/

/-- SADD, SSUB, SMUL, SAND, SOR, SXOR, SSHL, SSHR, SSRA, SMIN, SMAX, SCMP.EQ to SCMP.GEU, PAND, POR, PXOR, PANDN, SMOVI, SMOVHI, SADDI,
SANDI, SBAL, PCNT, PSET and SHLN (R326 to R328, R336, R338 to R340, R342): a ready word completes at the next word; the one result of the
table `scalarResult` becomes visible 2 cycles after issue in the active lanes; nothing else of the warp and of the package changes but
the booking of the slot. MODE (R55, R320), whatever its guard, sets MODE to imm16 and changes nothing else. -/
def Obligations.ScalarResults : Prop :=
  (∀ (i : Instr) (s : State) (cx : Cx) (d : Dest) (x : Payload), scalarResult s cx i = some (d, x) → Ready i s cx →
    ∃ t w', exec i s = .next t ∧ Completes s t cx (nextPc cx 0) w' ∧ SameWarp cx.j cx.w w'
      ∧ Results cx.w w' d x (eff s cx) (s.now + 2) ∧ SlotFrame s t)
  ∧ ∀ (x : BitVec 6) (imm : Half) (s : State) (cx : Cx), focus s = some cx → legal (.mode x imm) = true → 1 ≤ wordsLeft cx.sp →
    ∃ t w', exec (.mode x imm) s = .next t ∧ Completes s t cx (nextPc cx 0) w' ∧ w'.mode = imm
      ∧ SameWarp cx.j { cx.w with mode := imm } w' ∧ w'.pend = cx.w.pend ∧ SlotFrame s t

/-- BR, BRZ, BRNZ, BRANY and BRALL (R59, R267 to R269, R272): a taken branch leaves its split at a clause start, at the word's address
plus 4 × the signed offset; one not taken goes on with the next word. Nothing else changes. -/
def Obligations.Branches : Prop :=
  ∀ (i : Instr) (s : State) (cx : Cx) (taken : Bool) (imm : Half), branchOf s cx i = some (taken, imm) → Ready i s cx →
    ∃ t w', exec i s = .next t ∧ Completes s t cx (if taken then cx.sp.pc + imm.signExtend 64 * 4 else nextPc cx 0) w'
      ∧ SameWarp cx.j cx.w w' ∧ w'.pend = cx.w.pend
      ∧ (taken = true → ∃ sp, tget w'.splits cx.j = some sp ∧ sp.clause = none) ∧ SlotFrame s t

/-- NOP, YIELD, and the twelve FENCE words when their conditions hold (R153, R286, R325, R385): the split goes on with the next word, and
registers and memory are as they were. A FENCE, NMFENCE or TFENCE whose conditions do not hold leaves its split before the word, and changes
nothing else: it waits for what was issued before it was first made, and for nothing later. The four NMFENCE words when theirs hold (R160,
R323): the warp's reductions, all applied, leave the waiting ones for the order of memory, in their arrival order, and with them those of
other warps that were applied before them at their locations; of one alone, the word at its location becomes the old one combined with the
value. That earlier reductions of other warps take their places too is the model's reading (entry 46). TFENCE.WG, TFENCE.DIE, TFENCE.PKG and
TFENCE.DOM once the warp's stores are visible (R137, R162, R354): at every core of the scope the cached translations and walk entries of the
warp's ASID are gone, all others stay, and nothing else changes. -/
def Obligations.OrderingWords : Prop :=
  (∀ (i : Instr) (s : State) (cx : Cx), noEffect s cx i = true → Ready i s cx →
    ∃ t w', exec i s = .next t ∧ Completes s t cx (nextPc cx 0) w' ∧ SameWarp cx.j cx.w w' ∧ w'.pend = cx.w.pend ∧ SlotFrame s t)
  ∧ (∀ (i : Instr) (s : State) (cx : Cx), orderReady s cx i = some false → Ready i s cx →
    ∃ t, exec i s = .next t ∧ Stays s t cx (.fence (fenceSince s cx)) ∧ t = { s with warps := t.warps })
  ∧ (∀ (i : Instr) (sc : Scope) (s : State) (cx : Cx), nmfenceOf i = some sc → orderReady s cx i = some true → Ready i s cx →
    ∃ t w', exec i s = .next t ∧ Completes s t cx (nextPc cx 0) w' ∧ SameWarp cx.j cx.w w' ∧ w'.pend = cx.w.pend
      ∧ SlotFrame (placeReductions s (fencedBy s cx)) t
      ∧ t.reds = s.reds.filter (fun r => !placedWith s.reds (fencedBy s cx) r)
      ∧ (∀ r ∈ s.reds, r.slot = cx.k → r.seq < fenceSince s cx → r.applied = true ∧ r ∉ t.reds)
      ∧ (s.reds.filter (placedWith s.reds (fencedBy s cx)) = [] → t.mem = s.mem)
      ∧ ∀ r, s.reds.filter (placedWith s.reds (fencedBy s cx)) = [r] → MemInv s → UnderKey s r.xl.key r.xl.loc 4 →
          Stored s t r.xl.loc (leBytes 4 (atomWord r.op r.et (BitVec.ofNat 32 (memNat s.mem r.xl.loc 4)) r.val 0).toNat))
  ∧ ∀ (i : Instr) (sc : Scope) (s : State) (cx : Cx), tfenceOf i = some sc → orderReady s cx i = some true → Ready i s cx →
    ∃ t w', exec i s = .next t ∧ Completes s t cx (nextPc cx 0) w' ∧ SameWarp cx.j cx.w w' ∧ w'.pend = cx.w.pend
      ∧ (∀ c, (coreAt t c).tlb = if inScope sc (coreOfSlot cx.k) c then (coreAt s c).tlb.filter fun e => decide (e.asid ≠ cx.w.asid)
          else (coreAt s c).tlb)
      ∧ (∀ c, (coreAt t c).walks = if inScope sc (coreOfSlot cx.k) c then (coreAt s c).walks.filter fun e => decide (e.asid ≠ cx.w.asid)
          else (coreAt s c).walks)
      ∧ t = { s with warps := t.warps, cores := t.cores }
      ∧ ∀ c, { coreAt t c with quads := (coreAt s c).quads, tlb := (coreAt s c).tlb, walks := (coreAt s c).walks } = coreAt s c

/-! Words of the vector slot. -/

/-- The vector words with one result row: VADD to VABSD, the logic and shift words, VCVT, VPOPC, VCLZ, VBREV, packing, shuffles, VLRED,
VSCAN, SEL, FMA, FMS and IMAD (R288, R289, R304, R341, R357, R359, R364, R367, R371, R372, R376 to R378). Once its operands are read, the
word completes after its literals; the row of the table `rowWord` becomes visible after the word's latency and stalls in the active lanes;
only the warp, its workgroup's kegs and the booking of the slot change. THE OPERANDS of every vector word that reads them, by the codes of
R42: a source gives its static register, its brew register (R97), the oldest entries of a keg (R37), zero, the lane index, the iteration
index, 64 or the next literal (R43); the destination is a static register, a brew register of the warp's own block, a new entry of a keg, or
none; the entries popped are gone and the one pushed is reserved. That a keg's places follow one another in the workgroup's SRAM (entry 32)
is the model's choice. -/
def Obligations.VectorRows : Prop :=
  (∀ (i : Instr) (s : State) (cx : Cx) (ls : List Word) (v : VSpec) (x : VIn), readOperands i cx ls v s = .ok x → OperandsRead s cx ls v x)
  ∧ ∀ (i : Instr) (s t0 : State) (cx : Cx) (ls : List Word) (x : VIn) (r : RowWord), rowWord cx (eff s cx) x i = some r →
    Issues (.vector r.spec.both) false i s cx ls t0 → r.legal = true → readOperands i cx ls r.spec t0 = .ok x →
    ∃ t w', exec i s = .next t ∧ CompletesV s t cx (nextPc cx (litCount i)) w' ∧ SameWarp cx.j cx.w w' ∧ OperandFrame t0 t cx
      ∧ (x.dest = .none → w'.pend = cx.w.pend)
      ∧ (x.dest ≠ .none → ∃ row, Results cx.w w' x.dest (.row row) (eff s cx) (s.now + (r.latency + x.stalls))
          ∧ row.length = 64 ∧ ∀ l, l < 64 → lane row l = r.word l)

/-- VCMP.EQ to VCMP.ORD under I32, N32 or F32 (R53, R366): the predicate holds the relation of each lane's words, visible after 4 cycles
and stalls in the active lanes. -/
def Obligations.VectorCompares : Prop :=
  ∀ (i : Instr) (s t0 : State) (cx : Cx) (ls : List Word) (x : VIn) (d a b : BitVec 7) (op : CmpOp), cmpOf i = some (d, a, b, op) →
    Issues (.vector false) false i s cx ls t0 → wideMode cx.w.mode = true → readOperands i cx ls { specAB d a b with dst := none } t0 = .ok x →
    ∃ t w' m, exec i s = .next t ∧ CompletesV s t cx (nextPc cx (litCount i)) w' ∧ SameWarp cx.j cx.w w' ∧ OperandFrame t0 t cx
      ∧ Results cx.w w' (.p d.toNat) (.mask m) (eff s cx) (s.now + (4 + x.stalls))
      ∧ ∀ l, l < 64 → m.getLsbD l
          = cmpElem (etOf cx.w.mode) (dnzOf cx.w.mode) op (lane (x.row 0) l).toNat (lane (x.row 1) l).toNat

/-- VRCP, VRSQ, VSQRT, VEX2, VLG2, VSIN, VCOS and VTNH under F32 (R373): the word attaches one operation to flag SB of its clause; the
operation holds the function of each lane's word, for the destination, in the active lanes. -/
def Obligations.SpecialFunctions : Prop :=
  ∀ (i : Instr) (s t0 : State) (cx : Cx) (ls : List Word) (x : VIn) (d a b : BitVec 7) (op : SfuOp), sfuOf i = some (d, a, b, op) →
    Issues (.vector false) false i s cx ls t0 → f32Mode cx.w.mode = true →
    readOperands i cx ls { VSpec.unary d a b with port := some .sfu, long := some false } t0 = .ok x →
    ∃ t w' o row, exec i s = .next t ∧ CompletesV s t cx (nextPc cx (litCount i)) w' ∧ w'.ops = cx.base.ops ++ [o]
      ∧ o.flag = cxFlag cx false ∧ o.kind = .write [(x.dest, .row row)] (eff s cx) ∧ row.length = 64
      ∧ (∀ l, l < 64 → lane row l = BitVec.ofNat 32 (sfuWord op (fmodeOf cx.w.mode) (lane (x.row 0) l).toNat))
      ∧ SameWarp cx.j { cx.w with ops := w'.ops } w' ∧ w'.pend = cx.w.pend
      ∧ OperandFrame { t0 with times := t0.times.drop 1 } t cx

/-- VADD, VSUB, VMUL, VMIN, VMAX, VABSD, VSHL, VSHR and VSRA under I32 without SAT (R357, R377): in each active lane the sum, difference,
product, lesser, greater or absolute difference of the signed words, modulo 2^32, or the word shifted by the whole of the other; visible
after 4 cycles, or 6 for VMUL, and stalls. -/
def Obligations.IntegerArithmetic : Prop :=
  ∀ (i : Instr) (s t0 : State) (cx : Cx) (ls : List Word) (x : VIn) (d a b : BitVec 7) (n : Nat) (f : Word → Word → Word),
    intWord i = some (d, a, b, n, f) → Issues (.vector false) false i s cx ls t0 → etOf cx.w.mode = .i32 → satOf cx.w.mode = false →
    readOperands i cx ls (specAB d a b) t0 = .ok x → x.dest ≠ .none →
    ∃ t w' row, exec i s = .next t ∧ CompletesV s t cx (nextPc cx (litCount i)) w' ∧ SameWarp cx.j cx.w w'
      ∧ Results cx.w w' x.dest (.row row) (eff s cx) (s.now + (n + x.stalls))
      ∧ ∀ l, l < 64 → lane row l = f (lane (x.row 0) l) (lane (x.row 1) l)

/-- The memory words VLD, VLDA, VST, VSTR, VATOM, NMRED, LDF and STF, and SLD, SLDD and SST (R58, R138, R175, R324, R343, R348, R360 to
R362, R368, R369, R379, R380): once the operands are read and every address translates without a replayable fault, the word attaches to flag
SA of its clause one operation that holds the access of the tables `memWord` and `scalarAccess` with its translated pieces, and goes on. No
byte is loaded or stored yet: the package is as the translation left it but for the warp. One behind an acquire of its split still to be
performed holds its entry of the fault buffer from its issue on (entry 58). Where a lane traps, the word takes that trap (R228), and where
one faults, its split parks after the word with the operation, which holds an entry of the fault buffer (R138, R139). WHERE AN ADDRESS
LEADS, and when DANGLE, PROT, MEMKIND, ALIGN and PAGE come: `Leads` and `Checks`, at FULL (R130 to R137, R361). That a fetch from any window
is MEMKIND (entry 30) is the model's choice. -/
def Obligations.MemoryWords : Prop :=
  (∀ (s : State) (rq : Req) (va : DWord) (len : Nat), Leads s rq va len)
  ∧ (∀ (s : State) (cx : Cx) (a : Access), Checks s cx a)
  ∧ (∀ (i : Instr) (s t0 : State) (cx : Cx) (ls : List Word) (x : VIn) (m : MemWord) (tp : Trap), memWord t0 cx x i = some m →
    Issues (.vector false) false i s cx ls t0 → readOperands i cx ls m.spec t0 = .ok x → m.ready = true → bufferUsed x.s cx.k < 64 →
    translateAccess x.s cx m.access (fun _ => true) = .error tp → Traps i s t0 cx (litCount i) tp)
  ∧ (∀ (i : Instr) (s : State) (cx : Cx) (a : Access) (tp : Trap), scalarAccess (useScalar (unpark s cx) cx.k) cx i = some a →
    Ready i s cx → (cxFlag cx true).isSome = true → bufferUsed (useScalar (unpark s cx) cx.k) cx.k < 64 →
    translateAccess (useScalar (unpark s cx) cx.k) cx a (fun _ => true) = .error tp → Traps i s (unpark s cx) cx 0 tp)
  ∧ (∀ (i : Instr) (s t0 : State) (cx : Cx) (ls : List Word) (x : VIn) (m : MemWord) (tr : Translated), memWord t0 cx x i = some m →
    Issues (.vector false) false i s cx ls t0 → readOperands i cx ls m.spec t0 = .ok x → m.ready = true → bufferUsed x.s cx.k < 64 →
    translateAccess x.s cx m.access (fun _ => true) = .ok tr → tr.faulted = true →
    ∃ t w' o, exec i s = .next t ∧ ParksAfter t cx (nextPc cx (litCount i)) w' o
      ∧ o.kind = .access { m.access with pieces := tr.pieces, buffered := true, late := behindAcquire cx.w cx.j })
  ∧ (∀ (i : Instr) (s : State) (cx : Cx) (a : Access) (tr : Translated), scalarAccess (useScalar (unpark s cx) cx.k) cx i = some a →
    Ready i s cx → (cxFlag cx true).isSome = true → bufferUsed (useScalar (unpark s cx) cx.k) cx.k < 64 →
    translateAccess (useScalar (unpark s cx) cx.k) cx a (fun _ => true) = .ok tr → tr.faulted = true →
    ∃ t w' o, exec i s = .next t ∧ ParksAfter t cx (nextPc cx 0) w' o
      ∧ o.kind = .access { a with pieces := tr.pieces, buffered := true, late := behindAcquire cx.w cx.j })
  ∧ (∀ (i : Instr) (s t0 : State) (cx : Cx) (ls : List Word) (x : VIn) (m : MemWord) (tr : Translated), memWord t0 cx x i = some m →
    Issues (.vector false) false i s cx ls t0 → readOperands i cx ls m.spec t0 = .ok x → m.ready = true → bufferUsed x.s cx.k < 64 →
    translateAccess x.s cx m.access (fun _ => true) = .ok tr → tr.faulted = false →
    ∃ t w' o, exec i s = .next t ∧ CompletesV s t cx (nextPc cx (litCount i)) w' ∧ w'.ops = cx.base.ops ++ [o]
      ∧ o.flag = cxFlag cx true
      ∧ o.kind = .access
          { m.access with pieces := tr.pieces, buffered := behindAcquire cx.w cx.j, late := behindAcquire cx.w cx.j }
      ∧ o.blocks = false ∧ w'.pend = cx.w.pend ∧ SameWarp cx.j { cx.w with ops := w'.ops } w' ∧ AccessFrame x.s tr.s
      ∧ t = { tr.s with warps := t.warps, nextId := t.nextId, times := t.times })
  ∧ ∀ (i : Instr) (s : State) (cx : Cx) (a : Access) (tr : Translated), scalarAccess (useScalar (unpark s cx) cx.k) cx i = some a →
    Ready i s cx → (cxFlag cx true).isSome = true → bufferUsed (useScalar (unpark s cx) cx.k) cx.k < 64 →
    translateAccess (useScalar (unpark s cx) cx.k) cx a (fun _ => true) = .ok tr → tr.faulted = false →
    ∃ t w' o, exec i s = .next t ∧ Completes s t cx (nextPc cx 0) w' ∧ w'.ops = cx.base.ops ++ [o]
      ∧ o.flag = cxFlag cx true
      ∧ o.kind = .access { a with pieces := tr.pieces, buffered := behindAcquire cx.w cx.j, late := behindAcquire cx.w cx.j }
      ∧ o.blocks = false ∧ w'.pend = cx.w.pend ∧ SameWarp cx.j { cx.w with ops := w'.ops } w' ∧ AccessFrame (useScalar (unpark s cx) cx.k) tr.s
      ∧ t = { tr.s with warps := t.warps, nextId := t.nextId, times := t.times }

/-- VRGET and VRSET with an index below 112 whose names resolve (R374, R375): one register row moves; to or from the static file it
becomes visible after 6 cycles and stalls, while the brew file makes the move an operation on flag SB. -/
def Obligations.RegisterMoves : Prop :=
  ∀ (i : Instr) (s t0 : State) (cx : Cx) (ix : Nat) (src dst : BitVec 7) (x : VIn), moveOf t0 cx i = some (ix, src, dst) →
    Issues (.vector false) false i s cx [] t0 → ix < 112 →
    readOperands i cx []
      { VSpec.simple dst [] with popD := some src, long := if 80 ≤ ix then some false else none } t0 = .ok x →
    ∃ t w', exec i s = .next t ∧ CompletesV s t cx (nextPc cx 0) w' ∧ SameWarp cx.j { cx.w with ops := w'.ops } w'
      ∧ (ix < 80 → w'.ops = cx.base.ops ∧ (x.dest ≠ .none → Results cx.w w' x.dest (.row (x.row 0)) (eff s cx) (s.now + (6 + x.stalls))))
      ∧ (80 ≤ ix → w'.pend = cx.w.pend ∧ ∃ o, w'.ops = cx.base.ops ++ [o] ∧ o.flag = cxFlag cx false
          ∧ o.kind = .write [(x.dest, .row (x.row 0))] (eff s cx))
      ∧ OperandFrame { t0 with times := t.times } t cx

/-- MMA, MMAC and MMAZ where their quad, registers and array allow them (R177, R181 to R183, R318, R319): the issuer's array is taken for
4 cycles, and one operation on flag SB, due 24 cycles after issue, holds A and C as they are now (C zero for MMAZ) and for each
quarter of B register b of the live partner as it is now, or nothing where the partner has retired. -/
def Obligations.MatrixWords : Prop :=
  ∀ (i : Instr) (s t0 : State) (cx : Cx) (ls : List Word) (f : MatrixForm) (d a b : BitVec 7), matrixOf i = some (f, d, a, b) →
    Issues (.vector true) false i s cx ls t0 → (quadAt t0 (coreOfSlot cx.k) (quadOfSlot cx.k)).arrayFree ≤ s.now →
    matrixBound t0 cx d.toNat a.toNat b.toNat = none → quadForbidden cx = false → eff s cx = BitVec.allOnes 64 →
    (cxFlag cx false).isSome = true → (coreAt t0 (coreOfSlot cx.k)).quads.length = 4 →
    ∃ t w' o m, exec i s = .next t ∧ Completes s t cx (nextPc cx (litCount i)) w' ∧ w'.ops = cx.base.ops ++ [o]
      ∧ o.flag = cxFlag cx false ∧ o.due = s.now + 24 ∧ o.kind = .matrix m ∧ m.start = s.now ∧ m.d = d.toNat
      ∧ (m.complex = true ↔ f = .complex) ∧ m.a = (List.range 4).map (fun r => readV t0 cx.w (a.toNat + r))
      ∧ (f = .zero → m.c = List.replicate 4 zeroRow)
      ∧ (f ≠ .zero → m.c = (List.range 4).map fun r => readV t0 cx.w (d.toNat + r))
      ∧ m.partners = (List.range 4).map (fun q => tget cx.g.warps (cx.w.index / 4 * 4 + q)) ∧ m.b = b.toNat
      ∧ m.bs = m.partners.map (fun x => match x.bind (warpAt t0) with
          | some v => [v.v.getD b.toNat zeroRow]
          | none => [])
      ∧ (quadAt t (coreOfSlot cx.k) (quadOfSlot cx.k)).arrayFree = s.now + 4 ∧ w'.pend = cx.w.pend
      ∧ SameWarp cx.j { cx.w with ops := w'.ops } w'
      ∧ SlotFrame (setQuad t0 (coreOfSlot cx.k) (quadOfSlot cx.k)
          { quadAt t0 (coreOfSlot cx.k) (quadOfSlot cx.k) with arrayFree := s.now + 4 }) t

/-- HCVT, HCVTB, HADD, HSUB, HNEG, HSCL and HROT (R192, R196, R293 to R295, R299 to R301, R303): both parts of the heading of the table
`headingOf` are on their way, the direction visible after 8 cycles and the norm after 16, stalls added. -/
def Obligations.HeadingArithmetic : Prop :=
  ∀ (i : Instr) (s t0 : State) (cx : Cx) (ls : List Word) (x : VIn) (d : BitVec 7) (n : Nat) (srcs : List (BitVec 7)) (h : HOut),
    headingOf t0 cx x i = some (d, n, srcs, h) → Issues (.vector true) false i s cx ls t0 →
    readOperands i cx ls { VSpec.simple d srcs with dst := none, both := true, port := some .heading, lead := n } t0 = .ok x →
    ∃ t w', exec i s = .next t ∧ CompletesV s t cx (nextPc cx (litCount i)) w' ∧ SameWarp cx.j cx.w w'
      ∧ HeadingResult cx.w w' d.toNat h (s.now + (8 + x.stalls)) (s.now + (16 + x.stalls)) ∧ OperandFrame t0 t cx

/-- HDOT, HDOTN and HEXP (R296 to R298): the dot product goes to every active lane of the destination, and the components of a heading
go in pairs to two registers, all after 8 cycles. HSETN (R302): NaN and +∞ give the NaN heading, −∞ and a direction of zero codes the
zero heading, both parts; any other word becomes the norm alone, after 16 cycles, and the direction stays. -/
def Obligations.HeadingReads : Prop :=
  (∀ (i : Instr) (s t0 : State) (cx : Cx) (ls : List Word) (x : VIn) (d : BitVec 7) (y : Word), dotOf cx i = some (d, y) →
    Issues (.vector true) false i s cx ls t0 →
    readOperands i cx ls { VSpec.simple d [] with both := true, port := some .heading } t0 = .ok x →
    ∃ t w', exec i s = .next t ∧ CompletesV s t cx (nextPc cx (litCount i)) w' ∧ SameWarp cx.j cx.w w' ∧ OperandFrame t0 t cx
      ∧ (x.dest ≠ .none → Results cx.w w' x.dest (.row (List.replicate 64 y)) (eff s cx) (s.now + (8 + x.stalls))))
  ∧ (∀ (d a b : BitVec 7) (s t0 : State) (cx : Cx) (ls : List Word) (x : VIn), Issues (.vector true) false (.hexp d a b) s cx ls t0 →
    readOperands (.hexp d a b) cx ls
      { VSpec.simple d [] with dst := none, more := [d.toNat, d.toNat + 1], both := true, port := some .heading } t0 = .ok x →
    ∃ t w' p q r0 r1, exec (.hexp d a b) s = .next t ∧ CompletesV s t cx (nextPc cx (litCount (.hexp d a b))) w' ∧ SameWarp cx.j cx.w w'
      ∧ OperandFrame t0 t cx ∧ w'.pend = cx.w.pend ++ [p, q] ∧ p.dest = .v d.toNat ∧ p.payload = .row r0 ∧ p.lanes = eff s cx
      ∧ p.due = s.now + 8 ∧ q.dest = .v (d.toNat + 1) ∧ q.payload = .row r1 ∧ q.lanes = eff s cx ∧ q.due = s.now + 8
      ∧ ∀ l, l < 64 → lane r0 l = componentF (readH cx.w a.toNat).val (2 * l)
        ∧ lane r1 l = componentF (readH cx.w a.toNat).val (2 * l + 1))
  ∧ ∀ (x : BitVec 6) (imm : Half) (s : State) (cx : Cx), Ready (.hsetn x imm) s cx →
    ∃ t w', exec (.hsetn x imm) s = .next t ∧ Completes s t cx (nextPc cx 0) w' ∧ SameWarp cx.j cx.w w' ∧ SlotFrame s t
      ∧ match decodeF fF32 (readS s cx.w x.toNat).toNat with
        | .nan => HeadingResult cx.w w' imm.toNat nanHeading (s.now + 8) (s.now + 16)
        | .inf false => HeadingResult cx.w w' imm.toNat nanHeading (s.now + 8) (s.now + 16)
        | .inf true => HeadingResult cx.w w' imm.toNat zeroHeading (s.now + 8) (s.now + 16)
        | .fin _ _ _ =>
          if (readH cx.w imm.toNat).codes.all fun c => decide (c = 0) then
            HeadingResult cx.w w' imm.toNat zeroHeading (s.now + 8) (s.now + 16)
          else Results cx.w w' (.norm imm.toNat) (.word (readS s cx.w x.toNat)) (BitVec.allOnes 64) (s.now + 16)

/-! Stack words. `t0` is the state their meaning starts from. -/

/-- CALL, CALLI and MARK with nothing outstanding and room on the stack (R86, R200, R201, R273, R274, R317): a frame header with LINK,
return PC, MODE, mark word, PMAP 0 and the lane mask is stored at ST, and sent where that is memory of kind REMOTE (R161); FB becomes ST
and ST the header's end; CALL and CALLI go to their target, MARK to the next word. No other register and no other byte changes. While the
clock of a core whose slice the header reaches is stopped, the word is made again in the next cycle, and the cores are woken (R258). ENTER
(R201, R281): ST becomes FB + 32 + imm16 where that stays within SLIM, and a result to come for ST is superseded (R51); nothing else
changes. The model's choices, and no rule's: that a header pushed to REMOTE is in memory at once and joins the G batch open at the push
(entry 26), and that a call whose target's cask entry cannot be read goes on with its push (`unbound`, entry 36). -/
def Obligations.FramePush : Prop :=
  (∀ (i : Instr) (s u t0 s1 : State) (cs : List Chunk) (cx : Cx) (p : PushWord), Issues .scalar true i s cx [] u →
    t0 = useSlot .scalar u cx.k → pushOf t0 cx i = some p → p.ready = true → quietSplit cx = true → cx.w.s.length = 64 →
    (stOf cx.w).toNat + 32 ≤ (slimOf cx.w).toNat →
    storeNow t0 (cx.req .store .plain) (stackVa cx.w (stOf cx.w)) (Frame.bytes
      { link := stOf cx.w - fbOf cx.w, rpc := p.rpc, mode := cx.w.mode, markw := p.markw, pmap := 0, mask := cx.sp.mask }) = .ok (cs, s1) →
    (asleep t0 (slicesOf t0 (cx.req .store .plain) (stackVa cx.w (stOf cx.w)) 32) = true →
      exec i s = .next (updSplit (wakeAll u (slicesOf t0 (cx.req .store .plain) (stackVa cx.w (stOf cx.w)) 32)) cx.k cx.j
        fun sp => { sp with wakeAt := s.now + 1 }))
    ∧ (asleep t0 (slicesOf t0 (cx.req .store .plain) (stackVa cx.w (stOf cx.w)) 32) = false →
    ∃ t w', exec i s = .next t ∧ Completes s t cx (p.target.getD (nextPc cx 0)) w' ∧ fbOf w' = stOf cx.w
      ∧ stOf w' = stOf cx.w + 32 ∧ SameScalars cx.w w' [60, 61] ∧ SameWarp cx.j { cx.w with s := w'.s, bG := w'.bG } w'
      ∧ w'.bG = (if cs.any (fun c => decide (c.2.2.1.kind = 3)) then
          { cx.w.bG with cmds := cx.w.bG.cmds ++ [(s1.nextId, cx.w.bG.opened)] } else cx.w.bG)
      ∧ w'.pend = (cx.w.pend.filter fun r => decide (r.dest ≠ .s 60) && decide (r.dest ≠ .s 61))
      ∧ AccessFrame t0 s1
      ∧ t = { sentRemote s1 cx cx.sp.pc (eff s cx) (stackVa cx.w (stOf cx.w)) cs with warps := t.warps }))
  ∧ ∀ (x : BitVec 6) (imm : Half) (s : State) (cx : Cx), Ready (.enter x imm) s cx → cx.w.s.length = 64 →
    (fbOf cx.w).toNat + 32 + imm.toNat ≤ (slimOf cx.w).toNat →
    ∃ t w', exec (.enter x imm) s = .next t ∧ Completes s t cx (nextPc cx 0) w'
      ∧ stOf w' = fbOf cx.w + 32 + imm.setWidth 32 ∧ SameScalars cx.w w' [61] ∧ SameWarp cx.j { cx.w with s := w'.s } w'
      ∧ w'.pend = (cx.w.pend.filter fun r => decide (r.dest ≠ .s 61)) ∧ SlotFrame s t

/-- RET from a plain frame, and UNMARK from a mark frame, with nothing outstanding (R201, R203, R333, R356): the header at FB is read;
ST becomes FB and FB goes down by LINK. RET restores MODE and the lanes of the header that have not left and are in no other split, and
goes to the return PC; UNMARK goes on with the next word. RET from the frame of a VCALLI (R87) where a called lane has a higher target:
the record takes the lowest such target, a frame for it is pushed, and its lanes go there; where none has: the record is popped too, and
the lanes go to the word after the VCALLI and its literals. That the called lanes leave out those another live split holds (entry 49), that
the next target's cask entry may fail to be read (`unbound`, entry 36), and when a record or header of kind REMOTE is stored (entry 26), are
the model's choices. -/
def Obligations.FramePop : Prop :=
  (∀ (x : BitVec 6) (imm : Half) (s s2 : State) (cx : Cx) (f : Frame), Ready (.ret x imm) s cx → quietSplit cx = true →
    cx.w.s.length = 64 → inBase cx.w = false → readFrame (useScalar (unpark s cx) cx.k) cx (fbOf cx.w) = .ok (f, s2) →
    f.marked = false → restoredMask cx.w cx.j f.mask ≠ 0 →
    (f.rpc.getLsbD 0 = false →
      ∃ t w', exec (.ret x imm) s = .next t ∧ Arrives s t cx f.rpc (f.mask &&& ~~~cx.w.exited &&& ~~~(otherLanes cx.w cx.j)) w'
        ∧ stOf w' = fbOf cx.w ∧ fbOf w' = fbOf cx.w - f.link ∧ w'.mode = f.mode &&& 0xFFFC ∧ SameScalars cx.w w' [60, 61]
        ∧ SameWarp cx.j { cx.w with s := w'.s, mode := w'.mode } w' ∧ AccessFrame (useScalar (unpark s cx) cx.k) s2
        ∧ t = { s2 with warps := t.warps })
    ∧ ∀ (s5 : State) (c : Cx) (d a b : BitVec 7) (rec0 : Word) (bs : List Byte) (row : Row), f.rpc.getLsbD 0 = true →
        GroupReturn s2 s5 cx c f d a b rec0 bs row →
        (nextTarget (calledLanes c bs) (groupTarget s5 c b row) (some (BitVec.ofNat 64 (field bs 0 8))) = none →
          ∃ t w', exec (.ret x imm) s = .next t
            ∧ Arrives s t cx (f.rpc - 1 + BitVec.ofNat 64 (4 * (litCount (.vcalli d a b) + 1))) (restoredMask cx.w cx.j f.mask) w'
            ∧ stOf w' = rec0 ∧ fbOf w' = fbOf cx.w - f.link ∧ w'.mode = f.mode &&& 0xFFFC ∧ SameScalars cx.w w' [60, 61]
            ∧ SameWarp cx.j { cx.w with s := w'.s, mode := w'.mode } w' ∧ t = { s5 with warps := t.warps })
        ∧ ∀ (g : DWord) (s6 s7 : State),
          nextTarget (calledLanes c bs) (groupTarget s5 c b row) (some (BitVec.ofNat 64 (field bs 0 8))) = some g → g.toNat % 4 = 0 →
          (fbOf cx.w).toNat + 32 ≤ (slimOf cx.w).toNat → unbound s5 c g = false →
          stackStore s5 c (stackVa cx.w rec0) (leBytes 8 g.toNat) = .ok s6 →
          stackStore s6 c (stackVa cx.w (fbOf cx.w)) (Frame.bytes
            { link := f.link, rpc := f.rpc, mode := f.mode &&& 0xFFFC, markw := 0, pmap := 0
              mask := restoredMask cx.w cx.j f.mask }) = .ok s7 →
          ∃ t w', exec (.ret x imm) s = .next t ∧ Arrives s t cx g (groupMask (calledLanes c bs) (groupTarget s5 c b row) g) w'
            ∧ fbOf w' = fbOf cx.w ∧ stOf w' = fbOf cx.w + 32 ∧ w'.mode = f.mode &&& 0xFFFC ∧ SameScalars cx.w w' [60, 61]
            ∧ SameWarp cx.j { cx.w with s := w'.s, mode := w'.mode, bG := w'.bG } w'
            ∧ (warpAt s7 cx.k).map (fun v => v.bG) = some w'.bG ∧ t = { s7 with warps := t.warps })
  ∧ ∀ (x : BitVec 6) (imm : Half) (s u t0 s2 : State) (cx : Cx) (f : Frame), Issues .scalar true (.unmark x imm) s cx [] u →
    t0 = useSlot .scalar u cx.k → quietSplit cx = true → cx.w.s.length = 64 → inBase cx.w = false →
    readFrame t0 cx (fbOf cx.w) = .ok (f, s2) → f.marked = true →
    ∃ t w', exec (.unmark x imm) s = .next t ∧ Completes s t cx (nextPc cx 0) w' ∧ stOf w' = fbOf cx.w
      ∧ fbOf w' = fbOf cx.w - f.link ∧ SameScalars cx.w w' [60, 61] ∧ SameWarp cx.j { cx.w with s := w'.s } w'
      ∧ AccessFrame t0 s2 ∧ t = { s2 with warps := t.warps }

/-- CUT with nothing outstanding, a mark with its tag, a frame above it and a buffer that holds the slice (R204, R205, R276): header,
checksum and frames are stored at the buffer, S0 and S1 hold its address and S2 the slice's size, the frames and the mark are popped, MODE
and the lanes are those of the mark's header, and the split goes to its return PC once flag SA clears; vector registers, predicates,
headings and the rest of the warp stay as they are. When a slice of kind REMOTE is stored is the model's choice (entry 26). -/
def Obligations.SliceCut : Prop :=
  ∀ (x : BitVec 6) (imm : Half) (s u t0 s1 s2 s3 : State) (cx : Cx) (r : CutWalk) (f origin : Word) (fh : Frame) (frames : List Byte)
    (buf : DWord), Issues .scalar true (.cut x imm) s cx [] u → t0 = useSlot .scalar u cx.k → (cxFlag cx true).isSome = true →
    cx.w.iter = none → quietSplit cx = true → cx.w.s.length = 64 → buf = readPair t0 cx.w x.toNat → buf.toNat % 8 = 0 →
    cutWalk cx imm ((fbOf cx.w).toNat + 1) (fbOf cx.w) none 0 t0 = .ok (r, s1) → r.mark = some (f, fh) → r.low = some origin →
    128 + (stOf cx.w - origin).toNat ≤ (readS t0 cx.w (x.toNat + 2)).toNat →
    rangesMeet buf.toNat (128 + (stOf cx.w - origin).toNat) (stackVa cx.w origin).toNat (stOf cx.w - origin).toNat = false →
    stackLoad s1 cx (stackVa cx.w origin) (stOf cx.w - origin).toNat = .ok (frames, s2) →
    stackStore s2 cx buf ((cutHeader t0 cx imm r origin).bytes
      ++ leBytes 4 (crc32c ((cutHeader t0 cx imm r origin).bytes ++ frames)).toNat ++ frames) = .ok s3 →
    restoredMask cx.w cx.j fh.mask ≠ 0 →
    ∃ t w' o, exec (.cut x imm) s = .next t ∧ Arrives s t cx fh.rpc (restoredMask cx.w cx.j fh.mask) w'
      ∧ stOf w' = origin ∧ fbOf w' = f ∧ w'.s.getD 0 0 = buf.setWidth 32 ∧ w'.s.getD 1 0 = buf.extractLsb' 32 32
      ∧ w'.s.getD 2 0 = BitVec.ofNat 32 (128 + (stOf cx.w - origin).toNat) ∧ SameScalars cx.w w' [0, 1, 2, 60, 61] ∧ w'.mode = fh.mode &&& 0xFFFC
      ∧ w'.ops = cx.base.ops ++ [o] ∧ o.flag = cxFlag cx true ∧ o.blocks = true ∧ o.split = cx.j
      ∧ SameWarp cx.j { cx.w with s := w'.s, mode := w'.mode, ops := w'.ops, bG := w'.bG } w'
      ∧ w'.pend = (cx.w.pend.filter fun r => !([0, 1, 2, 60, 61].any fun n => decide (r.dest = Dest.s n)))
      ∧ (warpAt s3 cx.k).map (fun v => v.bG) = some w'.bG ∧ t = { s3 with warps := t.warps, nextId := t.nextId, times := t.times }

/-- GRAFT of a slice that passes every check, with nothing outstanding (R206, R207, R290, R291): its frames are stored at ST with their
stack addresses remapped, the lowest linked to FB with return PC, MODE and lanes of the split; S16 to S31, MODE and the resume PC come
from the header, FB and ST stand at the slice's top frame, the lanes are those of the header that the split has, and the split goes on
once flag SA clears; vector registers, predicates, headings and the rest of the warp stay as they are. When frames on a stack of kind REMOTE
are stored is the model's choice (entry 26). -/
def Obligations.SliceGraft : Prop :=
  ∀ (x : BitVec 6) (imm : Half) (s u t0 s1 s2 s3 : State) (cx : Cx) (a : DWord) (h bs : List Byte) (offs : List Nat) (m : Mask),
    Issues .scalar true (.graft x imm) s cx [] u → t0 = useSlot .scalar u cx.k → lastInClause cx (.graft x imm) = true →
    (cxFlag cx true).isSome = true → cx.w.iter = none → quietSplit cx = true → cx.w.s.length = 64 → a = readPair t0 cx.w x.toNat →
    a.toNat % 8 = 0 → stackLoad t0 cx a 128 = .ok (h, s1) → field h 0 4 = 0x534C4943 → field h 4 4 = 1 → field h 8 2 = cx.w.asid →
    (stOf cx.w).toNat + field h 16 4 ≤ (slimOf cx.w).toNat → stackLoad s1 cx (a + 128) (field h 16 4) = .ok (bs, s2) →
    crc32c (h.take 124 ++ bs) = BitVec.ofNat 32 (field h 124 4) → field h 20 4 + 32 ≤ field h 16 4 → field h 16 4 % 8 = 0 →
    field h 20 4 % 8 = 0 → sliceFrames bs (field h 10 2) (field h 20 4) = some offs →
    m = restoredMask cx.w cx.j (BitVec.ofNat 64 (field h 40 8) &&& cx.sp.mask) → m ≠ 0 →
    stackStore s2 cx (stackVa cx.w (stOf cx.w))
      (patch (patch (remapAll (BitVec.ofNat 64 (field h 24 8)) (field h 16 4)
        (stackVa cx.w (stOf cx.w) - BitVec.ofNat 64 (field h 24 8)) offs (field h 16 4) bs) 0
          (leBytes 4 (stOf cx.w - fbOf cx.w).toNat ++ leBytes 8 (cx.sp.pc + 4).toNat ++ leBytes 4 cx.w.mode.toNat))
        24 (leBytes 8 cx.sp.mask.toNat)) = .ok s3 →
    ∃ t w' o, exec (.graft x imm) s = .next t ∧ Arrives s t cx (BitVec.ofNat 64 (field h 32 8)) m w'
      ∧ fbOf w' = stOf cx.w + BitVec.ofNat 32 (field h 20 4) ∧ stOf w' = stOf cx.w + BitVec.ofNat 32 (field h 16 4)
      ∧ (∀ n, n < 16 → w'.s.getD (16 + n) 0 = BitVec.ofNat 32 (field h (48 + 4 * n) 4))
      ∧ SameScalars cx.w w' ([60, 61] ++ (List.range 16).map fun n => 16 + n) ∧ w'.mode = BitVec.ofNat 16 (field h 112 4) &&& 0xFFFC
      ∧ w'.ops = cx.base.ops ++ [o] ∧ o.flag = cxFlag cx true ∧ o.blocks = true ∧ o.split = cx.j
      ∧ SameWarp cx.j { cx.w with s := w'.s, mode := w'.mode, ops := w'.ops, bG := w'.bG } w'
      ∧ w'.pend = (cx.w.pend.filter fun r => !(([60, 61] ++ (List.range 16).map fun n => 16 + n).any fun n => decide (r.dest = Dest.s n)))
      ∧ (warpAt s3 cx.k).map (fun v => v.bG) = some w'.bG ∧ t = { s3 with warps := t.warps, nextId := t.nextId, times := t.times }

/-- VCALLI with room for its record and header (R87, R365): the record of the first group's target and the called lanes, with the
offsets where they came from a keg, and above it a frame header whose return PC is the word's address plus 1 are stored; FB and ST move
above; the split goes with the lanes of the lowest target to that target. When a record or header of kind REMOTE is stored (entry 26), and
that a call whose target's cask entry cannot be read goes on with its push (`unbound`, entry 36), are the model's choices. -/
def Obligations.GroupCall : Prop :=
  ∀ (d a b : BitVec 7) (s t0 s1 s2 : State) (cx : Cx) (ls : List Word) (x : VIn) (g : DWord) (r : Nat),
    Issues (.vector false) true (.vcalli d a b) s cx ls t0 → lastInClause cx (.vcalli d a b) = true →
    readOperands (.vcalli d a b) cx ls { VSpec.simple d [a] with dst := none } t0 = .ok x → quietSplit cx = true → cx.w.s.length = 64 →
    nextTarget (eff s cx) (fun l => readPair t0 cx.w b.toNat + (lane (x.row 0) l).signExtend 64) none = some g → g.toNat % 4 = 0 →
    r = (if 112 ≤ a.toNat ∧ a.toNat < 120 then 272 else 16) → (stOf cx.w).toNat + r + 32 ≤ (slimOf cx.w).toNat →
    unbound t0 cx g = false →
    stackStore x.s cx (stackVa cx.w (stOf cx.w)) (leBytes 8 g.toNat ++ leBytes 8 (eff s cx).toNat
      ++ (if 112 ≤ a.toNat ∧ a.toNat < 120 then (List.range 64).flatMap fun l => leBytes 4 (lane (x.row 0) l).toNat else [])) = .ok s1 →
    stackStore s1 cx (stackVa cx.w (stOf cx.w + BitVec.ofNat 32 r)) (Frame.bytes
      { link := stOf cx.w + BitVec.ofNat 32 r - fbOf cx.w, rpc := cx.sp.pc + 1, mode := cx.w.mode, markw := 0, pmap := 0
        mask := cx.sp.mask }) = .ok s2 →
    ∃ t w', exec (.vcalli d a b) s = .next t
      ∧ ArrivesV s t cx g (groupMask (eff s cx) (fun l => readPair t0 cx.w b.toNat + (lane (x.row 0) l).signExtend 64) g) w'
      ∧ fbOf w' = stOf cx.w + BitVec.ofNat 32 r ∧ stOf w' = stOf cx.w + BitVec.ofNat 32 r + 32 ∧ SameScalars cx.w w' [60, 61]
      ∧ SameWarp cx.j { cx.w with s := w'.s, bG := w'.bG } w' ∧ (warpAt s2 cx.k).map (fun v => v.bG) = some w'.bG
      ∧ t = { s2 with warps := t.warps }

/-! Divisions and ends. -/

/-- BRDIV (R82, R270) of a split whose active lanes go both ways, with a free entry in its warp's table and its quadrant's pool: the entry
keeps the fallthrough lanes at the next word, the lowest free entry takes the taken lanes at the target, both descend from a new division,
what the split has outstanding precedes the words of both (R148), and every other split, register and byte is as it was. With no free entry
and room for a record (R85): the record of the fallthrough lanes and the next word is stored, and the entry goes to the target with the
taken lanes, under a serialised division; while the clock of a core whose slice the record reaches is stopped, the word is made again in the
next cycle, and the cores are woken (R258). Where all lanes go one way: none taken, the split goes on; all taken, it goes to the target.
When a record of kind REMOTE is stored is the model's choice (entry 26). -/
def Obligations.SplitDivision : Prop :=
  (∀ (x : BitVec 6) (imm : Half) (s : State) (cx : Cx) (n : Nat) (tk : Mask), Ready (.brdiv x imm) s cx →
    tk = eff s cx &&& cx.w.p.getD x.toNat 0 → tk ≠ 0 → cx.sp.mask &&& ~~~tk ≠ 0 → poolUsed (unpark s cx) cx.k < 64 →
    freeSplit cx.w = some n →
    ∃ t w' a b, exec (.brdiv x imm) s = .next t ∧ warpAt t cx.k = some w' ∧ tget w'.splits cx.j = some a ∧ tget w'.splits n = some b
      ∧ a.pc = nextPc cx 0 ∧ a.mask = cx.sp.mask &&& ~~~tk ∧ b.pc = cx.sp.pc + imm.signExtend 64 * 4 ∧ b.mask = tk
      ∧ a.park = .running ∧ b.park = .running ∧ a.path.map (·.id) = cx.w.divCtr :: cx.sp.path.map (·.id) ∧ b.path = a.path
      ∧ w'.divCtr = cx.w.divCtr + 1
      ∧ w'.ops = cx.base.ops.map (fun o => if o.before cx.j then { o with order := n :: o.order } else o)
      ∧ (∀ j, j ≠ cx.j → j ≠ n → (tget w'.splits j).map Split.core = (tget cx.w.splits j).map Split.core)
      ∧ (∀ k, k ≠ cx.k → warpAt t k = warpAt s k) ∧ SameWarp cx.j { cx.w with divCtr := w'.divCtr, ops := w'.ops } w'
      ∧ w'.pend = cx.w.pend ∧ SlotFrame s t)
  ∧ (∀ (x : BitVec 6) (imm : Half) (s u s1 : State) (cs : List Chunk) (cx : Cx) (tk : Mask) (va : DWord), Ready (.brdiv x imm) s cx →
    tk = eff s cx &&& cx.w.p.getD x.toNat 0 → tk ≠ 0 → cx.sp.mask &&& ~~~tk ≠ 0 →
    (64 ≤ poolUsed (unpark s cx) cx.k ∨ freeSplit cx.w = none) → cx.w.spills.length < 32 → quietSplit cx = true →
    u = useScalar (unpark s cx) cx.k → va = spillVa cx.w cx.w.spills.length →
    storeNow u (cx.req .store .plain) va
      (leBytes 8 (cx.sp.mask &&& ~~~tk).toNat ++ leBytes 4 ((cx.sp.pc + 4).setWidth 32 : Word).toNat ++ leBytes 4 cx.w.divCtr.toNat)
        = .ok (cs, s1) →
    (asleep u (slicesOf u (cx.req .store .plain) va 16) = true →
      exec (.brdiv x imm) s = .next (updSplit (wakeAll (unpark s cx) (slicesOf u (cx.req .store .plain) va 16)) cx.k cx.j
        fun sp => { sp with wakeAt := s.now + 1 }))
    ∧ (asleep u (slicesOf u (cx.req .store .plain) va 16) = false →
    ∃ t w' sp, exec (.brdiv x imm) s = .next t ∧ Arrives s t cx (cx.sp.pc + imm.signExtend 64 * 4) tk w'
      ∧ tget w'.splits cx.j = some sp ∧ sp.path.map (fun d => (d.id, d.serial))
          = (cx.w.divCtr, true) :: cx.sp.path.map (fun d => (d.id, d.serial))
      ∧ (∃ r, w'.spills = cx.w.spills ++ [r] ∧ r.id = cx.w.divCtr ∧ r.brdiv = cx.sp.pc ∧ r.mask = cx.sp.mask)
      ∧ SameWarp cx.j { cx.w with divCtr := cx.w.divCtr + 1, spills := w'.spills, bG := w'.bG } w' ∧ w'.pend = cx.w.pend
      ∧ AccessFrame u s1 ∧ t = { sentRemote s1 cx cx.sp.pc (eff s cx) va cs with warps := t.warps }))
  ∧ ∀ (x : BitVec 6) (imm : Half) (s : State) (cx : Cx) (tk : Mask), Ready (.brdiv x imm) s cx →
    tk = eff s cx &&& cx.w.p.getD x.toNat 0 → (tk = 0 ∨ cx.sp.mask &&& ~~~tk = 0) →
    ∃ t w', exec (.brdiv x imm) s = .next t
      ∧ Completes s t cx (if tk = 0 then nextPc cx 0 else cx.sp.pc + imm.signExtend 64 * 4) w' ∧ SameWarp cx.j cx.w w'
      ∧ w'.pend = cx.w.pend ∧ SlotFrame s t

/-- RJOIN (R84, R335): the only split of a warp, under no serialised division, goes on with its innermost division closed; one of several
whose innermost division has a live descendant elsewhere parks at the RJOIN; the last one of a division whose other live descendants are
parked at the same RJOIN, with nothing outstanding, merges with them: the entry with the lowest index goes on after the RJOIN with all their
lanes, the division closed, and the other entries are free. In a serialised division (R85, R389) the split of the taken side leaves its
place in the record and goes on with the deferred side's lanes at theirs; the split of the second side takes in the record's lanes, or,
where none is left, goes on with its own, and the division is closed; what the taken side has outstanding goes on under a name of its own
while the record holds it (R229). An RJOIN that leaves the warp one split sets the presence that divergence has deferred, of writes and of
XREL, by the writes themselves where they are outstanding (R99, R384). Nothing else changes. When a record of kind REMOTE is stored is the
model's choice (entry 26). -/
def Obligations.Reconvergence : Prop :=
  (∀ (x : BitVec 6) (imm : Half) (s : State) (cx : Cx), Ready (.rjoin x imm) s cx → joinForbidden cx = false →
    othersLive cx.w cx.j = false → (cx.sp.path.any fun d => d.serial) = false → cx.w.deferPresence = [] → cx.w.deferXrel = false →
    ∃ t w' sp, exec (.rjoin x imm) s = .next t ∧ Arrives s t cx (nextPc cx 0) cx.sp.mask w' ∧ tget w'.splits cx.j = some sp
      ∧ sp.path = cx.sp.path.drop 1 ∧ SameWarp cx.j cx.w w' ∧ w'.pend = cx.w.pend ∧ SlotFrame s t)
  ∧ (∀ (x : BitVec 6) (imm : Half) (s : State) (cx : Cx) (d : Division) (n : Nat) (o : Split), Ready (.rjoin x imm) s cx →
    joinForbidden cx = false → n ≠ cx.j → tget cx.w.splits n = some o → tableWf cx.w.splits = true → cx.sp.inner = some d →
    (∀ k sp, tget cx.w.splits k = some sp → sp.joinAddr = none ∧ sp.descends d.id = true) →
    ∃ t w' sp, exec (.rjoin x imm) s = .next t ∧ warpAt t cx.k = some w' ∧ tget w'.splits cx.j = some sp
      ∧ sp.park = .rjoin cx.sp.pc ∧ sp.pc = cx.sp.pc ∧ sp.mask = cx.sp.mask ∧ sp.path = cx.sp.path
      ∧ (∀ j, j ≠ cx.j → (tget w'.splits j).map Split.core = (tget cx.w.splits j).map Split.core)
      ∧ SameWarp cx.j cx.w w' ∧ w'.pend = cx.w.pend ∧ (∀ k, k ≠ cx.k → warpAt t k = warpAt s k) ∧ SlotFrame s t)
  ∧ (∀ (x : BitVec 6) (imm : Half) (s : State) (cx : Cx) (d : Division) (n : Nat) (o : Split), Ready (.rjoin x imm) s cx →
    joinForbidden cx = false → othersLive cx.w cx.j = true → tableWf cx.w.splits = true → cx.sp.inner = some d → d.serial = false →
    (∀ k sp, k ≠ cx.j → tget cx.w.splits k = some sp →
      (sp.descends d.id = true → sp.park = .rjoin cx.sp.pc ∧ sp.inner = some d) ∧ (sp.descends d.id = false → sp.joinAddr = none)) →
    (∀ y ∈ cx.base.ops, ∀ k sp, tget cx.w.splits k = some sp → sp.descends d.id = true → y.before k = false) →
    cx.w.deferPresence = [] → cx.w.deferXrel = false →
    tget cx.w.splits n = some o → o.descends d.id = true → (∀ k sp, tget cx.w.splits k = some sp → sp.descends d.id = true → n ≤ k) →
    ∃ t w' sp, exec (.rjoin x imm) s = .next t ∧ warpAt t cx.k = some w' ∧ tget w'.splits n = some sp
      ∧ sp.pc = cx.sp.pc + 4 ∧ sp.park = .running ∧ sp.path = o.path.drop 1
      ∧ (∀ l, sp.mask.getLsbD l = true ↔ ∃ k q, tget cx.w.splits k = some q ∧ q.descends d.id = true ∧ q.mask.getLsbD l = true)
      ∧ (∀ k q, k ≠ n → tget cx.w.splits k = some q → q.descends d.id = true → tget w'.splits k = none)
      ∧ (∀ k q, tget cx.w.splits k = some q → q.descends d.id = false → (tget w'.splits k).map Split.core = some q.core)
      ∧ w'.ops.map Op.unnamed = cx.base.ops.map Op.unnamed
      ∧ w'.deferred.map DeferredTrap.unnamed = cx.w.deferred.map DeferredTrap.unnamed
      ∧ SameWarp cx.j { cx.w with ops := w'.ops, deferred := w'.deferred, handler := w'.handler } w' ∧ w'.pend = cx.w.pend
      ∧ (∀ k, k ≠ cx.k → warpAt t k = warpAt s k) ∧ t.remotes.map RemoteWrite.unnamed = s.remotes.map RemoteWrite.unnamed
      ∧ SlotFrame { s with remotes := t.remotes } t)
  ∧ (∀ (x : BitVec 6) (imm : Half) (s s1 s2 : State) (cx : Cx) (r : SpillRec) (bs : List Byte) (cs : List Chunk) (m : Mask) (va : DWord),
    Ready (.rjoin x imm) s cx → SerialJoin s s1 cx r bs → m = r.lanes cx.w bs → m ≠ 0 → (field bs 8 4).testBit 0 = false →
    va = spillVa cx.w (cx.w.spills.length - 1) →
    storeNow s1 (cx.req .store .plain) va
      (leBytes 8 cx.sp.mask.toNat ++ leBytes 4 ((cx.sp.pc.setWidth 32 : Word) ||| 1).toNat) = .ok (cs, s2) →
    ∃ t w' sp, exec (.rjoin x imm) s = .next t
      ∧ Arrives s t cx (r.brdiv.extractLsb' 32 32 ++ (BitVec.ofNat 32 (field bs 8 4) : Word)) m w'
      ∧ tget w'.splits cx.j = some sp ∧ sp.path = cx.sp.path
      ∧ (∃ n, w'.spills = cx.w.spills.dropLast ++ [{ r with joinAt := cx.sp.clause, owner := n }]
          ∧ Renames cx.k (fun i => if i = cx.j then n else i) cx.base w' (sentRemote s2 cx cx.sp.pc (eff s cx) va cs) t ∧ 8 ≤ n)
      ∧ SameWarp cx.j { cx.w with spills := w'.spills, bG := w'.bG, ops := w'.ops, deferred := w'.deferred } w' ∧ w'.pend = cx.w.pend
      ∧ t = { sentRemote s2 cx cx.sp.pc (eff s cx) va cs with warps := t.warps, remotes := t.remotes, nextId := t.nextId })
  ∧ (∀ (x : BitVec 6) (imm : Half) (s s1 : State) (cx : Cx) (r : SpillRec) (bs : List Byte),
    Ready (.rjoin x imm) s cx → SerialJoin s s1 cx r bs → cx.w.deferPresence = [] → cx.w.deferXrel = false →
    (field bs 8 4).testBit 0 = true → (BitVec.ofNat 32 (field bs 8 4) : Word) &&& ~~~1 = cx.sp.pc.setWidth 32 →
    ∃ t w' sp, exec (.rjoin x imm) s = .next t
      ∧ Arrives s t cx (nextPc cx 0) (cx.sp.mask ||| r.lanes cx.w bs) w'
      ∧ tget w'.splits cx.j = some sp ∧ sp.path = cx.sp.path.drop 1 ∧ w'.spills = cx.w.spills.dropLast
      ∧ Renames cx.k (r.names cx.j) cx.base w' s1 t
      ∧ SameWarp cx.j { cx.w with spills := w'.spills, ops := w'.ops, deferred := w'.deferred } w' ∧ w'.pend = cx.w.pend
      ∧ t = { s1 with warps := t.warps, remotes := t.remotes })
  ∧ (∀ (x : BitVec 6) (imm : Half) (s s1 s2 : State) (cx : Cx) (r : SpillRec) (bs : List Byte) (cs : List Chunk) (va : DWord),
    Ready (.rjoin x imm) s cx → SerialJoin s s1 cx r bs → cx.w.deferPresence = [] → cx.w.deferXrel = false →
    (field bs 8 4).testBit 0 = false → r.lanes cx.w bs = 0 → va = spillVa cx.w (cx.w.spills.length - 1) →
    storeNow s1 (cx.req .store .plain) va
      (leBytes 8 cx.sp.mask.toNat ++ leBytes 4 ((cx.sp.pc.setWidth 32 : Word) ||| 1).toNat) = .ok (cs, s2) →
    ∃ t w' sp, exec (.rjoin x imm) s = .next t ∧ Arrives s t cx (nextPc cx 0) cx.sp.mask w'
      ∧ tget w'.splits cx.j = some sp ∧ sp.path = cx.sp.path.drop 1 ∧ w'.spills = cx.w.spills.dropLast
      ∧ SameWarp cx.j { cx.w with spills := w'.spills, bG := w'.bG } w' ∧ w'.pend = cx.w.pend
      ∧ t = { sentRemote s2 cx cx.sp.pc (eff s cx) va cs with warps := t.warps })
  ∧ (∀ (x : BitVec 6) (imm : Half) (s : State) (cx : Cx), Ready (.rjoin x imm) s cx → joinForbidden cx = false →
    cx.w.splits = [(cx.j, cx.sp)] → cx.w.spills = [] → (cx.sp.path.any fun d => d.serial) = false →
    ∃ t w' sp, exec (.rjoin x imm) s = .next t ∧ Arrives s t cx (nextPc cx 0) cx.sp.mask w' ∧ tget w'.splits cx.j = some sp
      ∧ sp.path = cx.sp.path.drop 1 ∧ SameWarp cx.j { cx.w with ops := w'.ops, deferXrel := false } w' ∧ PresenceSet s t cx w'
      ∧ t.remotes = s.remotes)
  ∧ ∀ (x : BitVec 6) (imm : Half) (s : State) (cx : Cx) (d : Division) (n : Nat) (o : Split), Ready (.rjoin x imm) s cx →
    joinForbidden cx = false → othersLive cx.w cx.j = true → tableWf cx.w.splits = true → cx.sp.inner = some d → d.serial = false →
    cx.w.spills = [] →
    (∀ k sp, tget cx.w.splits k = some sp → sp.inner = some d ∧ (k ≠ cx.j → sp.park = .rjoin cx.sp.pc) ∧ n ≤ k) →
    (∀ y ∈ cx.base.ops, ∀ k sp, tget cx.w.splits k = some sp → y.before k = false) → tget cx.w.splits n = some o →
    ∃ t w' sp, exec (.rjoin x imm) s = .next t ∧ warpAt t cx.k = some w' ∧ w'.splits = [(n, sp)] ∧ sp.pc = cx.sp.pc + 4
      ∧ sp.park = .running ∧ PresenceSet s t cx w' ∧ (∀ k, k ≠ cx.k → warpAt t k = warpAt s k)
      ∧ t.remotes.map RemoteWrite.unnamed = s.remotes.map RemoteWrite.unnamed

/-- EXIT (R282), and EXITL (R89, R284) of the last lanes of an undivided warp: the warp parks to end: its other splits are gone but those
whose words are still to be replayed, its claims have left their quadrant's queue, no handler runs in it any more, and nothing else changes;
that EXIT ends a handler is the model's choice (entry 48). EXITL of some of a split's lanes: they leave the split for good, and it goes on.
EXITL of all lanes of one of several splits: its entry is free, what it has outstanding is no live split's, and nothing else changes (R89,
R229). EXITL of the last lanes of the only split under a serialised division (R389): the entry takes the side that the top record holds, the
deferred one at its place, or the taken one after its RJOIN with the division closed. -/
def Obligations.WarpEnd : Prop :=
  (∀ (x : BitVec 6) (imm : Half) (s : State) (cx : Cx), Ready (.exit x imm) s cx →
    ∃ t, exec (.exit x imm) s = .next t ∧ Exits s t cx)
  ∧ (∀ (x : BitVec 6) (imm : Half) (s : State) (cx : Cx), Ready (.exitl x imm) s cx → cx.sp.mask &&& ~~~(eff s cx) ≠ 0 →
    ∃ t w', exec (.exitl x imm) s = .next t ∧ Arrives s t cx (nextPc cx 0) (cx.sp.mask &&& ~~~(eff s cx)) w'
      ∧ w'.exited = cx.w.exited ||| eff s cx ∧ SameWarp cx.j { cx.w with exited := w'.exited } w' ∧ w'.pend = cx.w.pend ∧ SlotFrame s t)
  ∧ (∀ (x : BitVec 6) (imm : Half) (s : State) (cx : Cx), Ready (.exitl x imm) s cx → cx.sp.mask &&& ~~~(eff s cx) = 0 →
    othersLive cx.w cx.j = false → (cx.sp.path.all fun d => !d.serial) = true →
    ∃ t, exec (.exitl x imm) s = .next t ∧ Exits s t cx)
  ∧ (∀ (x : BitVec 6) (imm : Half) (s : State) (cx : Cx), Ready (.exitl x imm) s cx → cx.sp.mask &&& ~~~(eff s cx) = 0 →
    tableWf cx.w.splits = true → quietSplit cx = true → othersLive cx.w cx.j = true →
    (∀ d, cx.sp.inner = some d → ∃ n o, n ≠ cx.j ∧ tget cx.w.splits n = some o ∧ o.descends d.id = true) →
    (∀ k sp, tget cx.w.splits k = some sp → sp.joinAddr = none) →
    ∃ t w' n, exec (.exitl x imm) s = .next t ∧ warpAt t cx.k = some w' ∧ tget w'.splits cx.j = none
      ∧ (∀ j, j ≠ cx.j → (tget w'.splits j).map Split.core = (tget cx.w.splits j).map Split.core)
      ∧ w'.exited = cx.w.exited ||| eff s cx ∧ 8 ≤ n ∧ w'.ops.map Op.unnamed = cx.base.ops.map Op.unnamed
      ∧ w'.ops.map (fun o => o.split) = cx.base.ops.map (fun o => if o.split = cx.j then n else o.split)
      ∧ w'.deferred = (cx.w.deferred.map fun d => { d with split := if d.split = cx.j then n else d.split })
      ∧ SameWarp cx.j { cx.w with exited := w'.exited, ops := w'.ops, deferred := w'.deferred } w' ∧ w'.pend = cx.w.pend
      ∧ (∀ k, k ≠ cx.k → warpAt t k = warpAt s k) ∧ t.remotes.map RemoteWrite.unnamed = s.remotes.map RemoteWrite.unnamed
      ∧ SlotFrame { s with remotes := t.remotes } t)
  ∧ (∀ (x : BitVec 6) (imm : Half) (s s1 : State) (cx : Cx) (r : SpillRec) (bs : List Byte) (d : Division) (rest : List Division) (m : Mask),
    Ready (.exitl x imm) s cx → SerialExit s s1 cx r bs d rest → m = r.lanes cx.w bs &&& ~~~(eff s cx) → m ≠ 0 →
    (field bs 8 4).testBit 0 = false →
    ∃ t w' sp n, exec (.exitl x imm) s = .next t
      ∧ Arrives s t cx (r.brdiv.extractLsb' 32 32 ++ (BitVec.ofNat 32 (field bs 8 4) : Word)) m w'
      ∧ tget w'.splits cx.j = some sp ∧ sp.path = { d with serial := false } :: rest ∧ w'.spills = cx.w.spills.dropLast
      ∧ w'.exited = cx.w.exited ||| eff s cx ∧ 8 ≤ n ∧ Renames cx.k (fun i => if i = cx.j then n else i) cx.base w' s1 t
      ∧ SameWarp cx.j { cx.w with spills := w'.spills, exited := w'.exited, ops := w'.ops, deferred := w'.deferred } w'
      ∧ w'.pend = cx.w.pend ∧ t = { s1 with warps := t.warps, remotes := t.remotes, nextId := t.nextId })
  ∧ ∀ (x : BitVec 6) (imm : Half) (s s1 : State) (cx : Cx) (r : SpillRec) (bs : List Byte) (d : Division) (rest : List Division) (m : Mask)
    (a : Word), Ready (.exitl x imm) s cx → SerialExit s s1 cx r bs d rest → m = r.lanes cx.w bs &&& ~~~(eff s cx) → m ≠ 0 →
    (field bs 8 4).testBit 0 = true → a = BitVec.ofNat 32 (field bs 8 4) &&& ~~~1 → cx.w.deferPresence = [] → cx.w.deferXrel = false →
    ∃ t w' sp n, exec (.exitl x imm) s = .next t ∧ Arrives s t cx (r.brdiv.extractLsb' 32 32 ++ a + 4) m w'
      ∧ tget w'.splits cx.j = some sp ∧ sp.path = rest ∧ w'.spills = cx.w.spills.dropLast
      ∧ w'.exited = cx.w.exited ||| eff s cx ∧ 8 ≤ n
      ∧ Renames cx.k (fun i => r.names cx.j (if i = cx.j then n else i)) cx.base w' s1 t
      ∧ SameWarp cx.j { cx.w with spills := w'.spills, exited := w'.exited, ops := w'.ops, deferred := w'.deferred } w'
      ∧ w'.pend = cx.w.pend ∧ t = { s1 with warps := t.warps, remotes := t.remotes, nextId := t.nextId }

/-! Register blocks, brews, barriers, batches. -/

/-- CLAIM and SURR (R32, R275, R349): a CLAIM of up to 10 blocks in all parks its split at the end of its quadrant's claim queue; a SURR
of no more than the allotment takes the highest blocks from the warp and leaves one operation that will return them. The latches of every
split of the warp are empty then; nothing else changes. -/
def Obligations.ClaimAndSurrender : Prop :=
  (∀ (x : BitVec 6) (imm : Half) (s : State) (cx : Cx), Ready (.claim x imm) s cx → cx.w.allot + imm.toNat ≤ 10 →
    (coreAt s (coreOfSlot cx.k)).quads.length = 4 →
    ∃ t w' sp, exec (.claim x imm) s = .next t ∧ warpAt t cx.k = some w' ∧ tget w'.splits cx.j = some sp ∧ sp.park = .claim
      ∧ sp.pc = cx.sp.pc ∧ sp.mask = cx.sp.mask ∧ SameWarp cx.j cx.w w' ∧ w'.pend = cx.w.pend
      ∧ (∀ j, j ≠ cx.j → (tget w'.splits j).map Split.core = (tget cx.w.splits j).map Split.core)
      ∧ (∀ j q, tget w'.splits j = some q → q.latches = noLatches)
      ∧ (∀ k, k ≠ cx.k → warpAt t k = warpAt s k)
      ∧ (quadAt t (coreOfSlot cx.k) (quadOfSlot cx.k)).claims = (quadAt s (coreOfSlot cx.k) (quadOfSlot cx.k)).claims
          ++ [{ slot := some cx.k, split := cx.j, n := imm.toNat }]
      ∧ SlotFrame (setQuad s (coreOfSlot cx.k) (quadOfSlot cx.k) { quadAt s (coreOfSlot cx.k) (quadOfSlot cx.k) with
          claims := (quadAt t (coreOfSlot cx.k) (quadOfSlot cx.k)).claims }) t)
  ∧ ∀ (x : BitVec 6) (imm : Half) (s : State) (cx : Cx), Ready (.surr x imm) s cx → imm.toNat ≤ cx.w.allot →
    ∃ t w' o, exec (.surr x imm) s = .next t ∧ Completes s t cx (nextPc cx 0) w' ∧ w'.allot = cx.w.allot - imm.toNat
      ∧ w'.ops = cx.base.ops ++ [o] ∧ o.kind = .surr (cx.w.allot - imm.toNat) imm.toNat ∧ o.blocks = true ∧ o.flag = none
      ∧ (∀ j q, tget w'.splits j = some q → q.latches = noLatches)
      ∧ SameWarp cx.j { cx.w with allot := w'.allot, ops := w'.ops } w' ∧ w'.pend = cx.w.pend ∧ SlotFrame s t

/-- BREW of at least one iteration in a core without a brew (R91, R92, R271): the warp parks, and the brew of its registers and fields is
active with no iteration warp yet; of its core nothing else changes. XREL in an iteration warp with nothing outstanding (R99, R100, R384):
in an undivided warp the presence of every slot of its block is set, in a divided one that is noted for its last RJOIN; nothing else
changes. -/
def Obligations.Brews : Prop :=
  (∀ (x : BitVec 6) (imm : Half) (s : State) (cx : Cx) (n off : Word), Ready (.brew x imm) s cx → cx.w.iter = none →
    othersLive cx.w cx.j = false → lastInClause cx (.brew x imm) = true → x.toNat ≤ 62 → n = readS s cx.w x.toNat →
    off = readS s cx.w (x.toNat + 1) → n ≠ 0 → n.toNat < 2 ^ 31 → off.toNat % 4 = 0 →
    (imm.toNat / 2 ^ 9 % 16 + 1) * (imm.toNat / 2 ^ 6 % 8 + 1) ≤ 32 → 4 * (imm.toNat % 8 + 1) ≤ cx.g.brewSlots →
    (coreAt s (coreOfSlot cx.k)).brew = none → (coreAt s (coreOfSlot cx.k)).brewWait = [] → cx.g.draining = false →
    cx.g.killed = false →
    ∃ t w' b, exec (.brew x imm) s = .next t ∧ warpAt t cx.k = some w' ∧ w'.park = some .brew
      ∧ w' = { cx.base with splits := w'.splits, groups := w'.groups, park := some .brew, parkSplit := cx.j, parkOrder := w'.parkOrder }
      ∧ (coreAt t (coreOfSlot cx.k)).brew = some b ∧ b.host = cx.k ∧ b.wg = cx.w.wg ∧ b.n = n.toNat
      ∧ b.stages = imm.toNat / 2 ^ 13 + 1 ∧ b.fresh = imm.toNat / 2 ^ 9 % 16 + 1 ∧ b.ages = imm.toNat / 2 ^ 6 % 8 + 1
      ∧ b.blocks = imm.toNat / 2 ^ 3 % 8 ∧ b.depth = 4 * (imm.toNat % 8 + 1) ∧ b.start = cx.sp.pc + 4
      ∧ b.resume = cx.sp.pc + off.signExtend 64 ∧ b.next = 0 ∧ b.mode = cx.w.mode
      ∧ (∀ i, i < 60 → b.regs.getD i 0 = if i < 16 ∨ 56 ≤ i then readS s cx.w i else 0) ∧ (∀ k, k ≠ cx.k → warpAt t k = warpAt s k)
      ∧ SlotFrame (setCore s (coreOfSlot cx.k) { coreAt s (coreOfSlot cx.k) with brew := some b, blocks := [] }) t)
  ∧ (∀ (x : BitVec 6) (imm : Half) (s : State) (cx : Cx) (it : Nat) (b : Brew), Ready (.xrel x imm) s cx → cx.w.iter = some it →
    brewOf s cx.k = some b → cx.w.single = true → cx.w.pend = [] → cx.base.ops = [] →
    ∃ t w', exec (.xrel x imm) s = .next t ∧ Completes s t cx (nextPc cx 0) w' ∧ SameWarp cx.j cx.w w' ∧ w'.pend = cx.w.pend
      ∧ (∀ sl, sl < 256 → (coreAt t (coreOfSlot cx.k)).presence.getLsbD sl
          = ((coreAt s (coreOfSlot cx.k)).presence.getLsbD sl
            || decide (∃ o, o < b.fresh ∧ sl = b.fresh * (it % brewBlocks b) + o)))
      ∧ SlotFrame (setCore s (coreOfSlot cx.k)
          { coreAt s (coreOfSlot cx.k) with presence := (coreAt t (coreOfSlot cx.k)).presence }) t)
  ∧ ∀ (x : BitVec 6) (imm : Half) (s : State) (cx : Cx), Ready (.xrel x imm) s cx → cx.w.iter ≠ none → cx.w.single = false →
    ∃ t w', exec (.xrel x imm) s = .next t ∧ Completes s t cx (nextPc cx 0) w' ∧ w'.deferXrel = true
      ∧ SameWarp cx.j { cx.w with deferXrel := true } w' ∧ w'.pend = cx.w.pend ∧ SlotFrame s t

/-- BARA, BARAW and BARWG of a warp that may arrive (R260 to R262, R264): the arrival joins the open phase; a phase that is full closes
and opens the next, and its waiters go on; BARAW and BARWG park their warp while the phase is open. BARW (R263) parks its warp when its
latest arrival lies in the open phase, else goes on; BARQ (R184) arrives and parks until every live warp of its quad has arrived, when all
of them go on. Nothing else changes. -/
def Obligations.Barriers : Prop :=
  (∀ (i : Instr) (s : State) (cx : Cx) (b n : Nat) (wait : Bool) (x y : Barrier), arrivalOf i = some (b, n, wait) → Ready i s cx →
    n ≤ cx.g.n → barrierForbidden cx = false → x = barrierAt cx.g b → y = arrivedBarrier x cx.w.index n → b < cx.g.barriers.length →
    cx.w.index ∉ x.arrived → writesVisible cx.w = true → accessesDone cx.w = true → (x.arrived = [] ∨ x.count = n) →
    ∃ t w' g' sp, exec i s = .next t ∧ warpAt t cx.k = some w' ∧ tget w'.splits cx.j = some sp ∧ sp.pc = nextPc cx 0
      ∧ sp.park = .running ∧ wgAt t cx.w.wg = some g' ∧ tget w'.arrivals b = some x.phase
      ∧ (phaseFull cx.g y → barrierAt g' b = { phase := x.phase + 1, count := 0, arrived := [] } ∧ w'.park = cx.base.park
          ∧ ∀ k v, k ≠ cx.k → warpAt s k = some v →
              warpAt t k = some (if v.wg = cx.w.wg ∧ v.park = some (.barrier b x.phase) then { v with park := none } else v))
      ∧ (¬ phaseFull cx.g y → barrierAt g' b = y ∧ w'.park = (if wait then some (.barrier b x.phase) else cx.base.park)
          ∧ ∀ k, k ≠ cx.k → warpAt t k = warpAt s k)
      ∧ (∀ m, m ≠ b → barrierAt g' m = barrierAt cx.g m) ∧ g' = { cx.g with barriers := g'.barriers }
      ∧ (∀ m, m ≠ cx.w.wg → wgAt t m = wgAt s m)
      ∧ w' = { cx.base with
          splits := w'.splits, groups := w'.groups, arrivals := w'.arrivals, park := w'.park, parkSplit := w'.parkSplit
          parkOrder := w'.parkOrder }
      ∧ SlotFrame { s with wgs := t.wgs } t)
  ∧ (∀ (x : BitVec 6) (imm : Half) (s : State) (cx : Cx), Ready (.barw x imm) s cx → barrierForbidden cx = false →
    ∃ t w' sp, exec (.barw x imm) s = .next t ∧ warpAt t cx.k = some w' ∧ tget w'.splits cx.j = some sp ∧ sp.pc = nextPc cx 0
      ∧ w'.park = (if arrivedIn cx.g cx.w (imm.toNat % 16) then some (.barrier (imm.toNat % 16) (barrierAt cx.g (imm.toNat % 16)).phase)
          else cx.base.park)
      ∧ w' = { cx.base with
          splits := w'.splits, groups := w'.groups, park := w'.park, parkSplit := w'.parkSplit, parkOrder := w'.parkOrder }
      ∧ (∀ k, k ≠ cx.k → warpAt t k = warpAt s k) ∧ SlotFrame s t)
  ∧ ∀ (x : BitVec 6) (imm : Half) (s : State) (cx : Cx) (n : Nat) (arrived : List Nat), Ready (.barq x imm) s cx →
    cx.w.iter = none → wholeQuad cx = true → dividedOrSerial cx.w cx.j = false → writesVisible cx.w = true →
    accessesDone cx.w = true → readingB cx.w s.now = false → n = cx.w.index / 4 → n < cx.g.quads.length →
    arrived = cx.g.quads.getD n [] ++ [cx.w.index] →
    ∃ t w' g' sp, exec (.barq x imm) s = .next t ∧ warpAt t cx.k = some w' ∧ tget w'.splits cx.j = some sp ∧ sp.pc = nextPc cx 0
      ∧ wgAt t cx.w.wg = some g'
      ∧ ((∀ e ∈ cx.g.warps, e.1 / 4 = n → e.1 ∈ arrived) → g'.quads.getD n [] = [] ∧ w'.park = none
          ∧ ∀ k v, k ≠ cx.k → warpAt s k = some v →
              warpAt t k = some (if v.wg = cx.w.wg ∧ v.park = some .quadBarrier ∧ v.index / 4 = n then { v with park := none } else v))
      ∧ ((∃ e ∈ cx.g.warps, e.1 / 4 = n ∧ e.1 ∉ arrived) → g'.quads.getD n [] = arrived ∧ w'.park = some .quadBarrier
          ∧ ∀ k, k ≠ cx.k → warpAt t k = warpAt s k)
      ∧ (∀ m, m ≠ n → g'.quads.getD m [] = cx.g.quads.getD m []) ∧ g' = { cx.g with quads := g'.quads }
      ∧ (∀ m, m ≠ cx.w.wg → wgAt t m = wgAt s m)
      ∧ w' = { cx.base with
          splits := w'.splits, groups := w'.groups, park := w'.park, parkSplit := w'.parkSplit, parkOrder := w'.parkOrder }
      ∧ SlotFrame { s with wgs := t.wgs } t

/-- BATCH.K, BATCH.A, BATCH.N and BATCH.G (R173, R265): the number of the open batch goes to the scalar after 2 cycles, and the next
batch is open. WAITB.K, WAITB.A, WAITB.N and WAITB.G (R159, R173, R381): where the closed batches up to the register have completed and
none failed, the split goes on; where one is outstanding, the warp parks for it. -/
def Obligations.BatchWords : Prop :=
  (∀ (i : Instr) (s : State) (cx : Cx) (c : EngineClass) (d : Nat), batchOf i = some (c, d) → Ready i s cx →
    ∃ t w', exec i s = .next t ∧ Completes s t cx (nextPc cx 0) w'
      ∧ Results cx.w w' (.s d) (.word (cx.w.batches c).opened) (eff s cx) (s.now + 2)
      ∧ w'.batches c = { cx.w.batches c with opened := (cx.w.batches c).opened + 1 }
      ∧ SameWarp cx.j (cx.w.setBatches c (w'.batches c)) w' ∧ SlotFrame s t)
  ∧ ∀ (i : Instr) (s : State) (cx : Cx) (c : EngineClass) (n : Nat), waitbOf i = some (c, n) → Ready i s cx →
    ((cx.w.batches c).doneTo (readS s cx.w n) = true → (cx.w.batches c).failed = [] →
      ∃ t w', exec i s = .next t ∧ Completes s t cx (nextPc cx 0) w' ∧ SameWarp cx.j cx.w w' ∧ w'.pend = cx.w.pend ∧ SlotFrame s t)
    ∧ ((cx.w.batches c).doneTo (readS s cx.w n) = false →
      ∃ t w', exec i s = .next t ∧ warpAt t cx.k = some w' ∧ w'.park = some (.batches c (readS s cx.w n)) ∧ w'.parkSplit = cx.j
        ∧ w' = { cx.base with
            splits := w'.splits, groups := w'.groups, park := w'.park, parkSplit := cx.j, parkOrder := w'.parkOrder }
        ∧ (∀ k, k ≠ cx.k → warpAt t k = warpAt s k) ∧ SlotFrame s t)

/-! Engine, cask and counter words. -/

/-- KLD, KST and KLUT of a record, or an image, that passes every check, with nothing outstanding (R165, R171 to R173, R305, R307 to R309):
the word attaches to flag SA one operation that holds its split; a command, where the record names tiles or the word is a KLUT, joins
the end of the core's Kiln queue and the warp's open K batch. No byte of memory is stored. -/
def Obligations.KilnCommands : Prop :=
  (∀ (i : Instr) (pack : Bool) (x : Nat) (s u s1 : State) (cx : Cx) (va : DWord) (b : List Byte), kilnOf i = some (pack, x) →
    Ready i s cx → u = useScalar (unpark s cx) cx.k → quietSplit cx = true → (cxFlag cx true).isSome = true →
    va = readPair s cx.w x → va.toNat % 64 = 0 → wordRead u cx .plain 4 va 64 = .ok (b, s1) →
    checkLayout i pack (layoutOf b) (tileStop s1 cx (layoutOf b)) (eff s cx) = none →
    ∃ t w' o, exec i s = .next t ∧ Completes s t cx (nextPc cx 0) w' ∧ Attached cx w' o ∧ t.mem = s1.mem
      ∧ ((layoutOf b).tiles = 0 → w'.bK = cx.w.bK ∧ (coreAt t (coreOfSlot cx.k)).kiln = (coreAt s (coreOfSlot cx.k)).kiln)
      ∧ ((layoutOf b).tiles ≠ 0 → ∃ cmd, (coreAt t (coreOfSlot cx.k)).kiln = (coreAt s (coreOfSlot cx.k)).kiln ++ [cmd]
          ∧ cmd.job = (if pack then .pack b else .expand b (tableFor (coreAt s (coreOfSlot cx.k)) (layoutOf b).lut))
          ∧ cmd.slot = cx.k ∧ cmd.asid = cx.w.asid ∧ cmd.lanes = eff s cx ∧ cmd.faults = []
          ∧ w'.bK = { cx.w.bK with cmds := cx.w.bK.cmds ++ [(cmd.id, cx.w.bK.opened)] })
      ∧ SameWarp cx.j { cx.w with ops := w'.ops, bK := w'.bK } w')
  ∧ ∀ (x : BitVec 6) (imm : Half) (s u s1 : State) (cx : Cx) (va : DWord) (b : List Byte), Ready (.klut x imm) s cx →
    u = useScalar (unpark s cx) cx.k → quietSplit cx = true → (cxFlag cx true).isSome = true → va = readPair s cx.w x.toNat →
    va.toNat % 1024 = 0 → wordRead u cx .kiln 4 va 1024 = .ok (b, s1) →
    ∃ t w' o cmd, exec (.klut x imm) s = .next t ∧ Completes s t cx (nextPc cx 0) w' ∧ Attached cx w' o ∧ t.mem = s1.mem
      ∧ (coreAt t (coreOfSlot cx.k)).kiln = (coreAt s (coreOfSlot cx.k)).kiln ++ [cmd]
      ∧ cmd.job = .lattice (imm.toNat % 16) ((List.range 256).map fun e => BitVec.ofNat 32 (field b (4 * e) 4))
      ∧ w'.bK = { cx.w.bK with cmds := cx.w.bK.cmds ++ [(cmd.id, cx.w.bK.opened)] }
      ∧ SameWarp cx.j { cx.w with ops := w'.ops, bK := w'.bK } w'

/-- LQRY, LAPP, LCTL and LPF at FULL with a legal, aligned record, with nothing outstanding (R219, R257, R310 to R315): the word attaches
to flag SA one operation that holds its split; its command joins the end of its die's queue and the warp's open A batch. -/
def Obligations.LanternCommands : Prop :=
  ∀ (i : Instr) (op : LanternOp) (n : Nat) (s u s1 : State) (cx : Cx) (va : DWord) (b : List Byte), lanternOf i = some (op, n) →
    Ready i s cx → u = useScalar (unpark s cx) cx.k → quietSplit cx = true → (cxFlag cx true).isSome = true → s.level = 2 →
    va = readPair s cx.w n → va.toNat % 64 = 0 → wordRead u cx .plain 6 va 64 = .ok (b, s1) → recLegal op b = true →
    (op = .control → recOp b = 4 ∨ recOp b = 5 ∨ recOp b = 7 → cx.w.service = true) →
    (∀ e ∈ recAligned op b, e.1.toNat % e.2 = 0) → dieOf s op cx.w.ten b < s.lanterns.length →
    ∃ t w' o cmd, exec i s = .next t ∧ Completes s t cx (nextPc cx 0) w' ∧ Attached cx w' o ∧ t.mem = s1.mem
      ∧ (dieAt t (dieOf s op cx.w.ten b)).cmds = (dieAt s (dieOf s op cx.w.ten b)).cmds ++ [cmd] ∧ cmd.op = op ∧ cmd.record = b
      ∧ cmd.slot = cx.k ∧ cmd.ten = cx.w.ten ∧ cmd.asid = cx.w.asid ∧ cmd.lanes = eff s cx ∧ cmd.faults = []
      ∧ w'.bA = { cx.w.bA with cmds := cx.w.bA.cmds ++ [(cmd.id, cx.w.bA.opened)] }
      ∧ SameWarp cx.j { cx.w with ops := w'.ops, bA := w'.bA } w'

/-- QPUSH, QPOP and QTRY on an enabled cask of the tenancy (R29, R212 to R214, R329 to R332): a QPUSH with room on chip appends S8 to S15
as they are at issue; with room in the spill ring alone it stores them at the ring's tail; with neither its warp parks before the word,
with the record. A QPOP takes the oldest record, of the lowest level where PRI is set, for S8 to S15; of an empty cask its warp parks. A
QTRY takes a record as QPOP does, and returns the free places with bit 31 set; of an empty cask, the free places alone. Each that is done
attaches one operation to flag SA that holds its split. The pops are stated where no other warp waits on the cask. The model's choices,
and no rule's: that a push waits where the ring is full though fewer than 32 records are on chip (entry 41), that a record spilled is an
access with service privilege in the cask's ASID (entry 14), and that a warp that parks empties its latches (entry 33). -/
def Obligations.CaskWords : Prop :=
  (∀ (x : BitVec 6) (imm : Half) (s : State) (cx : Cx) (c : Nat) (ws : List Word), Ready (.qpush x imm) s cx →
    (cxFlag cx true).isSome = true → Reaches1 s cx x c 4 → caskOn s c = true → accessesDone cx.w = true →
    ws = (List.range 8).map (fun n => readS s cx.w (8 + n)) →
    ((caskAt s c).spilled = 0 → (caskAt s c).recs.length < 32 →
      ∃ t w' o, exec (.qpush x imm) s = .next t ∧ Completes s t cx (nextPc cx 0) w' ∧ Attached cx w' o ∧ o.kind = .hold
        ∧ caskAt t c = { caskAt s c with recs := (caskAt s c).recs ++ [ws] } ∧ CaskFrame s t cx c w')
    ∧ (∀ u s1 : State, ((caskAt s c).spilled ≠ 0 ∨ 32 ≤ (caskAt s c).recs.length) → (caskAt s c).spilled < (caskAt s c).scap →
      u = markIssued (wakeCore (useScalar (unpark s cx) cx.k) (c / 4)) cx →
      writeRange u (spillReq c (caskAt s c) .store) (spillPlace (caskAt s c) (caskAt s c).spilled)
        (ws.flatMap fun w => leBytes 4 w.toNat) = .ok s1 →
      ∃ t w' o, exec (.qpush x imm) s = .next t ∧ Completes s t cx (nextPc cx 0) w' ∧ Attached cx w' o ∧ o.kind = .hold
        ∧ caskAt t c = { caskAt s c with spilled := (caskAt s c).spilled + 1 } ∧ AccessFrame u s1
        ∧ (∀ d, d ≠ c → caskAt t d = caskAt s d)
        ∧ t = { s1 with warps := t.warps, cores := t.cores, casks := t.casks, times := t.times, nextId := t.nextId })
    ∧ ((caskAt s c).takes = false → caskQuiet s c →
      ∃ t, exec (.qpush x imm) s = .next t ∧ WaitsOn s t cx c ws))
  ∧ (∀ (x : BitVec 6) (imm : Half) (s : State) (cx : Cx) (c : Nat), Ready (.qpop x imm) s cx → (cxFlag cx true).isSome = true →
    Reaches1 s cx x c 4 → caskOn s c = true → caskQuiet s c →
    (∀ (n : Nat) (r : List Word), n = (if (caskAt s c).pri then lowestRec (caskAt s c).recs else 0) → (caskAt s c).recs[n]? = some r →
      ∃ t w' o, exec (.qpop x imm) s = .next t ∧ Completes s t cx (nextPc cx 0) w' ∧ Attached cx w' o
        ∧ o.kind = .write ((List.range 8).map fun i => (.s (8 + i), .word (r.getD i 0))) (BitVec.allOnes 64)
        ∧ caskAt t c = { caskAt s c with recs := (caskAt s c).recs.eraseIdx n } ∧ CaskFrame s t cx c w')
    ∧ ((caskAt s c).recs = [] → ∃ t, exec (.qpop x imm) s = .next t ∧ WaitsOn s t cx c []))
  ∧ ∀ (x : BitVec 6) (imm : Half) (s : State) (cx : Cx) (c : Nat), Ready (.qtry x imm) s cx → (cxFlag cx true).isSome = true →
    Reaches1 s cx x c 4 → caskOn s c = true → caskQuiet s c →
    (∀ (n : Nat) (r : List Word), n = (if (caskAt s c).pri then lowestRec (caskAt s c).recs else 0) → (caskAt s c).recs[n]? = some r →
      ∃ t w' o, exec (.qtry x imm) s = .next t ∧ Completes s t cx (nextPc cx 0) w' ∧ Attached cx w' o
        ∧ o.kind = .write (((List.range 8).map fun i => (Dest.s (8 + i), Payload.word (r.getD i 0))).filter
            (fun e => decide (e.1 ≠ .s (x.toNat + 1)))
          ++ [(.s (x.toNat + 1), .word (BitVec.ofNat 32 (2 ^ 31 + (caskAt t c).room)))]) (BitVec.allOnes 64)
        ∧ caskAt t c = { caskAt s c with recs := (caskAt s c).recs.eraseIdx n } ∧ CaskFrame s t cx c w')
    ∧ ((caskAt s c).recs = [] →
      ∃ t w' o, exec (.qtry x imm) s = .next t ∧ Completes s t cx (nextPc cx 0) w' ∧ Attached cx w' o
        ∧ o.kind = .write [(.s (x.toNat + 1), .word (BitVec.ofNat 32 (caskAt s c).room))] (BitVec.allOnes 64)
        ∧ caskAt t c = caskAt s c ∧ CaskFrame s t cx c w')

/-- DCSET, DCATT and DCDEC on a counter of the tenancy (R215, R216, R277, R278, R280): DCSET sets the value; DCATT attaches S8 to S15 and
a cask; DCDEC takes 1 from a value above 0, and at zero its attachment, if any, leaves as one release of its core's counter unit. The
counter's core is no longer idle (R258); nothing else changes. -/
def Obligations.CounterWords : Prop :=
  (∀ (x : BitVec 6) (imm : Half) (s : State) (cx : Cx) (n : Nat), Ready (.dcset x imm) s cx → Reaches1 s cx x n 256 →
    n < counterCount →
    ∃ t w', exec (.dcset x imm) s = .next t ∧ Completes s t cx (nextPc cx 0) w' ∧ SameWarp cx.j cx.w w' ∧ w'.pend = cx.w.pend
      ∧ counterAt t n = { counterAt s n with value := imm } ∧ (∀ m, m ≠ n → counterAt t m = counterAt s m)
      ∧ SlotFrame { wakeCore s (n / 256) with counters := t.counters } t)
  ∧ (∀ (x : BitVec 6) (imm : Half) (s : State) (cx : Cx) (n : Nat) (v : Word), Ready (.dcatt x imm) s cx → Reaches1 s cx x n 256 →
    n < counterCount → v = readS s cx.w (x.toNat + 1) → caskOn s v.toNat = true → inCoreSet s cx.w.ten (v.toNat / 4) = true →
    ∃ t w', exec (.dcatt x imm) s = .next t ∧ Completes s t cx (nextPc cx 0) w' ∧ SameWarp cx.j cx.w w' ∧ w'.pend = cx.w.pend
      ∧ counterAt t n = { counterAt s n with att := some ((List.range 8).map fun i => readS s cx.w (8 + i), v.toNat) }
      ∧ (∀ m, m ≠ n → counterAt t m = counterAt s m) ∧ SlotFrame { wakeCore s (n / 256) with counters := t.counters } t)
  ∧ ∀ (x : BitVec 6) (imm : Half) (s : State) (cx : Cx) (n : Nat), Ready (.dcdec x imm) s cx → Reaches1 s cx x n 256 →
    n < counterCount → accessesDone cx.w = true → (counterAt s n).value ≠ 0 →
    ∃ t w', exec (.dcdec x imm) s = .next t ∧ Completes s t cx (nextPc cx 0) w' ∧ SameWarp cx.j cx.w w' ∧ w'.pend = cx.w.pend
      ∧ (counterAt t n).value = (counterAt s n).value - 1 ∧ (∀ m, m ≠ n → counterAt t m = counterAt s m)
      ∧ (∀ ws c, (counterAt s n).att = some (ws, c) → (counterAt s n).value = 1 → (counterAt t n).att = none
          ∧ ∃ r ∈ (coreAt t (n / 256)).releases, r.words = ws ∧ r.cask = c ∧ r.counter = n ∧ r.cycle = s.now)
      ∧ ((counterAt s n).att = none ∨ (counterAt s n).value ≠ 1 → (counterAt t n).att = (counterAt s n).att
          ∧ ∀ c, (coreAt t c).releases = (coreAt s c).releases)
      ∧ (∀ c, { coreAt t c with quads := (coreAt s c).quads, releases := (coreAt s c).releases }
          = coreAt (wakeCore s (n / 256)) c) ∧ OnlySlots s t
      ∧ t = { s with warps := t.warps, cores := t.cores, counters := t.counters, nextId := t.nextId }

/-- WAKEW (R30, R258, R382, R383): the signal form sets the latch of the warp of its tenancy in the slot it names; the wait form takes the
latch and goes on, or parks its warp when the latch is clear. The named core is no longer idle; nothing else changes. -/
def Obligations.WakeWords : Prop :=
  (∀ (x : BitVec 6) (imm : Half) (s : State) (cx : Cx) (v : Word) (c k : Nat), Ready (.wakewSignal x imm) s cx →
    v = readS s cx.w x.toNat → c = v.toNat % 2 ^ 8 → k = slotKey c (v.toNat / 2 ^ 8 % 4) (v.toNat / 2 ^ 10 % 16) →
    inCoreSet s cx.w.ten c = true → accessesDone cx.w = true → running s c = true →
    ∃ t w' sp, exec (.wakewSignal x imm) s = .next t ∧ warpAt t cx.k = some w' ∧ tget w'.splits cx.j = some sp ∧ sp.pc = nextPc cx 0
      ∧ (k ≠ cx.k → ∀ y, warpAt s k = some y → warpAt t k = some (if y.ten = cx.w.ten then { y with waking := true } else y))
      ∧ w'.waking = (if k = cx.k then true else cx.w.waking) ∧ SameWarp cx.j { cx.w with waking := w'.waking } w' ∧ w'.pend = cx.w.pend
      ∧ (∀ n, n ≠ cx.k → n ≠ k → warpAt t n = warpAt s n) ∧ SlotFrame (wakeCore s c) t)
  ∧ (∀ (x : BitVec 6) (s : State) (cx : Cx), Ready (.wakewWait x) s cx → cx.w.waking = true →
    ∃ t w', exec (.wakewWait x) s = .next t ∧ Completes s t cx (nextPc cx 0) w' ∧ w'.waking = false
      ∧ SameWarp cx.j { cx.w with waking := false } w' ∧ w'.pend = cx.w.pend ∧ SlotFrame s t)
  ∧ ∀ (x : BitVec 6) (s : State) (cx : Cx), Ready (.wakewWait x) s cx → cx.w.waking = false →
    ∃ t w' sp, exec (.wakewWait x) s = .next t ∧ warpAt t cx.k = some w' ∧ w'.park = some .wake ∧ w'.parkSplit = cx.j
      ∧ tget w'.splits cx.j = some sp ∧ sp.pc = cx.sp.pc
      ∧ w' = { cx.base with splits := w'.splits, park := some .wake, parkSplit := cx.j, parkOrder := w'.parkOrder }
      ∧ (∀ n, n ≠ cx.k → warpAt t n = warpAt s n) ∧ t = { s with warps := t.warps, nextId := t.nextId }

/-! Status registers, traps and the return. -/

/-- SRD and SWR (R36, R230, R345 to R347, R351, R352): SRD gives the register, CLK in two scalars, after 2 cycles; a service register is
read in service mode alone. SWR in service mode rewrites a fitting keg descriptor, which empties the keg, or SVSP or a word of TVB at a
multiple of 64. -/
def Obligations.StatusRegisters : Prop :=
  (∀ (x : BitVec 6) (imm : Half) (s : State) (cx : Cx) (r : StatusReg), Ready (.srd x imm) s cx → statusReg imm = some r →
    (r.service = true → cx.w.service = true) →
    ∃ t w' p, exec (.srd x imm) s = .next t ∧ Completes s t cx (nextPc cx 0) w' ∧ SameWarp cx.j cx.w w' ∧ SlotFrame s t
      ∧ p ∈ w'.pend ∧ p.dest = .s x.toNat ∧ p.payload = .word (statusWord s cx r) ∧ p.lanes = eff s cx ∧ p.due = s.now + 2
      ∧ (r ≠ .clk → w'.pend = cx.w.pend ++ [p])
      ∧ (r = .clk → ∃ q, w'.pend = cx.w.pend ++ [p, q] ∧ q.dest = .s (x.toNat + 1)
          ∧ q.payload = .word (BitVec.ofNat 32 (clkOf s (coreOfSlot cx.k) / 2 ^ 32)) ∧ q.lanes = eff s cx ∧ q.due = s.now + 2))
  ∧ (∀ (x : BitVec 6) (imm : Half) (s : State) (cx : Cx) (n : Nat) (v : Word), Ready (.swr x imm) s cx →
    statusReg imm = some (.keg n) → cx.w.service = true → v = readS s cx.w x.toNat → kegFits cx.g v = true → n < cx.g.kegs.length →
    ∃ t w' g', exec (.swr x imm) s = .next t ∧ Completes s t cx (nextPc cx 0) w' ∧ SameWarp cx.j cx.w w' ∧ wgAt t cx.w.wg = some g'
      ∧ kegAt g' n = { base := v.toNat / 2 ^ 20, cap := v.toNat / 2 ^ 12 % 2 ^ 8, next := 0, entries := [] }
      ∧ (∀ m, m ≠ n → kegAt g' m = kegAt cx.g m) ∧ SlotFrame { s with wgs := t.wgs } t)
  ∧ (∀ (x : BitVec 6) (imm : Half) (s : State) (cx : Cx) (tn : Tenancy) (v : Word), Ready (.swr x imm) s cx → cx.w.service = true →
    v = readS s cx.w x.toNat → tenAt s cx.w.ten = some tn → (statusReg imm = some .tvblo ∧ v.toNat % 64 = 0) ∨ statusReg imm = some .tvbhi →
    ∃ t w' tn', exec (.swr x imm) s = .next t ∧ Completes s t cx (nextPc cx 0) w' ∧ SameWarp cx.j cx.w w'
      ∧ tenAt t cx.w.ten = some tn' ∧ tn' = { tn with tvb := tn'.tvb }
      ∧ tn'.tvb = (if statusReg imm = some .tvbhi then v ++ tn.tvb.extractLsb' 0 32 else tn.tvb.extractLsb' 32 32 ++ v)
      ∧ SlotFrame { s with tenancies := t.tenancies } t)
  ∧ ∀ (x : BitVec 6) (imm : Half) (s : State) (cx : Cx) (v : Word), Ready (.swr x imm) s cx → cx.w.service = true →
    v = readS s cx.w x.toNat → statusReg imm = some .svsp → v.toNat % 64 = 0 →
    ∃ t w', exec (.swr x imm) s = .next t ∧ Completes s t cx (nextPc cx 0) w' ∧ w'.svsp = v ∧ SameWarp cx.j { cx.w with svsp := v } w'
      ∧ SlotFrame s t

/-- SVC, an unassigned opcode and a word of class H in a body (R78, R227, R228, R231, R232, R350): each takes its trap, with its class and
INFO, PC at the word and NPC at the next one. SRD and SWR of a service register, and TRET, outside service mode (R227, R346, R351, R355)
have no effect of their own and take PRIV. In a tenancy without handlers (R231) the warp of such a word parks before anything else of it
changes, with its frame kept, under the next sequence number of the tenancy's trap ring. WHEN A WORD IS STOPPED before it has an effect:
ILLOP, by a field the word may not have or literals past its clause (R41, R79); CLAUSE, REGBOUND and QUEUE, by what a vector word names
(R33, R37, R48), a matrix word's registers d and a included (R181), and REGBOUND by an index of VRGET and VRSET past 111 (R374) and by the
n of CLAIM and SURR (R32); CLAUSE by a word of class S without its flag (R48); ALIGN, by the address of a tile, a record or a slice (R180,
R205, R219, R305); QUEUE and PROT, by the cask or the counter named, and COUNTER by DCDEC of a zero counter (R214, R215); STACK, by CALL,
ENTER and RET at the stack's limits (R201). That LANES at a TRET is the mask of its split (entry 34), and that a barrier word with an
illegal field takes ILLOP and not CONVERGE (entry 39), are the model's choices. -/
def Obligations.TrapWords : Prop :=
  (∀ (i : Instr) (rule : IssueRule) (c : TrapClass) (info : Word) (s s2 : State) (cx cx' : Cx) (tn : Tenancy),
    trapWordOf i = some (rule, c, info) → Ready i s cx →
    TrapRoom (trapState rule (unpark s cx) cx) cx cx' tn { cls := c, info := info, lanes := eff s cx } cx.sp.pc (nextPc cx 0)
      (hdrFor cx.sp (nextPc cx 0)) false s2 →
    ∃ t, exec i s = .next t ∧ TrapTaken cx cx' tn c s2 t)
  ∧ (∀ (x : BitVec 6) (imm : Half) (wr : Bool) (i : Instr) (r : StatusReg) (s s2 : State) (cx cx' : Cx) (tn : Tenancy),
    i = (if wr then .swr x imm else .srd x imm) → Ready i s cx → statusReg imm = some r → (wr = false → r.service = true) →
    cx.w.service = false →
    TrapRoom (trapState .scalar (unpark s cx) cx) cx cx' tn { cls := .priv, info := imm.setWidth 32, lanes := eff s cx } cx.sp.pc
      (nextPc cx 0) (hdrFor cx.sp (nextPc cx 0)) false s2 →
    ∃ t, exec i s = .next t ∧ TrapTaken cx cx' tn .priv s2 t)
  ∧ (∀ (x : BitVec 6) (imm : Half) (s s2 : State) (cx cx' : Cx) (tn : Tenancy), focus s = some cx → cx.sp.mask ≠ 0 →
    legal (.tret x imm) = true → 1 ≤ wordsLeft cx.sp → cx.w.service = false →
    TrapRoom (trapState .scalar (unpark s cx) cx) cx cx' tn { cls := .priv, info := 0x86, lanes := cx.sp.mask } cx.sp.pc (nextPc cx 0)
      (hdrFor cx.sp (nextPc cx 0)) false s2 →
    ∃ t, exec (.tret x imm) s = .next t ∧ TrapTaken cx cx' tn .priv s2 t)
  ∧ (∀ (i : Instr) (rule : IssueRule) (c : TrapClass) (info : Word) (s : State) (cx cx' : Cx) (tn : Tenancy),
    trapWordOf i = some (rule, c, info) → Ready i s cx →
    (∀ w, warpAt (trapState rule (unpark s cx) cx) cx.k = some w → ¬ Barred w cx.j) →
    cxAt (interrupted (trapState rule (unpark s cx) cx) cx) cx.k cx.j = some cx' → tenAt s cx'.w.ten = some tn → tn.tvb = 0 →
    ∃ t w', exec i s = .next t ∧ warpAt t cx.k = some w'
      ∧ (∀ j, (tget w'.splits j).map Split.core = (tget cx'.w.splits j).map Split.core)
      ∧ w' = { cx'.w with
          splits := w'.splits, park := some (.trapRing tn.tseq), parkSplit := cx.j, parkOrder := w'.parkOrder
          frame := frameBytes cx' { cls := c, info := info, lanes := eff s cx } cx.sp.pc (nextPc cx 0) (hdrFor cx.sp (nextPc cx 0))
            false false tn.tseq }
      ∧ ∀ k, k ≠ cx.k → warpAt t k = warpAt s k)
  ∧ (∀ (i : Instr) (w : Word) (s : State) (cx : Cx), encodeWord i = some w → focus s = some cx → lanesFor s cx i ≠ 0 →
    (legal i = false ∨ wordsLeft cx.sp ≤ litCount i) →
    Traps i s (unpark s cx) cx (min (litCount i) (wordsLeft cx.sp - 1)) { cls := .illop, info := w, lanes := lanesFor s cx i })
  ∧ (∀ (i : Instr) (s u : State) (cx : Cx) (ls : List Word) (v : VSpec) (c : TrapClass) (info : Word), operandSpec u cx i = some v →
    Issues (.vector v.both) false i s cx ls u → (resolveAll u cx (v.srcs ++ v.popD.toList) ls).isSome = true →
    (∀ d, v.dst = some d → (resolveDest u cx d u.nextId).isSome = true) → NameTrap i v cx c info →
    Traps i s u cx (litCount i) { cls := c, info := info, lanes := eff s cx })
  ∧ (∀ (i : Instr) (f : MatrixForm) (d a b : BitVec 7) (s : State) (cx : Cx) (n : Nat), matrixOf i = some (f, d, a, b) → Ready i s cx →
    (quadAt s (coreOfSlot cx.k) (quadOfSlot cx.k)).arrayFree ≤ s.now →
    (8 * cx.w.allot ≤ d.toNat + 3 ∧ n = d.toNat + 3 ∨ d.toNat + 3 < 8 * cx.w.allot ∧ 8 * cx.w.allot ≤ a.toNat + 3 ∧ n = a.toNat + 3) →
    Traps i s (unpark s cx) cx 0 { cls := .regbound, info := BitVec.ofNat 32 n, lanes := eff s cx })
  ∧ (∀ (i : Instr) (s u : State) (cx : Cx) (ix : Nat) (src dst : BitVec 7), moveOf u cx i = some (ix, src, dst) →
    Issues (.vector false) false i s cx [] u → 112 ≤ ix →
    Traps i s u cx 0 { cls := .regbound, info := BitVec.ofNat 32 ix, lanes := eff s cx })
  ∧ (∀ (x : BitVec 6) (imm : Half) (sr : Bool) (i : Instr) (s : State) (cx : Cx), i = (if sr then .surr x imm else .claim x imm) →
    Ready i s cx → (if sr then cx.w.allot < imm.toNat else 10 < cx.w.allot + imm.toNat) →
    Traps i s (unpark s cx) cx 0 { cls := .regbound, info := BitVec.ofNat 32 imm.toNat, lanes := eff s cx })
  ∧ (∀ (i : Instr) (w : Word) (x : Nat × Nat) (s : State) (cx : Cx), flaggedWord i = some x → encodeWord i = some w → Ready i s cx →
    cxFlag cx true = none → Traps i s (unpark s cx) cx 0 { cls := .clause, info := w, lanes := eff s cx })
  ∧ (∀ (i : Instr) (x n : Nat) (s : State) (cx : Cx), flaggedWord i = some (x, n) → Ready i s cx → (cxFlag cx true).isSome = true →
    2 ≤ s.level → cx.w.iter = none → (readPair s cx.w x).toNat % n ≠ 0 →
    Traps i s (unpark s cx) cx 0 { cls := .align, info := (readPair s cx.w x).setWidth 32, lanes := eff s cx })
  ∧ (∀ (i : Instr) (f : Fragment) (store : Bool) (d a b : BitVec 7) (s u : State) (cx : Cx) (ls : List Word) (x : VIn) (m : MemWord),
    memWord u cx x i = some m → m = MemWord.tile u cx x f store d a b → Issues (.vector false) false i s cx ls u →
    readOperands i cx ls m.spec u = .ok x → m.ready = false →
    Traps i s u cx (litCount i)
      { cls := .align, info := (MemWord.va u cx x b (lowLane (eff s cx))).setWidth 32, lanes := eff s cx })
  ∧ (∀ (i : Instr) (x c : Nat) (s : State) (cx : Cx), caskOf i = some x → Ready i s cx → (cxFlag cx true).isSome = true →
    c = (readS s cx.w x).toNat →
    (caskOn s c = false →
      Traps i s (unpark s cx) cx 0 { cls := .queue, info := readS s cx.w x, lanes := eff s cx })
    ∧ (caskOn s c = true → inCoreSet s cx.w.ten (c / 4) = false →
      Traps i s (unpark s cx) cx 0 { cls := .prot, info := readS s cx.w x, lanes := eff s cx }))
  ∧ (∀ (i : Instr) (x n : Nat) (s : State) (cx : Cx), counterOf i = some x → Ready i s cx → n = (readS s cx.w x).toNat →
    (49152 ≤ n → Traps i s (unpark s cx) cx 0 { cls := .queue, info := readS s cx.w x, lanes := eff s cx })
    ∧ (n < 49152 → inCoreSet s cx.w.ten (n / 256) = false →
      Traps i s (unpark s cx) cx 0 { cls := .prot, info := readS s cx.w x, lanes := eff s cx }))
  ∧ (∀ (x : BitVec 6) (imm : Half) (s : State) (cx : Cx) (n : Nat), Ready (.dcdec x imm) s cx → Reaches1 s cx x n 256 → n < 49152 →
    accessesDone cx.w = true → (counterAt s n).value = 0 →
    Traps (.dcdec x imm) s (unpark s cx) cx 0 { cls := .counter, info := BitVec.ofNat 32 n, lanes := eff s cx })
  ∧ ∀ (i : Instr) (s : State) (cx : Cx), stackStops s cx i → Ready i s cx →
    Traps i s (unpark s cx) cx 0 { cls := .stack, info := cx.w.s.getD 61 0, lanes := eff s cx }

/-- TRET in service mode, whatever its guard, with nothing outstanding and SVSP not at its spawn value (R233, R355): the top frame is read
and popped; MODE without its reserved bits, S0, S1, the service mode, the lanes that have not left and the resume point come from it, and
nothing else of the warp changes. -/
def Obligations.TrapReturn : Prop :=
  ∀ (x : BitVec 6) (imm : Half) (s s1 : State) (cx : Cx) (f : List Byte), focus s = some cx → cx.sp.mask ≠ 0 →
    legal (.tret x imm) = true → 1 ≤ wordsLeft cx.sp → quietSplit cx = true → cx.w.service = true → cx.w.svsp ≠ svspBase cx.w →
    cx.w.s.length = 64 →
    stackLoad (useScalar (unpark s cx) cx.k) cx.unguarded (stackVa cx.w (cx.w.svsp - 64)) 64 = .ok (f, s1) →
    BitVec.ofNat 64 (field f 40 8) &&& ~~~(otherLanes cx.w cx.j) &&& ~~~cx.w.exited ≠ 0 →
    ∃ t w' sp, exec (.tret x imm) s = .next t ∧ warpAt t cx.k = some w' ∧ tget w'.splits cx.j = some sp
      ∧ sp.pc = BitVec.ofNat 64 (field f 16 8) ∧ sp.clause = none ∧ sp.resumeAt = some (BitVec.ofNat 64 (field f 24 8))
      ∧ sp.mask = BitVec.ofNat 64 (field f 40 8) &&& ~~~(otherLanes cx.w cx.j) &&& ~~~cx.w.exited ∧ sp.park = .running
      ∧ sp.path = cx.sp.path
      ∧ (∀ j, j ≠ cx.j → (tget w'.splits j).map Split.core = (tget cx.w.splits j).map Split.core)
      ∧ w'.mode = BitVec.ofNat 16 (field f 2 2) &&& 0xFFFC ∧ w'.service = (field f 1 1).testBit 7
      ∧ w'.handler = (if (field f 1 1).testBit 7 then cx.w.handler else none)
      ∧ w'.s.getD 0 0 = BitVec.ofNat 32 (field f 48 4) ∧ w'.s.getD 1 0 = BitVec.ofNat 32 (field f 52 4) ∧ SameScalars cx.w w' [0, 1]
      ∧ w' = { cx.base with
          s := w'.s, mode := w'.mode, service := w'.service, handler := w'.handler, svsp := cx.w.svsp - 64, splits := w'.splits
          groups := w'.groups, pend := cx.w.pend.filter fun r => decide (r.dest ≠ .s 0 ∧ r.dest ≠ .s 1) }
      ∧ (∀ k, k ≠ cx.k → warpAt t k = warpAt s k) ∧ AccessFrame (useScalar (unpark s cx) cx.k) s1 ∧ t = { s1 with warps := t.warps }

/-! Events of warps. -/

/-- CLAUSE_START (R45, R46, R198, R233, R253): a split at a clause start whose word is a header with no pending flag in its wait mask stands
before the first body word of that clause; with one pending, it stays. A word that is no header raises UND there, in the lanes of the split;
an unbound binding entry parks the split on a LINK fault. A split that returns from a handler stands at the word it goes on with, inside the
clause of its HDR where it lies in that body, else at a clause start; a word at HDR that is no header raises UND there. That the split holds
the words of the body that could be fetched, up to the first fetch that goes wrong, and that a clause start takes the next open time is the
model's choice (entry 10). -/
def Obligations.ClauseStarts : Prop :=
  (∀ (s s1 s2 : State) (cx : Cx) (w : Word) (h : Header) (ws : List Word), focus s = some cx → cx.sp.clause = none →
    cx.sp.resumeAt.all (fun a => decide (a = cx.sp.pc)) = true → fetchWord s cx cx.sp.pc = .ok (w, s1) → decodeHeader w = some h →
    flagsClear cx.w h.wm = true → fetchBody cx (h.len.toNat + 1) (cx.sp.pc + 4) 0 s1 = (ws, s2) →
    ∃ t, exec .clauseStart s = .next t ∧ StandsIn s s2 t cx cx.sp.pc w (cx.sp.pc + 4) (h.len.toNat + 1) ws)
  ∧ (∀ (s s1 : State) (cx : Cx) (w : Word) (h : Header), focus s = some cx → cx.sp.clause = none →
    cx.sp.resumeAt.all (fun a => decide (a = cx.sp.pc)) = true → fetchWord s cx cx.sp.pc = .ok (w, s1) → decodeHeader w = some h →
    flagsClear cx.w h.wm = false →
    ∃ t w' sp, exec .clauseStart s = .next t ∧ warpAt t cx.k = some w' ∧ tget w'.splits cx.j = some sp ∧ sp.pc = cx.sp.pc
      ∧ sp.clause = none ∧ sp.mask = cx.sp.mask ∧ w' = { cx.w with splits := w'.splits } ∧ (∀ k, k ≠ cx.k → warpAt t k = warpAt s k)
      ∧ t = { s with warps := t.warps })
  ∧ (∀ (s s1 : State) (cx : Cx) (w : Word), focus s = some cx → cx.sp.clause = none →
    cx.sp.resumeAt.all (fun a => decide (a = cx.sp.pc)) = true → fetchWord s cx cx.sp.pc = .ok (w, s1) → decodeHeader w = none →
    (w = unboundMark → isBinding s cx.w.ten cx.sp.pc = false) →
    StartTraps s s1 cx cx.sp.pc { cls := .und, info := w, lanes := cx.sp.mask })
  ∧ (∀ (s s1 : State) (cx : Cx), focus s = some cx → cx.sp.clause = none →
    cx.sp.resumeAt.all (fun a => decide (a = cx.sp.pc)) = true → fetchWord s cx cx.sp.pc = .ok (unboundMark, s1) →
    decodeHeader unboundMark = none → isBinding s cx.w.ten cx.sp.pc = true →
    ∃ t w' sp ids, exec .clauseStart s = .next t ∧ warpAt t cx.k = some w' ∧ tget w'.splits cx.j = some sp ∧ sp.pc = cx.sp.pc
      ∧ sp.clause = none ∧ sp.mask = cx.sp.mask ∧ sp.park = .fault ids)
  ∧ (∀ (s s1 s2 s3 : State) (cx : Cx) (hdr : DWord) (w x : Word) (h : Header) (off left : Nat) (ws : List Word), focus s = some cx →
    cx.sp.clause = none → cx.sp.resumeAt = some hdr → hdr ≠ cx.sp.pc → fetchWord s cx hdr = .ok (w, s1) → decodeHeader w = some h →
    off = (cx.sp.pc - hdr).toNat → off % 4 = 0 → off ≤ 4 * (h.len.toNat + 1) → left = h.len.toNat + 2 - off / 4 →
    fetchWord s1 cx cx.sp.pc = .ok (x, s2) → fetchBody cx (left - 1) (cx.sp.pc + 4) (litCount (decodeWord x)) s2 = (ws, s3) →
    ∃ t, exec .clauseStart s = .next t ∧ StandsIn s s3 t cx hdr w cx.sp.pc left (x :: ws))
  ∧ (∀ (s s1 : State) (cx : Cx) (hdr : DWord) (w : Word) (h : Header) (off : Nat), focus s = some cx →
    cx.sp.clause = none → cx.sp.resumeAt = some hdr → hdr ≠ cx.sp.pc → fetchWord s cx hdr = .ok (w, s1) → decodeHeader w = some h →
    off = (cx.sp.pc - hdr).toNat → (off % 4 = 0 → 4 * (h.len.toNat + 1) < off) →
    ∃ t w' sp, exec .clauseStart s = .next t ∧ warpAt t cx.k = some w' ∧ tget w'.splits cx.j = some sp
      ∧ sp = { cx.sp with resumeAt := none, park := .running } ∧ w' = { cx.w with splits := w'.splits }
      ∧ (∀ j, j ≠ cx.j → tget w'.splits j = tget cx.w.splits j) ∧ (∀ k, k ≠ cx.k → warpAt t k = warpAt s k) ∧ AccessFrame s s1
      ∧ t = { s1 with warps := t.warps })
  ∧ ∀ (s s1 : State) (cx : Cx) (hdr : DWord) (w : Word), focus s = some cx →
    cx.sp.clause = none → cx.sp.resumeAt = some hdr → hdr ≠ cx.sp.pc → fetchWord s cx hdr = .ok (w, s1) → decodeHeader w = none →
    StartTraps s s1 cx hdr { cls := .und, info := w, lanes := cx.sp.mask }

/-- SHORT_LATENCY_WRITEBACK and HEADING_COMMIT (R37, R51, R99, R196): once its cycle has come, a result stands in its register in its
lanes, or in its slot of the core's brew file with its presence, or fills its one entry of a keg; it is no longer to come, nor is an
earlier-issued result for its destination; no other register, slot, presence bit or keg changes, and nothing else, but that a new ST may
end exclusive groups (R86). Where the bytes of a
keg entry lie in the slice (`kegPlace`) is the model's choice (entry 32). -/
def Obligations.Writebacks : Prop :=
  ∀ (i : Instr) (k n : Nat) (s : State) (w : Warp) (r : PendWrite), warpAt s k = some w → pendAt s k n = some r →
    i = (if r.dest.heading then .headingCommit k n else .shortLatencyWriteback k n) →
    ∃ t w', exec i s = .next t ∧ warpAt t k = some w' ∧ Shown w w' r.dest r.payload r.lanes
      ∧ OnlyRegisters { w with groups := w'.groups } w' ∧ (r.dest ≠ .s 61 → w'.groups = w.groups)
      ∧ (∀ j, (tget w'.splits j).map Split.core = (tget w.splits j).map Split.core)
      ∧ w'.pend = supersede w.pend r ∧ OtherRegisters s t k
      ∧ (∀ sl row, r.dest = .brew sl → r.payload = .row row →
          (∀ l, l < 64 → lane (brewRow t (coreOfSlot k) sl) l = if r.lanes.getLsbD l then lane row l else lane (brewRow s (coreOfSlot k) sl) l)
          ∧ (∀ m, m ≠ sl → brewRow t (coreOfSlot k) m = brewRow s (coreOfSlot k) m)
          ∧ (∀ m, m < 256 → (coreAt t (coreOfSlot k)).presence.getLsbD m
              = ((coreAt s (coreOfSlot k)).presence.getLsbD m || decide (m = sl) && r.present))
          ∧ coreAt t (coreOfSlot k) = { coreAt s (coreOfSlot k) with
              brewFile := (coreAt t (coreOfSlot k)).brewFile, presence := (coreAt t (coreOfSlot k)).presence }
          ∧ (∀ c, c ≠ coreOfSlot k → coreAt t c = coreAt s c) ∧ t = { s with warps := t.warps, cores := t.cores })
      ∧ (∀ kn id row g e, r.dest = .keg kn id → r.payload = .row row → wgAt s w.wg = some g →
          (kegAt g kn).entries.find? (fun x => decide (x.id = id)) = some e →
          (MemInv s → UnderKey s none (kegPlace g (kegAt g kn) e.place) 256 →
            Stored s t (kegPlace g (kegAt g kn) e.place) (rowBytes (mergeRow r.lanes row zeroRow)))
          ∧ wgAt t w.wg = some { g with kegs := g.kegs.set kn { kegAt g kn with
              entries := (kegAt g kn).entries.map fun x => if x.id = id then { x with written := true } else x } }
          ∧ (∀ h, h ≠ w.wg → wgAt t h = wgAt s h)
          ∧ t = { s with
              warps := t.warps, wgs := t.wgs, mem := t.mem, poison := t.poison, sectorKeys := t.sectorKeys, fresh := t.fresh })
      ∧ ((∀ sl, r.dest ≠ .brew sl) → (∀ kn id, r.dest ≠ .keg kn id) → t = { s with warps := t.warps })

/-- MEMORY_ACCESS_COMPLETE and SFU_COMPLETE of an operation whose results are known (R52, R138, R360, R373): all of them stand in their
registers together, and the operation, with its hold on its flag, is gone. -/
def Obligations.ResultsComplete : Prop :=
  ∀ (i : Instr) (k : Nat) (s : State) (w : Warp) (o : Op), warpAt s k = some w → w.ops.find? (fun e => decide (e.id = o.id)) = some o →
    completionOf k o = some i → (o.outs.1.map fun e => e.1).Nodup →
    (∀ e ∈ o.outs.1, (∃ n y, e = (.s n, .word y)) ∨ ∃ n r, e = (.v n, .row r)) →
    ∃ t w', exec i s = .next t ∧ warpAt t k = some w' ∧ ShownAll w w' o.outs.1 o.outs.2
      ∧ w' = { w with s := w'.s, v := w'.v, ops := w'.ops, splits := w'.splits, groups := w'.groups }
      ∧ (∀ j, (tget w'.splits j).map Split.core = (tget w.splits j).map Split.core) ∧ (∀ e ∈ w'.ops, e.id ≠ o.id)
      ∧ w'.ops.map (fun e => e.id) = (w.ops.map fun e => e.id).filter (fun n => decide (n ≠ o.id)) ∧ OtherRegisters s t k
      ∧ t = { s with warps := t.warps }

/-- MEMORY_ACCESS_COMPLETE of an access of one piece that can be performed (R138, R149, R151, R362): a load takes its bytes, a store puts
its bytes at their place, an atomic takes the old word and puts the new one; every other byte stays, and no register has changed yet. -/
def Obligations.AccessesPerformed : Prop :=
  ∀ (k : Nat) (s : State) (w : Warp) (o : Op) (a : Access) (p : Piece) (x : Xlat), OnePiece s k w o a p x → MemInv s →
    (a.kind = .load → poisoned s x.loc p.len = false →
      ∃ t, exec (.memoryAccessComplete k o.id) s = .next t ∧ Performed s t k w o a p (readBytes s x.key x.loc p.len) ∧ t.mem = s.mem)
    ∧ (a.kind = .store → UnderKey s x.key x.loc p.data.length →
      ∃ t, exec (.memoryAccessComplete k o.id) s = .next t ∧ Performed s t k w o a p p.data ∧ Stored s t x.loc p.data)
    ∧ (∀ op et old, a.kind = .atomic op et → UnderKey s x.key x.loc 4 → poisoned s x.loc 4 = false →
      old = BitVec.ofNat 32 (leNat (rawBytes s x.key x.loc 4)) →
      ∃ t, exec (.memoryAccessComplete k o.id) s = .next t ∧ Performed s t k w o a p (leBytes 4 old.toNat)
        ∧ Stored s t x.loc (leBytes 4 (atomWord op et old p.operands.1 p.operands.2).toNat))

/-- CHECKSUM_COMPARE, CHECKSUM_RERUN_RESULT and MMA_RESULT (R178, R182, R185 to R187, R229): 24 cycles after issue, or 48 after a mismatch,
lane 4 i + j div 4 of register d + j mod 4 holds the rounded sum of output (i, j); a first mismatch reserves the array again, a second
one leaves the registers and defers ARRAY. -/
def Obligations.MatrixResults : Prop :=
  (∀ (k n : Nat) (s : State) (w : Warp) (o : Op) (m : MatrixOp) (i : Instr), warpAt s k = some w → matrixAt s k n = some (o, m) →
    m.d + 4 ≤ w.v.length →
    (i = .mmaResult k n ∧ m.compared = true ∧ m.rerun = false ∧ m.start + 24 ≤ s.now)
      ∨ (i = .checksumRerunResult k n false ∧ m.rerun = true ∧ m.start + 48 ≤ s.now) →
    ∃ t w', exec i s = .next t ∧ warpAt t k = some w' ∧ OnlyRegisters w w' ∧ w'.s = w.s ∧ w'.p = w.p ∧ w'.pend = w.pend
      ∧ (∀ a b, a < 16 → b < 16 → lane (w'.v.getD (m.d + b % 4) zeroRow) (4 * a + b / 4)
          = BitVec.ofNat 32 (windowSum (matrixTerms m s.fresh a b)))
      ∧ (∀ r, r < m.d ∨ m.d + 4 ≤ r → w'.v.getD r zeroRow = w.v.getD r zeroRow) ∧ (∀ e ∈ w'.ops, e.id ≠ o.id) ∧ OtherRegisters s t k
      ∧ t = { s with warps := t.warps, fresh := t.fresh })
  ∧ (∀ (k n : Nat) (bad : Bool) (s : State) (w : Warp) (o : Op) (m : MatrixOp), warpAt s k = some w → matrixAt s k n = some (o, m) →
    (coreAt s (coreOfSlot k)).quads.length = 4 → m.compared = false → m.start + 20 ≤ s.now →
    ∃ t w' o', exec (.checksumCompare k n bad) s = .next t ∧ warpAt t k = some w'
      ∧ matrixAt t k n = some (o', { m with compared := true, rerun := bad })
      ∧ w' = { w with ops := w'.ops } ∧ (∀ j, j ≠ k → warpAt t j = warpAt s j)
      ∧ SlotFrame (setQuad s (coreOfSlot k) (quadOfSlot k) (let q := quadAt s (coreOfSlot k) (quadOfSlot k)
          if bad then { q with arrayFree := max q.arrayFree (m.start + 28), rerunCount := min (q.rerunCount + 1) 0xFFFF } else q)) t)
  ∧ ∀ (k n : Nat) (s : State) (w : Warp) (o : Op) (m : MatrixOp), warpAt s k = some w → matrixAt s k n = some (o, m) →
    (coreAt s (coreOfSlot k)).quads.length = 4 → m.rerun = true → m.start + 48 ≤ s.now →
    ∃ t w', exec (.checksumRerunResult k n true) s = .next t ∧ warpAt t k = some w'
      ∧ w'.deferred = w.deferred ++ [{ trap := { cls := .array, info := BitVec.ofNat 32 m.d, lanes := BitVec.allOnes 64 }, pc := o.pc,
                                       split := o.split, late := true, back := none }]
      ∧ w' = { w with ops := w'.ops, deferred := w'.deferred } ∧ (∀ e ∈ w'.ops, e.id ≠ o.id) ∧ (∀ j, j ≠ k → warpAt t j = warpAt s j)
      ∧ SlotFrame (setQuad s (coreOfSlot k) (quadOfSlot k) { quadAt s (coreOfSlot k) (quadOfSlot k) with
          failCount := min ((quadAt s (coreOfSlot k) (quadOfSlot k)).failCount + 1) 0xFFFF }) t

/-- CLAIM_GRANT, SURR_RETURN, WARP_RETIRE and STARVATION_PRIORITY (R27, R31, R32, R275, R282, R349): a granted CLAIM adds zeroed blocks,
empties the latches of every split and goes on; the blocks of a SURR return to the pool; a warp whose EXIT waits for nothing leaves its
slot, and its blocks return; a split that has not issued for 64 cycles comes first: while a starving split can issue, each slot's choice
is a starving one, or in the vector slot the sibling of one that R83 prefers to it. That a retiring warp's reductions take with them the
earlier ones of other warps at their locations, and that a split which would pair with a booked word of its warp holds back for a starved
split of another warp (`pairingHeld`), are the model's choices (entries 46 and 47). -/
def Obligations.WarpEvents : Prop :=
  (∀ (n k : Nat) (s : State) (cx : Cx) (r : ClaimReq) (rest : List ClaimReq), (quadAt s (n / 4) (n % 4)).claims = r :: rest →
    claimReady s (n / 4) (n % 4) = true → r.slot = some k → cxAt s k r.split = some cx → cx.w.allot + r.n ≤ 10 →
    (coreAt s (n / 4)).quads.length = 4 →
    ∃ t w' sp, exec (.claimGrant n) s = .next t ∧ warpAt t k = some w' ∧ w'.allot = cx.w.allot + r.n
      ∧ w'.v = cx.w.v.take (8 * cx.w.allot) ++ List.replicate (8 * r.n) zeroRow ∧ tget w'.splits r.split = some sp
      ∧ sp.pc = cx.sp.pc + 4 ∧ sp.park = .running ∧ sp.mask = cx.sp.mask ∧ sp.path = cx.sp.path
      ∧ (∀ j q, tget w'.splits j = some q → q.latches = noLatches)
      ∧ (∀ j, j ≠ r.split → (tget w'.splits j).map Split.core = (tget cx.w.splits j).map Split.core)
      ∧ w' = { cx.w with allot := w'.allot, v := w'.v, splits := w'.splits, groups := w'.groups }
      ∧ (∀ j, j ≠ k → warpAt t j = warpAt s j)
      ∧ SlotFrame (setQuad s (n / 4) (n % 4) { quadAt s (n / 4) (n % 4) with
          claims := rest, pool := (quadAt s (n / 4) (n % 4)).pool - r.n }) t)
  ∧ (∀ (k lo n : Nat) (s : State) (w : Warp) (o : Op) (rest : List Op), warpAt s k = some w → surrsReady s k w = o :: rest →
    o.kind = .surr lo n → (coreAt s (coreOfSlot k)).quads.length = 4 →
    ∃ t w', exec (.surrReturn k) s = .next t ∧ warpAt t k = some w' ∧ w'.ops = w.ops.filter (fun e => decide (e.id ≠ o.id))
      ∧ w' = { w with ops := w'.ops, v := w'.v, splits := w'.splits, groups := w'.groups }
      ∧ (∀ r, r < 8 * w.allot → w'.v.getD r zeroRow = w.v.getD r zeroRow)
      ∧ (∀ j, (tget w'.splits j).map Split.core = (tget w.splits j).map Split.core) ∧ (∀ j, j ≠ k → warpAt t j = warpAt s j)
      ∧ SlotFrame (setQuad s (coreOfSlot k) (quadOfSlot k) { quadAt s (coreOfSlot k) (quadOfSlot k) with
          pool := (quadAt s (coreOfSlot k) (quadOfSlot k)).pool + n }) t)
  ∧ (∀ (k : Nat) (s : State) (w : Warp), warpAt s k = some w → exitReady w = true → w.ops = [] → w.deferred = [] →
    failedAtExit w = none → (wgAt s w.wg).isSome = true → (coreAt s (coreOfSlot k)).quads.length = 4 →
    ∃ t, exec (.warpRetire k) s = .next t ∧ warpAt t k = none
      ∧ (∀ j v, j ≠ k → warpAt s j = some v → ∃ v', warpAt t j = some v' ∧ v'.s = v.s ∧ v'.v = v.v ∧ v'.p = v.p ∧ v'.mode = v.mode)
      ∧ (quadAt t (coreOfSlot k) (quadOfSlot k)).pool = (quadAt s (coreOfSlot k) (quadOfSlot k)).pool + w.allot
      ∧ ((quadAt t (coreOfSlot k) (quadOfSlot k)).claims.all fun r => decide (r.slot ≠ some k)) = true
      ∧ t.reds = s.reds.filter (fun r => !placedWith s.reds (fun x => decide (x.slot = k)) r))
  ∧ (∀ (k j : Nat) (s : State) (w : Warp) (sp : Split), warpAt s k = some w → tget w.splits j = some sp → sp.lastIssue + 64 ≤ s.now →
    ∃ t w', exec (.starvationPriority k j) s = .next t ∧ warpAt t k = some w' ∧ tget w'.splits j = some { sp with starving := true }
      ∧ (∀ n, n ≠ j → tget w'.splits n = tget w.splits n) ∧ w' = { w with splits := w'.splits }
      ∧ (∀ n, n ≠ k → warpAt t n = warpAt s n) ∧ t = { s with warps := t.warps })
  ∧ ∀ (s : State) (cs : List Cx) (x : Cx), x ∈ cs → x.sp.starving = true →
    (fitsScalar s x = true → ∃ y, y ∈ cs ∧ y.sp.starving = true ∧ chooseScalar s cs = some (.issue y.k y.j))
    ∧ (fitsVector s x = true → pairingHeld s cs x = false → ∃ y j, y ∈ cs ∧ y.sp.starving = true
        ∧ (chooseVector s cs = some (.issue y.k j) ∨ chooseVector s cs = some (.lose y.k j)))

/-- ITERATION_SPAWN (R93, R94, R96, R99): the next iteration warp asks for its blocks; once they are granted it stands in a free brew slot
of its quadrant at the start clause with the registers the brew holds (S0 to S15 and S56 to S59 of the host, S16 to S55 zero: `Brews`
says so of BREW), in the stack region of that slot, its rows, headings and predicates as at every start (`StartsAt`); its block of the
brew file is cleared and absent, and the brew counts it.
When the request enters the queue R93 does not say: that it enters it once every other condition of R93 holds is the model's choice (entry
38), that the pool of splits holds no spawn back is too (entry 37), and so is which free brew slot the warp takes (entry 38). -/
def Obligations.IterationSpawns : Prop :=
  (∀ (c : Nat) (s : State) (b : Brew), (coreAt s c).brew = some b → spawnRoom s c b = true → b.requested = false →
    (coreAt s c).quads.length = 4 →
    ∃ t, exec (.iterationSpawn c) s = .next t ∧ (coreAt t c).brew = some { b with requested := true }
      ∧ (quadAt t c (b.next % 4)).claims = (quadAt s c (b.next % 4)).claims ++ [{ slot := none, split := 0, n := b.blocks }]
      ∧ t.warps = s.warps ∧ CoreFrame s t c)
  ∧ ∀ (c j k : Nat) (s : State) (b : Brew) (g : Workgroup), (coreAt s c).brew = some b → spawnRoom s c b = true → b.requested = true →
    spawnGranted s c b = true → wgAt s b.wg = some g → freeBrewSlot g (b.next % 4) b.depth = some j → k = g.slots.getD (g.n + j) 0 →
    ∃ t w' sp, exec (.iterationSpawn c) s = .next t ∧ warpAt t k = some w' ∧ w'.iter = some b.next ∧ w'.wg = b.wg
      ∧ w'.allot = b.blocks ∧ (∀ r, r < 60 → w'.s.getD r 0 = b.regs.getD r 0)
      ∧ StartsAt w' g.block (g.block + BitVec.ofNat 64 (g.ssz * (g.n + j))) g.slen ∧ w'.mode = b.mode ∧ w'.splits = [(0, sp)]
      ∧ sp.pc = b.start ∧ sp.clause = none ∧ sp.mask = BitVec.allOnes 64
      ∧ sp.park = .running ∧ (∀ n, n ≠ k → warpAt t n = warpAt s n)
      ∧ (coreAt t c).brew = some { b with next := b.next + 1, lastSpawn := some s.now, requested := false }
      ∧ (∀ o, o < b.fresh → b.fresh * (b.next % brewBlocks b) + o < 256 →
          (coreAt t c).presence.getLsbD (b.fresh * (b.next % brewBlocks b) + o) = false
          ∧ brewRow t c (b.fresh * (b.next % brewBlocks b) + o) = zeroRow)
      ∧ t = { s with warps := t.warps, cores := t.cores, wgs := t.wgs }

/-- BKPT, BKPT_DELIVERY and DEFERRED_TRAP (R86, R229, R231, R237, R266): BKPT stops its warp with the breakpoint noted, and registers and
memory stay; once nothing is attached to its flags, its results are visible and nothing bars the trap (`Barred`), the trap is taken, and
till then nothing happens. A deferred trap is taken at an instruction boundary by its split, or by the live split with the lowest index, at
a waiting EXIT by the split that waits, the lowest class first (`NextDeferred`); NPC and HDR are those of the boundary, or those the trap
came with where it waited for its split to be free; where no trap can be taken, nothing happens. A trap that is barred when it is met waits
in its warp. When a stopped warp's trap is taken, which split takes a deferred one, and that a barred trap waits are the model's choice
(entry 22). -/
def Obligations.BreakpointsAndDeferredTraps : Prop :=
  (∀ (x : BitVec 6) (imm : Half) (s : State) (cx : Cx), Ready (.bkpt x imm) s cx →
    ∃ t w' sp, exec (.bkpt x imm) s = .next t ∧ warpAt t cx.k = some w' ∧ tget w'.splits cx.j = some sp ∧ sp.pc = cx.sp.pc
      ∧ w'.bkpt = some (cx.j, { cls := .bkpt, info := imm.setWidth 32, lanes := eff s cx })
      ∧ SameWarp cx.j { cx.w with bkpt := w'.bkpt } w' ∧ w'.pend = cx.w.pend ∧ (∀ k, k ≠ cx.k → warpAt t k = warpAt s k) ∧ SlotFrame s t)
  ∧ (∀ (k j : Nat) (s u s2 : State) (w : Warp) (tr : Trap) (cx cx' : Cx) (tn : Tenancy), warpAt s k = some w → w.bkpt = some (j, tr) →
    ¬ Barred w j → (∀ o ∈ w.ops, o.flag = none) → w.pend = [] →
    u = updWarp s k (fun w => { w with bkpt := none }) → cxAt u k j = some cx →
    TrapRoom u cx cx' tn tr cx.sp.pc (cx.sp.pc + 4) (hdrFor cx.sp (cx.sp.pc + 4)) false s2 →
    ∃ t, exec (.bkptDelivery k) s = .next t ∧ TrapTaken cx cx' tn tr.cls s2 t)
  ∧ (∀ (k j : Nat) (s : State) (w : Warp) (tr : Trap), warpAt s k = some w → w.bkpt = some (j, tr) →
    (Barred w j ∨ (∃ o ∈ w.ops, o.flag ≠ none) ∨ w.pend ≠ []) → exec (.bkptDelivery k) s = .next s)
  ∧ (∀ (k j n : Nat) (s u s2 : State) (w : Warp) (d : DeferredTrap) (cx cx' : Cx) (tn : Tenancy) (npc hdr : DWord), warpAt s k = some w →
    tableWf w.splits = true → NextDeferred w n d j →
    u = updWarp s k (fun w => { w with deferred := w.deferred.erase d }) → cxAt u k j = some cx →
    (∀ b, d.back = some b → d.split = j → npc = b.1 ∧ hdr = b.2) →
    (d.back = none ∨ d.split ≠ j → npc = cx.sp.pc ∧ hdr = hdrFor cx.sp cx.sp.pc) →
    TrapRoom u cx cx' tn d.trap d.pc npc hdr d.late s2 →
    ∃ t, exec (.deferredTrap k) s = .next t ∧ TrapTaken cx cx' tn d.trap.cls s2 t)
  ∧ (∀ (k : Nat) (s : State) (w : Warp), warpAt s k = some w → tableWf w.splits = true →
    (w.bkpt ≠ none ∨ (∃ q, w.park = some (.trapRing q)) ∨ ∀ d ∈ w.deferred, ∀ j, ¬ CanTake w d j) →
    exec (.deferredTrap k) s = .next s)
  ∧ ∀ (k j : Nat) (s : State) (w : Warp) (sp : Split) (tr : Trap) (pc npc hdr : DWord) (late : Bool), warpAt s k = some w →
    tget w.splits j = some sp → Barred w j →
    ∃ t w', takeTrap s k j tr pc npc hdr late = t ∧ warpAt t k = some w' ∧ tget w'.splits j = some { sp with park := .running }
      ∧ w'.deferred = w.deferred ++ [{ trap := tr, pc := pc, split := j, late := late, back := some (npc, hdr) }]
      ∧ w' = { w with deferred := w'.deferred, ops := w.ops.filter (fun o => !o.retries j), splits := w'.splits }
      ∧ (∀ i, i ≠ j → tget w'.splits i = tget w.splits i) ∧ t = { s with warps := t.warps }

/-! Cores. -/

/-- The distributor's choice (R24): of the eligible cores, which are those of the core set with room, the core with the lowest score,
temperature plus twice the droop events (in quarter degrees), among those not hot, or among the hot ones when all are; the lowest
number decides a tie, heat alone never delays a placement, and a relocatable workgroup comes back by the same rule. That a gated core,
chosen and woken (R258), stays the choice while it still has room is the model's choice (entry 11). -/
def Obligations.CoreChoice : Prop :=
  (∀ (s : State) (l : Launch) (t : Tenancy) (cs : List Nat), tenAt s l.ten = some t →
    cs = t.coreSet.filter (fun c => hasRoom s c (kernelNeed l.kernel)) →
    (bestCore s (eligible s l) = none ↔ cs = []) ∧ (∀ c, bestCore s (eligible s l) = some c → BestOf s cs c)
    ∧ (l.target = none → chosenCore s l.target (eligible s l) = bestCore s (eligible s l))
    ∧ ∀ c, l.target = some c → c ∈ cs → chosenCore s l.target (eligible s l) = some c)
  ∧ ∀ (s : State) (x : Context) (t : Tenancy) (cs : List Nat), x.wg.relocatable = true → x.wg.bound = false → tenAt s x.ten = some t →
    cs = t.coreSet.filter (fun c => roomFor s x c) →
    (restoreCore s x = none ↔ cs = []) ∧ (x.target = none → ∀ c, restoreCore s x = some c → BestOf s cs c)
    ∧ ∀ c, x.target = some c → c ∈ cs → restoreCore s x = some c

/-- WORKGROUP_PLACEMENT (R21, R22, R24, R36, R190, R244): the next workgroup of a launch stands whole on the chosen core: its warps, each
with all lanes of its first split at the kernel's entry, S0 to S55 zero, S56 to S59 as R22 lists them, S60 to S63 and the service stack in
the warp's stack region, every vector row and predicate zero, the headings with the zero code (`StartsAt`), its kegs empty, its SRAM with
the arguments at the bottom, the launch one further. Where the chosen core is gated it is woken, and nothing is placed yet (R258). Which
free slots and which free SRAM offset a workgroup gets is the model's choice (entry 11), and so is that it is placed whatever the quadrant's
pool of split entries holds (entry 37). -/
def Obligations.Placement : Prop :=
  (∀ (n c off : Nat) (slots : List Nat) (s : State) (l : Launch), tget s.launches n = some l → l.next < l.total → waitsFull s l = false →
    chosenCore s l.target (eligible s l) = some c → running s c = true → pickSlots s c (kernelNeed l.kernel).quads [] = some slots →
    pickSram s c l.kernel.sram = some off →
    ∃ t g, exec (.workgroupPlacement n) s = .next t ∧ wgAt t s.nextId = some g ∧ g.core = c ∧ g.linear = l.next ∧ g.launch = n
      ∧ g.block = l.stack + BitVec.ofNat 64 (l.ssz * (l.kernel.warps + l.kernel.brew) * l.next)
      ∧ g.ten = l.ten ∧ g.n = l.kernel.warps ∧ g.slots = slots ∧ g.sram = off ∧ (∀ x ∈ g.kegs, x.entries = [] ∧ x.next = 0)
      ∧ tget t.launches n = some { l with next := l.next + 1, target := none } ∧ t.mem = (writeBytes s none (sramLoc c off) l.args).mem
      ∧ (∀ i, i < l.kernel.warps → ∃ w sp, warpAt t (slots.getD i 0) = some w ∧ w.wg = s.nextId ∧ w.index = i ∧ w.iter = none
          ∧ w.allot = l.kernel.allot ∧ w.splits = [(0, sp)] ∧ sp.pc = l.entry ∧ sp.clause = none
          ∧ sp.mask = (if l.t1 then 0x00000000FFFFFFFF else BitVec.allOnes 64) ∧ w.s.getD 56 0 = BitVec.ofNat 32 off
          ∧ w.s.getD 57 0 = BitVec.ofNat 32 l.next ∧ w.s.getD 58 0 = BitVec.ofNat 32 i ∧ w.s.getD 59 0 = BitVec.ofNat 32 l.total
          ∧ (∀ r, r < 56 → w.s.getD r 0 = 0) ∧ w.mode = 0 ∧ StartsAt w g.block (g.block + BitVec.ofNat 64 (l.ssz * i)) l.slen)
      ∧ (∀ k, k ∉ slots → warpAt t k = warpAt s k))
  ∧ ∀ (n c g : Nat) (s : State) (l : Launch), tget s.launches n = some l → l.next < l.total → waitsFull s l = false →
    chosenCore s l.target (eligible s l) = some c → (coreAt s c).gatedAt = some g → g ≠ s.now → (coreAt s c).wakeAt = none →
    ∃ t m, exec (.workgroupPlacement n) s = .next t ∧ tget t.launches n = some { l with target := some c }
      ∧ (∀ j, j ≠ n → tget t.launches j = tget s.launches j) ∧ coreAt t c = { coreAt s c with wakeAt := some m } ∧ s.now < m
      ∧ (∀ d, d ≠ c → coreAt t d = coreAt s d) ∧ t = { s with launches := t.launches, cores := t.cores, times := t.times }

/-- TEMPERATURE_READING, DROOP_EVENT, DROOP_EVENT_EXPIRY, GATE_COMMIT, WAKE_MESSAGE and CORE_UNGATE (R23, R39, R258): a core is hot from
T_avoid on and no more 8 degrees below it; events count for 1 ms; an idle core gates with its translations gone, it runs again at most 3
µs after a wake message, and its cycle counter then goes on from where it gated. Nothing but that core changes. That the cycle counter
counts from the start of the core's level is the model's choice (entry 23). A wake message in the cycle of the commit aborts the gating; the
idle time that decides is the one set when the idle period began (R243). -/
def Obligations.CoreEvents : Prop :=
  (∀ (c q : Nat) (s : State), ∃ t, exec (.temperatureReading c q) s = .next t
    ∧ coreAt t c = { coreAt s c with temp := q, hot := (coreAt t c).hot }
    ∧ ((coreAt s c).hot = false → ((coreAt t c).hot = true ↔ 4 * s.tavoid ≤ q))
    ∧ ((coreAt s c).hot = true → ((coreAt t c).hot = false ↔ q + 4 * 8 ≤ 4 * s.tavoid)) ∧ CoreFrame s t c)
  ∧ (∀ (c : Nat) (s : State), ∃ t, exec (.droopEvent c) s = .next t
    ∧ coreAt t c = { coreAt s c with droops := (coreAt s c).droops ++ [s.now] } ∧ CoreFrame s t c)
  ∧ (∀ (c d : Nat) (r : List Nat) (s : State), (coreAt s c).droops = d :: r → d + 1000 * microCycles s ≤ s.now →
    ∃ t, exec (.droopEventExpiry c) s = .next t ∧ coreAt t c = { coreAt s c with droops := r } ∧ CoreFrame s t c)
  ∧ (∀ (c : Nat) (s : State), gateDue s c = true →
    ∃ t, exec (.gateCommit c) s = .next t ∧ coreAt t c = { coreAt s c with gatedAt := some s.now, tlb := [], walks := [] }
      ∧ running t c = false ∧ CoreFrame s t c)
  ∧ (∀ (c n : Nat) (s : State), gateDue { s with gidle := n } c = gateDue s c
    ∧ ∀ start set, (coreAt s c).idleSince = some (start, set) → gateDue s c = true → start + set * microCycles s ≤ s.now)
  ∧ (∀ (c : Nat) (s : State), (coreAt s c).gatedAt = some s.now → (coreAt s c).wakeAt = none →
    ∃ t, exec (.wakeMessage c) s = .next t ∧ coreAt t c = { coreAt s c with gatedAt := none, idleSince := none } ∧ CoreFrame s t c)
  ∧ (∀ (c g : Nat) (s : State), (coreAt s c).gatedAt = some g → g ≠ s.now → (coreAt s c).wakeAt = none →
    ∃ t n, exec (.wakeMessage c) s = .next t ∧ coreAt t c = { coreAt s c with wakeAt := some n } ∧ s.now < n
      ∧ n ≤ s.now + 3 * microCycles s ∧ (∀ d, d ≠ c → coreAt t d = coreAt s d) ∧ t = { s with cores := t.cores, times := t.times })
  ∧ (∀ (c : Nat) (s : State), running s c = true →
    ∃ t, exec (.wakeMessage c) s = .next t ∧ coreAt t c = { coreAt s c with idleSince := none } ∧ CoreFrame s t c)
  ∧ ∀ (c g n : Nat) (s : State), (coreAt s c).gatedAt = some g → (coreAt s c).wakeAt = some n → n ≤ s.now → g ≤ s.now →
    ∃ t, exec (.coreUngate c) s = .next t ∧ running t c = true ∧ clkOf t c = clkOf { s with now := g } c
      ∧ coreAt t c = { coreAt s c with gatedAt := none, wakeAt := none, idleSince := none, clkLost := (coreAt t c).clkLost }
      ∧ CoreFrame s t c

/-! Casks, counters, engines and batches. -/

/-- CASK_REFILL and COUNTER_RELEASE_DEFERRED on a cask no warp waits for (R213, R214, R216): the eight oldest spilled records, or all,
come on chip in order, once the cores in whose slices the spill ring lies run; the first release of a counter unit becomes the last record
of its cask, whose core it keeps awake, or wakes first where it is gated (R258). KILN_EXPAND, KILN_PACK and LATTICE_LOAD of
the next command of a core (R168 to R173): an expansion reads its data and scale rows and stores the decoded tiles; a packing reads the
tiles and stores each row's data and scales; a lattice image becomes the table. The command leaves the queue, and its batch; while the clock
of a core whose slice it reaches is stopped, it is made again in the next cycle, and the cores are woken (R258). That a refill or a release
is one access and that a command runs at once are the model's choices (entries 14 and 27). -/
def Obligations.UnitEvents : Prop :=
  (∀ (c n : Nat) (s s1 : State) (bs : List (List Byte)), refillDue (caskAt s c) = true → n = min 8 (caskAt s c).spilled →
    readRanges (spillReq c (caskAt s c) .load) ((List.range n).map fun i => (spillPlace (caskAt s c) i, 32)) s = .ok (bs, s1) →
    asleep s (refillSlices s c) = false → caskQuiet s1 c →
    ∃ t, exec (.caskRefill c) s = .next t
      ∧ caskAt t c = { caskAt s c with
          recs := (caskAt s c).recs ++ bs.map fun b => (List.range 8).map fun i => BitVec.ofNat 32 (field b (4 * i) 4)
          spilled := (caskAt s c).spilled - n, head := ((caskAt s c).head + n) % (caskAt s c).scap }
      ∧ (∀ d, d ≠ c → caskAt t d = caskAt s d) ∧ t = { s1 with casks := t.casks })
  ∧ (∀ (c : Nat) (s : State), refillDue (caskAt s c) = true → asleep s (refillSlices s c) = true →
    exec (.caskRefill c) s = .next (wakeAll s (refillSlices s c)))
  ∧ (∀ (c : Nat) (s : State) (r : Release) (rest : List Release), (coreAt s c).releases = r :: rest → r.cycle < s.now → r.faults = [] →
    caskOn s r.cask = true → running s (r.cask / 4) = true → (caskAt s r.cask).spilled = 0 → (caskAt s r.cask).recs.length < 32 →
    caskQuiet s r.cask →
    ∃ t, exec (.counterReleaseDeferred c) s = .next t
      ∧ (∀ d, coreAt t d = { coreAt s d with
          releases := if d = c then rest else (coreAt s d).releases
          idleSince := if d = r.cask / 4 then none else (coreAt s d).idleSince })
      ∧ caskAt t r.cask = { caskAt s r.cask with recs := (caskAt s r.cask).recs ++ [r.words] }
      ∧ (∀ d, d ≠ r.cask → caskAt t d = caskAt s d) ∧ t = { s with casks := t.casks, cores := t.cores })
  ∧ (∀ (c : Nat) (s : State) (r : Release) (rest : List Release), (coreAt s c).releases = r :: rest → r.cycle < s.now → r.faults = [] →
    caskOn s r.cask = true → (caskAt s r.cask).takes = true → (coreAt s (r.cask / 4)).wakeAt = none →
    (∃ g, (coreAt s (r.cask / 4)).gatedAt = some g ∧ g < s.now) →
    ∃ t m, exec (.counterReleaseDeferred c) s = .next t
      ∧ coreAt t (r.cask / 4) = { coreAt s (r.cask / 4) with wakeAt := some m } ∧ s.now < m ∧ m ≤ s.now + 3 * microCycles s
      ∧ (∀ d, d ≠ r.cask / 4 → coreAt t d = coreAt s d) ∧ t = { s with cores := t.cores, times := t.times })
  ∧ (∀ (c : Nat) (s s1 s2 s3 : State) (k : KilnCmd) (b : List Byte) (tb : List Word) (rows scls : List (List Byte)) (w : Warp),
    nextKiln s c = some k → k.job = .expand b tb → warpAt s k.slot = some w → asleep s (k.slices s c) = false →
    readRanges (k.req c .load) (layoutOf b).rowRanges s = .ok (rows, s1) →
    readList (k.req c .load) (layoutOf b).rowRanges (layoutOf b).sclRanges s1 = .ok (scls, s2) →
    writeRange s2 (k.req c .store) (layoutOf b).tile (expandBytes (layoutOf b) tb rows scls) = .ok s3 →
    ∃ t, exec (.kilnExpand c) s = .next t ∧ KilnDone s t c k w ∧ t.mem = s3.mem)
  ∧ (∀ (c : Nat) (s s1 s2 : State) (k : KilnCmd) (b tiles : List Byte) (w : Warp),
    nextKiln s c = some k → k.job = .pack b → warpAt s k.slot = some w → asleep s (k.slices s c) = false →
    readRange s (k.req c .load) (layoutOf b).tile (1024 * (layoutOf b).tiles) = .ok (tiles, s1) →
    writeRanges (k.req c .store) ((List.range (layoutOf b).rows).flatMap fun a =>
      [((layoutOf b).rowVa a, (packRow (layoutOf b) tiles a).1), ((layoutOf b).sclVa a, (packRow (layoutOf b) tiles a).2)]) s1 = .ok s2 →
    ∃ t, exec (.kilnPack c) s = .next t ∧ KilnDone s t c k w ∧ t.mem = s2.mem)
  ∧ (∀ (i : Instr) (c : Nat) (s : State) (k : KilnCmd), nextKiln s c = some k →
    ((i = .kilnExpand c ∧ ∃ b tb, k.job = .expand b tb) ∨ (i = .kilnPack c ∧ ∃ b, k.job = .pack b)) → asleep s (k.slices s c) = true →
    exec i s = .next (updKiln (wakeAll s (k.slices s c)) c k.id (some { k with due := s.now + 1 })))
  ∧ ∀ (c n : Nat) (s : State) (k : KilnCmd) (ws : List Word) (w : Warp), nextKiln s c = some k → k.job = .lattice n ws →
    warpAt s k.slot = some w →
    ∃ t, exec (.latticeLoad c) s = .next t ∧ KilnDone s t c k w ∧ tget (coreAt t c).lattice n = some ws
      ∧ (∀ m, m ≠ n → tget (coreAt t c).lattice m = tget (coreAt s c).lattice m) ∧ t = { s with warps := t.warps, cores := t.cores }

/-- BATCH_COMPLETE, COMBINER_APPLY, REMOTE_WRITE_ACK and REMOTE_WRITE_TIMEOUT (R160, R161, R173, R175, R229, R287, R381): a WAITB whose
batches have completed, none failed, goes on; a combiner applies the first reduction that waits for it: while its warp lives the word in
memory stays, and a load sees its 8-byte location with some prefix of those applied there, in their order; the batch's command is complete
with its last; one of another package is answered when it is applied; an acknowledged remote store of one piece is in memory and its G
command complete; one not acknowledged in 100 µs defers FABRIC and holds no flag, but for the lanes that still wait for a replay, or raises
FABRIC at a word of the warp that waits for it. The model's choices: when a command leaves its batch and when a remote write is performed
(entries 7 and 26), and that earlier reductions at a location take their places with a later one (entry 46). -/
def Obligations.BatchEvents : Prop :=
  (∀ (k : Nat) (cls : EngineClass) (n : Word) (s : State) (w : Warp) (cx : Cx), warpAt s k = some w → waitbReady w = some (cls, n) →
    (w.batches cls).failed = [] → cxAt s k w.parkSplit = some cx →
    ∃ t w' sp, exec (.batchComplete k cls) s = .next t ∧ warpAt t k = some w' ∧ tget w'.splits cx.j = some sp ∧ sp.pc = cx.sp.pc + 4
      ∧ sp.mask = cx.sp.mask ∧ sp.path = cx.sp.path
      ∧ (∀ j, j ≠ cx.j → (tget w'.splits j).map Split.core = (tget w.splits j).map Split.core)
      ∧ w'.park = none ∧ w' = { w with park := none, splits := w'.splits, groups := w'.groups }
      ∧ (∀ j, j ≠ k → warpAt t j = warpAt s j) ∧ t = { s with warps := t.warps })
  ∧ (∀ (s : State) (r : Reduction), s.reds.filter (fun e => decide (e.id = r.id)) = [r] → r.applied = false → firstAt s.reds r = true →
    (spaceOf r.xl.loc = 0 → running s (r.xl.loc / Config.sliceBytes) = true) → poisoned s r.xl.loc 4 = false → r.xl.counter = none →
    (∀ w, warpAt s r.slot = some w → ∃ t w', exec (.combinerApply r.id) s = .next t ∧ warpAt t r.slot = some w'
      ∧ t.reds = s.reds.map (fun e => if e.id = r.id then { e with applied := true } else e)
      ∧ (∀ key, ∃ n ≤ (unplaced t r.location).length, reducedBytes t key r.location
          = ((unplaced t r.location).take n).foldl reduceIn (rawBytes t key (8 * r.location) 8))
      ∧ ((∀ e ∈ s.reds, e.cmd = r.cmd → e.applied = true ∨ e.id = r.id) →
          w' = { w with bN := { w.bN with cmds := w.bN.cmds.filter fun e => decide (e.1 ≠ r.cmd) } })
      ∧ ((∃ e ∈ s.reds, e.cmd = r.cmd ∧ e.applied = false ∧ e.id ≠ r.id) → w' = w)
      ∧ (∀ j, j ≠ r.slot → warpAt t j = warpAt s j)
      ∧ t = { (if spaceOf r.xl.loc = 0 then wakeCore s (r.xl.loc / Config.sliceBytes) else s) with warps := t.warps, reds := t.reds })
    ∧ (warpAt s r.slot = none → UnderKey s r.xl.key r.xl.loc 4 → MemInv s →
      ∃ t, exec (.combinerApply r.id) s = .next t
        ∧ t.reds = s.reds.filter (fun e => !placedWith s.reds (fun x => decide (x.id = r.id)) e)
        ∧ (s.reds.filter (placedWith s.reds fun x => decide (x.id = r.id)) = [r] →
          Stored s t r.xl.loc (leBytes 4 (atomWord r.op r.et (BitVec.ofNat 32 (leNat (rawBytes s r.xl.key r.xl.loc 4))) r.val 0).toNat))
        ∧ (r.slot = outsideSlot → t.remoteResp = some .done) ∧ t.warps = s.warps))
  ∧ (∀ (k : Nat) (s : State) (r : RemoteWrite) (w : Warp) (o : Op) (a : Access) (p : Piece) (x : Xlat),
    s.remotes.find? (fun e => decide (e.slot = k) && decide (e.op = r.op)) = some r → warpAt s k = some w →
    w.ops.find? (fun e => decide (e.id = r.op)) = some o → o.kind = .access a → a.kind = .store → a.pieces = [p] → p.remote = true →
    p.done = false → p.at? = some x → x.counter = none → UnderKey s x.key x.loc p.data.length → MemInv s →
    ∃ t w' o', exec (.remoteWriteAck k r.op) s = .next t ∧ warpAt t k = some w' ∧ Stored s t x.loc p.data
      ∧ w'.ops.find? (fun e => decide (e.id = r.op)) = some o'
      ∧ o'.kind = .access { a with pieces := [{ p with done := true }], performed := true, remote := false }
      ∧ w' = { w with ops := w'.ops, bG := { w.bG with cmds := w.bG.cmds.filter fun e => decide (e.1 ≠ r.cmd) } }
      ∧ t.remotes = s.remotes.filter (fun e => decide (e.id ≠ r.id)) ∧ (∀ j, j ≠ k → warpAt t j = warpAt s j)
      ∧ t = { s with warps := t.warps, remotes := t.remotes, mem := t.mem, poison := t.poison, fresh := t.fresh })
  ∧ (∀ (k : Nat) (s : State) (r : RemoteWrite) (w : Warp),
    s.remotes.find? (fun e => decide (e.slot = k) && decide (e.op = r.op)) = some r → r.sent + 100 * microCycles s ≤ s.now →
    warpAt s k = some w → (∀ e ∈ w.splits, ∀ n, e.2.park ≠ .fence n) →
    ∃ t w', exec (.remoteWriteTimeout k r.op) s = .next t ∧ warpAt t k = some w'
      ∧ w'.deferred = w.deferred ++ [{ trap := { cls := .fabric, info := r.va.setWidth 32, lanes := r.lanes }, pc := r.pc
                                       split := r.split, late := true, back := none }]
      ∧ w'.ops = (match accessAt s k r.op with
          | none => w.ops
          | some (_, o, a) => w.ops.filterMap fun e =>
              if e.id ≠ r.op then some e
              else if a.kept = [] then none
              else some { o with kind := .access { a with dest := .nowhere, pieces := a.kept, remote := false } })
      ∧ ((∃ o a, accessAt s k r.op = some (w, o, a) ∧ a.kept = []) → ∀ j q, tget w'.splits j = some q → q.park ≠ .access r.op)
      ∧ (∀ j, (tget w'.splits j).map Split.core = (tget w.splits j).map Split.core)
      ∧ w' = { w with ops := w'.ops, deferred := w'.deferred, splits := w'.splits
                      bG := { w.bG with cmds := w.bG.cmds.filter fun e => decide (e.1 ≠ r.cmd) } }
      ∧ t.remotes = s.remotes.filter (fun e => decide (e.id ≠ r.id)) ∧ ∀ j, j ≠ k → warpAt t j = warpAt s j)
  ∧ ∀ (k : Nat) (s u s2 : State) (r : RemoteWrite) (w : Warp) (cx cx' : Cx) (i : Instr) (tn : Tenancy),
    s.remotes.find? (fun e => decide (e.slot = k) && decide (e.op = r.op)) = some r → r.sent + 100 * microCycles s ≤ s.now →
    warpAt s k = some w → (∀ e ∈ w.ops, e.id ≠ r.op) →
    u = updWarp (dropFresh { s with remotes := s.remotes.filter fun e => decide (e.id ≠ r.id) }) k
      (fun w => { w with bG := { w.bG with cmds := w.bG.cmds.filter fun e => decide (e.1 ≠ r.cmd) } }) →
    ackWaiter u r = some (cx, i) → (∀ d a b, i ≠ .vstrDom d a b) →
    TrapRoom u cx cx' tn { cls := .fabric, info := r.va.setWidth 32, lanes := eff u cx } cx.sp.pc (nextPc cx (litCount i))
      (hdrFor cx.sp (nextPc cx (litCount i))) false s2 →
    ∃ t, exec (.remoteWriteTimeout k r.op) s = .next t ∧ TrapTaken cx cx' tn .fabric s2 t

/-! Lantern dies. -/

/-- LANTERN_APPEND, LANTERN_QUERY, LANTERN_PREFETCH_HINT, STAGING_FILL and REMOTE_BLOCK_FETCH (R218, R220 to R223, R226, R314, R316): an
append reads its K and V rows, which take their places after the sequence's tokens, and makes it longer; a query over mapped blocks stores
every row's log-sum-exp and output; each leaves its die's queue and its batch. While the clock of a core whose slice a command reaches is
stopped, it is made again in the next cycle, and the cores are woken (R258). A hint is noted, unless prefetching is off; the prefetcher
fills its idle buffer; the die of another node gets the block it asks for, where that is its tenancy's, and an error otherwise. The places
of blocks and the order of what a query stores (entry 15), that an append or a query reads and writes memory in one step (entry 27), and
what the blocks of other nodes hold (entry 40), are the model's choices. -/
def Obligations.LanternData : Prop :=
  (∀ (d : Nat) (s s1 s2 s3 : State) (c : LanternCmd) (q : LanternSeq) (ks vs : List (List Byte)) (w : Warp), c.op = .append →
    LanternReady s d c w → (dieAt s d).seq c.ten (recSeq c.op c.record) = some q → field c.record 4 1 < q.layers →
    field c.record 5 1 < q.heads → c.start + field c.record 6 2 < 2 ^ 31 →
    c.reads s [] ((List.range (field c.record 6 2)).map fun i => (recVa c.record 8 + BitVec.ofNat 64 (256 * i), 256)) = .ok (ks, s1) →
    c.reads s1 (keyRanges c.record) ((List.range (field c.record 6 2)).map fun i =>
      (recVa c.record 16 + BitVec.ofNat 64 (256 * i), 256)) = .ok (vs, s2) →
    appendRows d c q ks vs (List.range (field c.record 6 2)) s2 = .ok s3 →
    ∃ t q', exec (.lanternAppend d c.id) s = .next t ∧ LanternDone s t d c w ∧ t.mem = s3.mem
      ∧ (dieAt t d).seq c.ten q.id = some q'
      ∧ q' = { q with lens := tset q.lens (field c.record 4 1 * 128 + field c.record 5 1) (c.start + field c.record 6 2) })
  ∧ (∀ (d n : Nat) (s s1 s2 : State) (c : LanternCmd) (q : LanternSeq) (locs : List (Nat × Nat)) (qs : List (List Byte))
      (res : List (List Nat × Nat)) (w : Warp), c.op = .query →
    LanternReady s d c w → (dieAt s d).seq c.ten (recSeq c.op c.record) = some q → field c.record 4 1 < q.layers →
    field c.record 5 1 < q.heads →
    field c.record 32 4 ≤ min c.start (tgetD q.lens (field c.record 4 1 * 128 + field c.record 5 1) 0) →
    blockLocs s d c q.id (field c.record 4 1) (field c.record 5 1) (attended c.record) = .ok locs → s.poison = [] →
    n = recG c.record * recR c.record →
    c.reads s [] ((List.range n).map fun i => (recVa c.record 16 + BitVec.ofNat 64 (256 * i), 256)) = .ok (qs, s1) →
    res = (List.range n).map (fun i => rowResult (recF32 c.record)
      (queryRow s1 q c.record locs (qs.getD i []) (i % recR c.record))) →
    c.writes (dropFresh s1) (queryRanges c.record) ((List.range n).map (fun i =>
        (recVa c.record 48 + BitVec.ofNat 64 (4 * i), leBytes 4 (res.getD i ([], 0)).2))
      ++ (List.range n).map (fun i => (recVa c.record 40 + BitVec.ofNat 64 (128 * (if recF32 c.record then 4 else 2) * i),
        (res.getD i ([], 0)).1.flatMap fun x => leBytes (if recF32 c.record then 4 else 2) x))) = .ok s2 →
    ∃ t, exec (.lanternQuery d c.id) s = .next t ∧ LanternDone s t d c w ∧ t.mem = s2.mem)
  ∧ (∀ (d : Nat) (s : State) (c : LanternCmd) (q : LanternSeq) (w : Warp), c.op = .hint → LanternReady s d c w →
    (dieAt s d).seq c.ten (recSeq c.op c.record) = some q → field c.record 4 1 < q.layers → 0 < q.heads →
    ∃ t, exec (.lanternPrefetchHint d c.id) s = .next t ∧ LanternDone s t d c w ∧ t.mem = s.mem
      ∧ (dieAt t d).hints = (if (dieAt s d).mode = 2 then (dieAt s d).hints
          else (dieAt s d).hints ++ [(c.ten, q.id, field c.record 4 1)]))
  ∧ (∀ (d : Nat) (s : State), d < s.lanterns.length →
    ∃ t, exec (.stagingFill d) s = .next t ∧ (dieAt t d).hints = []
      ∧ (∀ g, g ∈ (dieAt t d).filling ↔ g ∈ (dieAt s d).filling ∨ g ∈ fillBlocks s d) ∧ (dieAt t d).staged = (dieAt s d).staged
      ∧ t = { s with lanterns := t.lanterns })
  ∧ (∀ (i : Instr) (d : Nat) (s : State) (c : LanternCmd), (dieAt s d).cmds.find? (fun x => decide (x.id = c.id)) = some c →
    cmdReady s d c = true → ((i = .lanternAppend d c.id ∧ c.op = .append) ∨ (i = .lanternQuery d c.id ∧ c.op = .query)
      ∨ (i = .lctlCreate d c.id ∧ isControl 0 c = true)) → asleep s (c.slices s) = true →
    exec i s = .next (retryCmd (wakeAll s (c.slices s)) d c.id))
  ∧ ∀ (who : BlockAsker) (d g : Nat) (s : State), who.node ≠ Config.node →
    (∀ e, (dieAt s d).stage2.find? (fun x => decide (x.global = g) && decide (x.ten = who.ten)) = some e →
      ∃ t bs, exec (.remoteBlockFetch who d g) s = .next t ∧ t = { s with remoteResp := some (.data bs) }
        ∧ bs.length = 131072 ∧ ∀ i, i < 131072 → bs.getD i 0 = memByte s.mem (lanternLoc d e.tier (131072 * e.phys) + i))
    ∧ ((∀ e ∈ (dieAt s d).stage2, e.global = g → e.ten ≠ who.ten) →
      exec (.remoteBlockFetch who d g) s = .next { s with remoteResp := some .error })

/-- LCTL_CREATE, LCTL_FREE, LCTL_TRUNC, LCTL_MAP1, LCTL_UNMAP1, LCTL_MAP2, LCTL_POOL, LCTL_SETTIER and LCTL_PFMODE (R217, R224, R225,
R311, R312): each has its effect on sequences, stage tables, pools or the prefetch mode, leaves the queue and its batch, and changes
nothing else; FREE and TRUNC return the blocks of the entries they remove to the tenancy's pool. Which free block is taken, that MAP2
puts the only entry of its global block on the die that runs it and removes every other die's, and that SETTIER gives the old block back
to the pool, are the model's choices (entry 15), as are that an LCTL acts in one step, SETTIER copying its block's memory at once (entry
27), and whether another node says that a block of its own is another tenancy's (entry 40). -/
def Obligations.LanternControl : Prop :=
  (∀ (d : Nat) (s : State) (c : LanternCmd) (w : Warp), isControl 0 c = true → LanternReady s d c w → field c.record 10 1 = 0 →
    (dieAt s 0).seq c.ten (recSeq .control c.record) = none → (dieAt s 1).seq c.ten (recSeq .control c.record) = none →
    ∃ t q, exec (.lctlCreate d c.id) s = .next t ∧ LanternDone s t d c w
      ∧ (dieAt t d).seq c.ten (recSeq .control c.record) = some q ∧ q.layers = field c.record 8 1 + 1
      ∧ q.heads = field c.record 9 1 + 1 ∧ q.e4m3 = false ∧ q.home = d ∧ q.lens = []
      ∧ OneSeq (dieAt s d) (dieAt t d) c.ten (recSeq .control c.record)
      ∧ dieAt t d = { dieAt s d with cmds := (dieAt t d).cmds, seqs := (dieAt t d).seqs } ∧ OneDie s t d)
  ∧ (∀ (d : Nat) (s : State) (c : LanternCmd) (w : Warp) (q : LanternSeq), isControl 1 c = true → LanternReady s d c w →
    (dieAt s d).seq c.ten (recSeq .control c.record) = some q → 0 < q.layers → 0 < q.heads →
    ∃ t, exec (.lctlFree d c.id) s = .next t ∧ LanternDone s t d c w
      ∧ (dieAt t d).seq c.ten (recSeq .control c.record) = none ∧ OneSeq (dieAt s d) (dieAt t d) c.ten (recSeq .control c.record)
      ∧ Freed s t d c.ten fun e => decide (e.ten = c.ten) && decide (e.seq = recSeq .control c.record))
  ∧ (∀ (d n l : Nat) (s : State) (c : LanternCmd) (w : Warp) (q : LanternSeq), isControl 2 c = true → LanternReady s d c w →
    (dieAt s d).seq c.ten (recSeq .control c.record) = some q → field c.record 8 1 < q.layers → field c.record 9 1 < q.heads →
    n = field c.record 12 4 → l = field c.record 8 1 * 128 + field c.record 9 1 → n ≤ tgetD q.lens l 0 →
    ∃ t, exec (.lctlTrunc d c.id) s = .next t ∧ LanternDone s t d c w
      ∧ (dieAt t d).seq c.ten q.id = some { q with lens := tset q.lens l n } ∧ OneSeq (dieAt s d) (dieAt t d) c.ten q.id
      ∧ Freed s t d c.ten fun e => decide (e.ten = c.ten) && decide (e.seq = q.id) && decide (e.layer = field c.record 8 1)
          && decide (e.head = field c.record 9 1) && decide (n ≤ 256 * e.block))
  ∧ (∀ (d : Nat) (s : State) (c : LanternCmd) (w : Warp) (q : LanternSeq) (e : Stage1), isControl 3 c = true → LanternReady s d c w →
    (dieAt s d).seq c.ten (recSeq .control c.record) = some q → field c.record 8 1 < q.layers → field c.record 9 1 < q.heads →
    e = { ten := c.ten, seq := q.id, layer := field c.record 8 1, head := field c.record 9 1, block := field c.record 12 4
          node := field c.record 16 2, tier := field c.record 18 1, global := field c.record 20 4 } →
    (field c.record 1 1 = 0 → e.global < globalBlocks → foreignAt s c.ten e.node e.global = false →
      ∃ t, exec (.lctlMap1 d c.id) s = .next t ∧ LanternDone s t d c w ∧ OneDie s t d
        ∧ dieAt t d = { dieAt s d with
            cmds := (dieAt t d).cmds, stage1 := (dieAt s d).stage1.filter (fun y => !names c q y) ++ [e] })
    ∧ (field c.record 1 1 = 1 →
      (∀ y ∈ (dieAt s d).stage1, names c q y = true → foreignAt s c.ten y.node y.global = false) →
      ∃ t, exec (.lctlUnmap1 d c.id) s = .next t ∧ LanternDone s t d c w ∧ OneDie s t d
        ∧ dieAt t d = { dieAt s d with cmds := (dieAt t d).cmds, stage1 := (dieAt s d).stage1.filter fun y => !names c q y }))
  ∧ (∀ (d g tier phys : Nat) (s : State) (c : LanternCmd) (w : Warp), isControl 4 c = true → LanternReady s d c w →
    g = field c.record 8 4 → tier = field c.record 12 1 → phys = field c.record 16 4 → g < globalBlocks → phys < tierBlocks tier →
    foreign s c.ten g = false → physForeign s d c.ten tier phys = false →
    ∃ t, exec (.lctlMap2 d c.id) s = .next t ∧ LanternDone s t d c w
      ∧ dieAt t d = { dieAt s d with
          cmds := (dieAt t d).cmds
          stage2 := (dieAt s d).stage2.filter (fun e => decide (e.global ≠ g))
            ++ [{ global := g, tier := tier, phys := phys, ten := c.ten }]
          pool := (dieAt s d).pool.filter fun p => !(decide (p.tier = tier) && decide (p.phys = phys)) }
      ∧ (∀ e, e ≠ d → dieAt t e = { dieAt s e with stage2 := (dieAt s e).stage2.filter fun y => decide (y.global ≠ g) })
      ∧ t = { s with warps := t.warps, lanterns := t.lanterns })
  ∧ (∀ (d tier first n : Nat) (s : State) (c : LanternCmd) (w : Warp), isControl 5 c = true → LanternReady s d c w →
    tier = field c.record 9 1 → first = field c.record 12 4 → n = field c.record 16 4 → first + n ≤ tierBlocks tier →
    (∀ i, i < n → physForeign s d c.ten tier (first + i) = false) →
    ∃ t, exec (.lctlPool d c.id) s = .next t ∧ LanternDone s t d c w ∧ OneDie s t d
      ∧ (∀ p, p ∈ (dieAt t d).pool ↔ p ∈ (dieAt s d).pool
          ∨ (p.ten = c.ten ∧ p.tier = tier ∧ first ≤ p.phys ∧ p.phys < first + n
            ∧ (∀ x ∈ (dieAt s d).pool, ¬ (x.tier = tier ∧ x.phys = p.phys))
            ∧ ∀ x ∈ (dieAt s d).stage2, ¬ (x.tier = tier ∧ x.phys = p.phys)))
      ∧ dieAt t d = { dieAt s d with cmds := (dieAt t d).cmds, pool := (dieAt t d).pool })
  ∧ (∀ (d g tier : Nat) (s : State) (c : LanternCmd) (w : Warp) (e : Stage2) (p : PoolBlock), isControl 6 c = true →
    LanternReady s d c w → g = field c.record 8 4 → tier = field c.record 12 1 → g < globalBlocks → foreign s c.ten g = false →
    (dieAt s d).stage2.find? (fun e => decide (e.global = g)) = some e → e.tier ≠ tier →
    (dieAt s d).pool.find? (fun p => decide (p.ten = c.ten) && decide (p.tier = tier)) = some p →
    ∃ t u, exec (.lctlSettier d c.id) s = .next t ∧ LanternDone s t d c w
      ∧ u = markBytes (writeBytes s none (lanternLoc d tier (p.phys * 131072))
          (memBytes s.mem (lanternLoc d e.tier (e.phys * 131072)) 131072))
          (lanternLoc d tier (p.phys * 131072)) (marksOf s (lanternLoc d e.tier (e.phys * 131072)) 131072)
      ∧ dieAt t d = { dieAt s d with
          cmds := (dieAt t d).cmds
          stage2 := (dieAt s d).stage2.map fun y => if y.global = g then { y with tier := tier, phys := p.phys } else y
          pool := (dieAt s d).pool.erase p ++ [{ ten := c.ten, tier := e.tier, phys := e.phys }] }
      ∧ OneDie u t d)
  ∧ ∀ (d : Nat) (s : State) (c : LanternCmd) (w : Warp), isControl 7 c = true → LanternReady s d c w →
    ∃ t, exec (.lctlPfmode d c.id) s = .next t ∧ LanternDone s t d c w ∧ OneDie s t d
      ∧ dieAt t d = { dieAt s d with mode := field c.record 9 1, cmds := (dieAt t d).cmds }

/-! The outside world. -/

/-- DBELL, REPLAY, FRCONS, TRCONS, NRCONS and CONTROL_REGISTER_WRITE (R141, R143, R241, R243, R247, R388): a doorbell gives a queue its
write index; a REPLAY lets everything go on whose record it covers: splits at their words, lanes of accesses, which are translated again,
Kiln and Lantern commands, casks and their releases, queues, pre-emptions and completion words; a consumer index within the ring is taken,
and one beyond it changes nothing; a register of the control page takes a value in its range, THRESH its low 16 bits. The ASID in which a
completion word made again is stored (`tenAsid`) is the model's choice (entry 12). -/
def Obligations.ControlPages : Prop :=
  (∀ (n q : Nat) (v : DWord) (s : State) (x : Queue), queueAt s n q = some x →
    ∃ t, exec (.dbell n q v) s = .next t ∧ queueAt t n q = some { x with wr := v.toNat }
      ∧ (∀ m p, (m, p) ≠ (n, q) → queueAt t m p = queueAt s m p) ∧ t = { s with tenancies := t.tenancies })
  ∧ (∀ (n : Nat) (v : Word) (f : FaultRef), (Again.upTo n v).covers f = true ↔ f.ten = n ∧ (v - f.seq).toNat < 2 ^ 31)
  ∧ (∀ (n : Nat) (v : Word) (s : State), ∃ t, exec (.replay n v) s = .next t ∧ MadeAgain (.upTo n v) s t)
  ∧ (∀ (n : Nat) (v : Word) (s u u1 : State) (c : Completion) (tn : Tenancy) (x : Queue) (cs : List Chunk) (pr : FaultRef → Bool),
    pr = (Again.upTo n v).covers → s.warps = [] → s.cpls = [c] → c.faults.any pr = true → tenAt s c.ten = some tn →
    queueAt s c.ten c.queue = some x → x.unloads = [] → c.va ≠ 0 → c.va.toNat % 8 = 0 →
    u = { replayCasks (replayLanterns (replayKilns s pr) pr) pr with cpls := [] } →
    storeNow u (queueReq u c.ten c.queue (tenAsid tn) .store) c.va (leBytes 4 c.status ++ leBytes 4 c.result.toNat) = .ok (cs, u1) →
    ∃ t y, exec (.replay n v) s = .next t ∧ t.mem = u1.mem ∧ t.cpls = [] ∧ queueAt t c.ten c.queue = some y
      ∧ y.live = x.live.filter fun i => decide (i ≠ c.index))
  ∧ (∀ (n : Nat) (v : Word) (s : State) (tn : Tenancy) (i : Instr) (rk : RingKind), tenAt s n = some tn →
    i = (match rk with
      | .fault => .frcons n v
      | .trap => .trcons n v
      | .notif => .nrcons n v) →
    (2 ^ (ringOf tn rk).log < ((ringOf tn rk).prod - v).toNat → exec i s = .next s)
    ∧ (((ringOf tn rk).prod - v).toNat ≤ 2 ^ (ringOf tn rk).log → (ringOf tn rk).waiting = [] →
      ∃ t tn', exec i s = .next t ∧ tenAt t n = some tn' ∧ ringOf tn' rk = { ringOf tn rk with cons := v }
        ∧ tn' = setRing tn rk (ringOf tn' rk) ∧ (∀ m, m ≠ n → tenAt t m = tenAt s m) ∧ t = { s with tenancies := t.tenancies }))
  ∧ (∀ (v : DWord) (s : State), ∃ t, exec (.controlRegisterWrite .dtbase v) s = .next t ∧ t = { s with dtbase := t.dtbase }
    ∧ ∀ b, t.dtbase.getLsbD b = (decide (12 ≤ b) && v.getLsbD b))
  ∧ (∀ (v : DWord) (s : State), exec (.controlRegisterWrite .tavoid v) s
      = .next { s with tavoid := if 60 ≤ v.toNat ∧ v.toNat ≤ 110 then v.toNat else s.tavoid })
  ∧ (∀ (v : DWord) (s : State), exec (.controlRegisterWrite .gidle v) s
      = .next { s with gidle := if 1 ≤ v.toNat ∧ v.toNat ≤ 65535 then v.toNat else s.gidle })
  ∧ ∀ (n : Nat) (v : DWord) (s : State) (tn : Tenancy), tenAt s n = some tn →
    ∃ t, exec (.controlRegisterWrite (.thresh n) v) s = .next t
      ∧ tenAt t n = some { tn with thresh := v.toNat % 65536 }
      ∧ (∀ m, m ≠ n → tenAt t m = tenAt s m) ∧ t = { s with tenancies := t.tenancies }

/-- LAUNCH, LOAD, UNLOAD, PREEMPT, RESUME, SIGNAL and BARRIER at the head of a queue, and CONTEXT_SAVE (R234 to R236, R244, R248, R249, R251
to R255): a sound launch of a kernel of a handle is taken in with its arguments; a code object gets a handle with one reference; an UNLOAD
gives one up and completes; what a packet reads in the slice of a gated core it reads once that core, woken, runs (R258); a PREEMPT drains
its workgroup, whose record is kept once it has drained; a RESUME puts a record back; a SIGNAL stores its value; a BARRIER with nothing
before it completes. A completion stores status and result at CPL. How a blob is loaded, the context records, the translation of what a
packet names, that a workgroup saved with no queue to resume it waits at the distributor, that its restored splits wait for no room in the
pool, and the widths of packet fields are the model's choices (entries 12, 16, 18, 19, 37 and 44). -/
def Obligations.Packets : Prop :=
  (∀ (n q i : Nat) (b args : List Byte) (s u u1 : State) (p : Pk) (h : Handle) (k : Kernel) (l : Launch), Taken .launch s n q i b u →
    p = { ten := n, q := q, i := i, cpl := cplOf b, b := b } → tget u.handles (field b 8 4) = some h → holdsRef h n q = true →
    tget h.kernels (field b 12 4) = some k → launchSound u (launchOf p h k) (field b 30 2) = true → couldHold k = true →
    (∃ tn, tenAt u n = some tn ∧ tn.coreSet ≠ []) →
    readRange u (queueReq u n q (field b 28 2) .load) (BitVec.ofNat 64 (field b 32 8)) (field b 30 2) = .ok (args, u1) →
    asleep u (slicesOf u (queueReq u n q (field b 28 2) .load) (BitVec.ofNat 64 (field b 32 8)) (field b 30 2)) = false →
    l = { launchOf p h k with args := args } → waitsFull u1 l = true ∨ eligible u1 l ≠ [] →
    ∃ t, exec (.launch n q) s = .next t ∧ tget t.launches u1.nextId = some l ∧ l.next = 0 ∧ l.retired = 0 ∧ l.args = args
      ∧ l.entry = h.cb + BitVec.ofNat 64 k.entry ∧ l.total = field b 16 4 * field b 20 4 * field b 24 4
      ∧ (∀ m, m ≠ u1.nextId → tget t.launches m = tget s.launches m) ∧ t.warps = s.warps
      ∧ t = { u1 with launches := t.launches, nextId := t.nextId })
  ∧ (∀ (n q i : Nat) (b obj : List Byte) (s u u1 u2 : State) (h : Handle) (tn tn1 : Tenancy), Taken .load s n q i b u → field b 24 4 = 0 →
    tenAt u n = some tn → tenAt u1 n = some tn1 →
    readRange u (queueReq u n q (tenAsid tn) .load) (BitVec.ofNat 64 (field b 8 8)) (field b 16 8) = .ok (obj, u1) →
    asleep u (slicesOf u (queueReq u n q (tenAsid tn) .load) (BitVec.ofNat 64 (field b 8 8)) (field b 16 8)) = false →
    loadObject obj (BitVec.ofNat 64 (field b 8 8)) n = .ok h →
    writeRanges (queueReq u1 n q (tenAsid tn1) .store)
      (h.binds.map fun o => (h.cb + BitVec.ofNat 64 o, List.replicate 16 (0xFF : Byte))) u1 = .ok u2 →
    exec (.load n q) s = .next (complete
      { u2 with handles := tset u2.handles (freshHandle u2) { h with refs := [n * 16 + q] } } n q i (cplOf b) .done
      (BitVec.ofNat 32 (freshHandle u2))))
  ∧ (∀ (n q i : Nat) (b : List Byte) (s u : State) (r : List Byte × State) (tn : Tenancy) (cs : List Nat), Taken .load s n q i b u →
    field b 24 4 = 0 → tenAt u n = some tn →
    readRange u (queueReq u n q (tenAsid tn) .load) (BitVec.ofNat 64 (field b 8 8)) (field b 16 8) = .ok r →
    cs = slicesOf u (queueReq u n q (tenAsid tn) .load) (BitVec.ofNat 64 (field b 8 8)) (field b 16 8) → asleep u cs = true →
    exec (.load n q) s = .next (wakeAll s cs))
  ∧ (∀ (n q i m : Nat) (b : List Byte) (s u : State) (h : Handle), Taken .load s n q i b u → m = field b 24 4 → m ≠ 0 →
    tget u.handles m = some h → h.ten = n →
    exec (.load n q) s = .next (complete { u with handles := tset u.handles m { h with refs := h.refs ++ [n * 16 + q] } } n q i
      (cplOf b) .done (BitVec.ofNat 32 m)))
  ∧ (∀ (n q i m : Nat) (b : List Byte) (s u : State) (h : Handle), Taken .unload s n q i b u → m = field b 8 4 →
    tget u.handles m = some h → holdsRef h n q = true → launchBefore u n q i = false → cplOf b = 0 →
    ∃ t, exec (.unload n q) s = .next t
      ∧ t.handles = (tset u.handles m { h with refs := h.refs.erase (n * 16 + q) }).filter fun e =>
          !e.2.refs.isEmpty || t.launches.any fun l => decide (l.2.handle = e.1))
  ∧ (∀ (n q m : Nat) (b : List Byte) (s : State) (x : Queue) (h : Handle), headOf s n q = some (x, b) → packetKind b = .unload →
    packetSound .unload b = true → m = field b 8 4 → tget s.handles m = some h →
    h.ten ≠ n ∨ h.refs.count (n * 16 + q) ≤ (x.unloads.filter fun e => decide (e.2.1 = m)).length →
    exec (.unload n q) s = .next (complete (takePacket s n q) n q x.rd (cplOf b) .noRef 0))
  ∧ (∀ (n q i g : Nat) (b : List Byte) (s u : State) (x : Workgroup), Taken .preempt s n q i b u →
    findWg u n (field b 8 4) (field b 12 4) = some g → wgAt u g = some x →
    ∃ t, exec (.preempt n q) s = .next t ∧ wgAt t g = some { x with draining := true }
      ∧ t.preempts = s.preempts ++ [{ wg := g, ten := n, queue := some q, index := i, cpl := cplOf b
                                      area := BitVec.ofNat 64 (field b 16 8), size := field b 24 8, faults := [] }]
      ∧ t.warps = s.warps)
  ∧ (∀ (s : State) (p : Preemption) (g : Workgroup), s.preempts.find? (fun x => decide (x.wg = p.wg)) = some p →
    (∀ x ∈ s.preempts, x.wg = p.wg → x.queue = none) → saveReady s p = true → wgAt s p.wg = some g → p.queue = none →
    (coreAt s g.core).brewWait = [] →
    ∃ t x, exec (.contextSave p.wg) s = .next t ∧ t.ctxs = s.ctxs ++ [x] ∧ SavedAs s p g x ∧ x.waiting = true ∧ wgAt t p.wg = none
      ∧ (∀ k v, warpAt t k = some v → v.wg ≠ p.wg) ∧ (∀ k v, warpAt s k = some v → v.wg ≠ p.wg → warpAt t k = some v)
      ∧ t.mem = (placeForSave s p.wg g).mem)
  ∧ (∀ (n q : Nat) (s s1 : State) (p : Preemption) (g : Workgroup) (tn : Tenancy),
    s.preempts.find? (fun x => decide (x.wg = p.wg) && x.queue.isSome) = some p → saveReady s p = true → wgAt s p.wg = some g →
    p.queue = some q →
    (coreAt s g.core).brewWait = [] → tenAt s p.ten = some tn → s1 = placeForSave s p.wg g →
    ∃ x, SavedAs s p g x ∧ x.waiting = false ∧ (n = choose s1 0 (recordBound x + 1) →
      n ≤ recordBound x
      ∧ (p.size < n → ∃ t u, exec (.contextSave p.wg) s = .next t ∧ t = complete u p.ten q p.index p.cpl .badPkt 0
          ∧ wgAt u p.wg = some { g with draining := (s.preempts.erase p).any fun y => decide (y.wg = p.wg) }
          ∧ u.warps = s.warps ∧ u.ctxs = s.ctxs ∧ u.mem = s1.mem)
      ∧ ∀ s2, n ≤ p.size → writeRange { s1 with fresh := s1.fresh + 1 } (queueReq s1 p.ten q (tenAsid tn) .store) p.area
          ((List.range n).map fun j => Config.freeData s1.fresh j) = .ok s2 →
        ∃ t u, exec (.contextSave p.wg) s = .next t ∧ t = complete u p.ten q p.index p.cpl .done (BitVec.ofNat 32 n)
          ∧ u.ctxs = (s.ctxs.filter fun y => !(decide (y.va = p.area) && decide (y.ten = p.ten))) ++ [x] ∧ wgAt u p.wg = none
          ∧ (∀ k v, warpAt u k = some v → v.wg ≠ p.wg) ∧ (∀ k v, warpAt s k = some v → v.wg ≠ p.wg → warpAt u k = some v)
          ∧ u.mem = s2.mem))
  ∧ (∀ (n q i c : Nat) (b : List Byte) (s u : State) (x : Context) (slots : List Nat), Taken .resume s n q i b u →
    u.ctxs.find? (fun x => decide (x.ten = n) && !x.waiting && decide (x.va.toNat = field b 8 8)) = some x → restoreCore u x = some c →
    Returns u x c slots →
    ∃ t u1, exec (.resume n q) s = .next t ∧ t = complete u1 n q i (cplOf b) .done 0 ∧ Restored u u1 x c slots)
  ∧ (∀ (n q i : Nat) (b : List Byte) (s u u1 : State) (tn : Tenancy), Taken .signal s n q i b u → tenAt u n = some tn →
    field b 8 8 % 8 = 0 →
    writeRange u (queueReq u n q (tenAsid tn) .store) (BitVec.ofNat 64 (field b 8 8)) ((b.drop 16).take 8) = .ok u1 →
    exec (.signal n q) s = .next (complete u1 n q i (cplOf b) .done 0))
  ∧ (∀ (n q i : Nat) (b : List Byte) (s u : State) (x : Queue), Taken .barrier s n q i b u → queueAt s n q = some x → x.live = [] →
    exec (.barrier n q) s = .next (complete u n q i (cplOf b) .done 0))
  ∧ ∀ (n q i : Nat) (va : DWord) (st : Status) (r : Word) (u : State) (tn : Tenancy) (x : Queue), tenAt u n = some tn →
    queueAt u n q = some x → x.unloads = [] →
    (va = 0 ∨ va.toNat % 8 ≠ 0 → (complete u n q i va st r).mem = u.mem ∧ Completed u (complete u n q i va st r) n q i x)
    ∧ (∀ cs u1, va ≠ 0 → va.toNat % 8 = 0 →
      storeNow u (queueReq u n q (tenAsid tn) .store) va (leBytes 4 st.code ++ leBytes 4 r.toNat) = .ok (cs, u1) →
      (complete u n q i va st r).mem = u1.mem ∧ Completed u (complete u n q i va st r) n q i x)
    ∧ ∀ fs, va ≠ 0 → va.toNat % 8 = 0 →
      storeNow u (queueReq u n q (tenAsid tn) .store) va (leBytes 4 st.code ++ leBytes 4 r.toNat) = .error (.faults fs) →
      ∃ c y, (complete u n q i va st r).cpls = u.cpls ++ [c] ∧ c.ten = n ∧ c.queue = q ∧ c.index = i ∧ c.va = va ∧ c.status = st.code
        ∧ c.result = r ∧ c.faults.length = fs.length ∧ queueAt (complete u n q i va st r) n q = some y ∧ y.live = x.live
        ∧ (complete u n q i va st r).warps = u.warps

/-- TRAPRES, KILL, CASK, MIGRATE, INVAL and TENCFG at the head of a service queue, and MIGRATION_COPY (R144, R145, R212, R230, R233, R245,
R246): a TRAPRES resumes the parked warp from its record; a KILL stops the whole workgroup; a descriptor replaces an empty cask; a MIGRATE
marks the entry, and its copy moves the page and installs the new entry; an INVAL removes translations; a TENCFG sets what its flags name.
The layout of a migration command, the translation of what a packet names and the widths of packet fields are the model's choices
(entries 12, 17 and 44). -/
def Obligations.ServicePackets : Prop :=
  (∀ (n q i k : Nat) (b : List Byte) (s u : State) (w : Warp) (sp : Split), Taken .trapres s n q i b u →
    parkedOnTrap u n (field b 16 4) (BitVec.ofNat 32 (field b 20 4)) = some (k, w) → warpAt u k = some w →
    tget w.splits w.parkSplit = some sp → (wgAt u w.wg).isSome = true → w.s.length = 64 → cplOf b = 0 → running u (coreOfSlot k) = true →
    BitVec.ofNat 64 (field w.frame 40 8) &&& ~~~(otherLanes w w.parkSplit) &&& ~~~w.exited ≠ 0 →
    ∃ t w' sp', exec (.trapres n q) s = .next t ∧ warpAt t k = some w' ∧ tget w'.splits w.parkSplit = some sp' ∧ w'.park = none
      ∧ sp'.pc = BitVec.ofNat 64 (if field b 24 1 = 1 then field w.frame 8 8 else field w.frame 16 8)
      ∧ sp'.mask = BitVec.ofNat 64 (field w.frame 40 8) &&& ~~~(otherLanes w w.parkSplit) &&& ~~~w.exited
      ∧ w'.mode = BitVec.ofNat 16 (field w.frame 2 2) &&& 0xFFFC ∧ w'.service = (field w.frame 1 1).testBit 7
      ∧ sp'.resumeAt = some (BitVec.ofNat 64 (field w.frame 24 8)) ∧ sp'.park = .running ∧ w'.s.getD 0 0 = BitVec.ofNat 32 (field w.frame 48 4)
      ∧ w'.s.getD 1 0 = BitVec.ofNat 32 (field w.frame 52 4) ∧ SameScalars w w' [0, 1] ∧ w'.v = w.v ∧ w'.p = w.p
      ∧ ∀ j, j ≠ k → warpAt t j = warpAt s j)
  ∧ (∀ (n q i k : Nat) (b : List Byte) (s u : State) (w : Warp) (g : Workgroup), Taken .kill s n q i b u →
    parkedOnTrap u n (field b 16 4) (BitVec.ofNat 32 (field b 20 4)) = some (k, w) → wgAt u w.wg = some g → cplOf b = 0 →
    tableWf u.warps = true → running u (coreOfSlot k) = true →
    ∃ t, exec (.kill n q) s = .next t ∧ wgAt t w.wg = some { g with killed := true, draining := false }
      ∧ (∀ j v, warpAt s j = some v → v.wg = w.wg → ∃ v', warpAt t j = some v' ∧ v'.park = some .exiting)
      ∧ (∀ j v, warpAt s j = some v → v.wg ≠ w.wg → warpAt t j = some v))
  ∧ (∀ (n q i c : Nat) (b d : List Byte) (s u u1 : State) (tn : Tenancy), Taken .cask s n q i b u → tenAt u n = some tn →
    c = field b 16 4 → c < 768 → c / 4 ∈ tn.coreSet → running u (c / 4) = true →
    readRange u (queueReq u n q (tenAsid tn) .load) (BitVec.ofNat 64 (field b 24 8)) 16 = .ok (d, u1) → caskSound d = true →
    asleep u (slicesOf u (queueReq u n q (tenAsid tn) .load) (BitVec.ofNat 64 (field b 24 8)) 16) = false →
    (caskAt u1 c).recs = [] → (caskAt u1 c).spilled = 0 → caskQuiet u1 c → cplOf b = 0 →
    ∃ t, exec (.cask n q) s = .next t
      ∧ caskAt t c = { en := (field d 14 1).testBit 0, pri := (field d 14 1).testBit 1, spill := BitVec.ofNat 64 (field d 0 8)
                       scap := field d 8 4, asid := field d 12 2, ten := n, recs := [], head := 0, spilled := 0, faults := [] }
      ∧ ∀ e, e ≠ c → caskAt t e = caskAt s e)
  ∧ (∀ (n q i : Nat) (b d : List Byte) (s u u1 : State) (tn : Tenancy) (l : Leaf) (old : DWord), Taken .migrate s n q i b u →
    tenAt u n = some tn → readRange u (queueReq u n q (tenAsid tn) .load) (BitVec.ofNat 64 (field b 16 8)) 40 = .ok (d, u1) →
    asleep u (slicesOf u (queueReq u n q (tenAsid tn) .load) (BitVec.ofNat 64 (field b 16 8)) 40) = false →
    migrateSound d = true → (descriptor u1 (field d 0 2)).ten = n → leafOf u1 (field d 0 2) (field d 8 8) = some l →
    old = BitVec.ofNat 64 (field d 16 8) &&& ~~~(0x900 : DWord) → l.pte = old → MemInv u1 →
    ∃ t m, exec (.migrate n q) s = .next t ∧ tget t.migs u1.nextId = some m ∧ m.queue = q ∧ m.index = i ∧ m.expected = old
      ∧ m.newPte = BitVec.ofNat 64 (field d 24 8) ∧ memNat t.mem l.loc 8 = (old ||| 0x800).toNat
      ∧ (∀ a, (a < l.loc ∨ l.loc + 8 ≤ a) → memByte t.mem a = memByte u1.mem a) ∧ t.warps = s.warps)
  ∧ (∀ (m new : Nat) (s : State) (x : Migration), Copies s m x new →
    BitVec.ofNat 64 (memNat s.mem x.pteLoc 8) ≠ (x.expected &&& ~~~(0x900 : DWord)) ||| 0x800 →
    ∃ t u, exec (.migrationCopy m) s = .next t ∧ t = complete u x.ten x.queue x.index x.cpl .changed 0 ∧ tget u.migs m = none
      ∧ u.warps = s.warps
      ∧ (∀ a, memByte u.mem a = if new ≤ a ∧ a < new + 2 ^ x.log then (oldPage s x).getD (a - new) 0 else memByte s.mem a)
      ∧ (x.cpl = 0 → ∀ y, queueAt s x.ten x.queue = some y → y.unloads = [] → t.mem = u.mem))
  ∧ (∀ (m new : Nat) (s : State) (x : Migration), Copies s m x new →
    BitVec.ofNat 64 (memNat s.mem x.pteLoc 8) = (x.expected &&& ~~~(0x900 : DWord)) ||| 0x800 →
    ∃ t v u, exec (.migrationCopy m) s = .next t ∧ t = complete u x.ten x.queue x.index x.cpl .done 0 ∧ tget u.migs m = none
      ∧ (∀ a, memByte v.mem a = if x.pteLoc ≤ a ∧ a < x.pteLoc + 8 then
            (leBytes 8 (x.newPte &&& ~~~(0x800 : DWord)).toNat).getD (a - x.pteLoc) 0
          else if new ≤ a ∧ a < new + 2 ^ x.log then (oldPage s x).getD (a - new) 0 else memByte s.mem a)
      ∧ CachesLose s v x.asid (some (x.va.toNat / 2 ^ x.log * 2 ^ x.log, 2 ^ x.log)) ∧ v.warps = s.warps
      ∧ v = { s with mem := v.mem, poison := v.poison, sectorKeys := v.sectorKeys, cores := v.cores, migs := v.migs }
      ∧ MadeAgain (.page x.asid (x.va.toNat / 2 ^ x.log * 2 ^ x.log) x.log) v u
      ∧ (x.cpl = 0 → ∀ y, queueAt s x.ten x.queue = some y → y.unloads = [] → t.mem = u.mem))
  ∧ (∀ (asid va log : Nat) (f : FaultRef), (Again.page asid va log).covers f = true
    ↔ f.cause = .migrating ∧ f.asid = asid ∧ f.va.toNat / 2 ^ log = va / 2 ^ log)
  ∧ (∀ (n q i m : Nat) (b : List Byte) (s u : State), Taken .inval s n q i b u → m = field b 32 8 → cplOf b = 0 →
    ∃ t, exec (.inval n q) s = .next t ∧ CachesLose s t (field b 16 2) (if m = 0 then none else some (field b 24 8, m))
      ∧ t.warps = s.warps ∧ t.mem = s.mem)
  ∧ ∀ (n q i fl ra : Nat) (b d : List Byte) (s u u1 : State) (tn : Tenancy), Taken .tencfg s n q i b u →
    readRange u (queueReq u n q (field b 24 2) .load) (BitVec.ofNat 64 (field b 16 8)) 64 = .ok (d, u1) → tenAt u1 n = some tn →
    asleep u (slicesOf u (queueReq u n q (field b 24 2) .load) (BitVec.ofNat 64 (field b 16 8)) 64) = false →
    fl = field d 35 1 → ra = field d 36 2 → fl < 16 → zeroField d 38 26 = true → field d 0 8 % 64 = 0 → (2 ≤ fl → ra ∈ tn.asids) →
    cplOf b = 0 → RingFits u1 n ra fl 1 d 8 32 32 → RingFits u1 n ra fl 2 d 16 33 64 → RingFits u1 n ra fl 3 d 24 34 16 →
    (RingIdle fl 1 tn.fault → RingIdle fl 2 tn.trap → RingIdle fl 3 tn.notif →
      ∃ t tn', exec (.tencfg n q) s = .next t ∧ tenAt t n = some tn'
        ∧ tn' = { tn with
            tvb := if fl.testBit 0 then BitVec.ofNat 64 (field d 0 8) else tn.tvb
            fault := ringSet fl 1 (field d 8 8) (field d 32 1) ra tn.fault, trap := ringSet fl 2 (field d 16 8) (field d 33 1) ra tn.trap
            notif := ringSet fl 3 (field d 24 8) (field d 34 1) ra tn.notif, queues := tn'.queues })
    ∧ (¬ (RingIdle fl 1 tn.fault ∧ RingIdle fl 2 tn.trap ∧ RingIdle fl 3 tn.notif) →
      exec (.tencfg n q) s = .next (complete u1 n q i 0 .busy 0))

/-- TENANCY_CREATE, TENANCY_RESET, CORE_SET_JOIN, FRAME_ASSIGN and KEY_SLOT_LOAD (R140, R146, R147, R212, R215, R230, R231, R240, R250): a
tenancy starts with TVB and sequences 0, without rings; a core that joins a core set has its slice, files, casks and counters zeroed; a
reset stops the queues and ends every warp and translation of the tenancy; a frame given to another tenancy is zeroed. What a reset does
with accesses outstanding is the model's choice (entry 24), and so is THRESH 0 at creation, for which no rule gives a value (entry 3). -/
def Obligations.Tenancies : Prop :=
  (∀ (cfg : TenancySpec) (s : State), specSound cfg = true → tenAt s cfg.id = none → cfg.coreSet.Nodup →
    (∀ c ∈ cfg.coreSet, c < 192 ∧ coreBusy s c = false) →
    ∃ t tn, exec (.tenancyCreate cfg) s = .next t ∧ tenAt t cfg.id = some tn ∧ tn.tvb = 0 ∧ tn.fseq = 0 ∧ tn.tseq = 0 ∧ tn.thresh = 0
      ∧ tn.coreSet = cfg.coreSet ∧ tn.asids = cfg.asids ∧ tn.keys = cfg.keys ∧ tn.stopped = false
      ∧ (∀ rk, (ringOf tn rk).log = 0 ∧ (ringOf tn rk).prod = 0 ∧ (ringOf tn rk).cons = 0 ∧ (ringOf tn rk).waiting = [])
      ∧ (∀ x ∈ cfg.queues, tget tn.queues x.id = some { spec := x, wr := 0, rd := 0, live := [], unloads := [], held := none, served := 0 })
      ∧ (∀ m, m ≠ cfg.id → tenAt t m = (tenAt s m).map fun y =>
          { y with coreSet := y.coreSet.filter fun c => !cfg.coreSet.contains c })
      ∧ (∀ c ∈ cfg.coreSet, Scrubbed t c ∧ (coreAt t c).ten = some cfg.id) ∧ (∀ c, c ∉ cfg.coreSet → coreAt t c = coreAt s c)
      ∧ (∀ a, (∀ c ∈ cfg.coreSet, ¬ (0x100000 * c ≤ a ∧ a < 0x100000 * (c + 1))) → memByte t.mem a = memByte s.mem a)
      ∧ t.warps = s.warps ∧ t.wgs = s.wgs)
  ∧ (∀ (n c : Nat) (s : State) (tn : Tenancy), tenAt s n = some tn → c ∉ tn.coreSet → coreBusy s c = false → c < 192 →
    ∃ t, exec (.coreSetJoin c n) s = .next t ∧ inCoreSet t n c = true ∧ (∀ m, m ≠ n → inCoreSet t m c = false)
      ∧ (∀ a, memByte t.mem a = if 0x100000 * c ≤ a ∧ a < 0x100000 * (c + 1) then 0 else memByte s.mem a)
      ∧ Scrubbed t c ∧ (coreAt t c).ten = some n ∧ (∀ d, d ≠ c → coreAt t d = coreAt s d) ∧ t.warps = s.warps)
  ∧ (∀ (n : Nat) (s : State) (tn : Tenancy), tenAt s n = some tn → (∀ c ∈ tn.coreSet, running s c = true) →
    ∃ t u tn', exec (.tenancyReset n) s = .next t ∧ t = killLaunches u (s.launches.filter fun l => decide (l.2.ten = n))
      ∧ tenAt t n = some tn' ∧ tn'.stopped = true ∧ tn'.resetting = false ∧ tn'.coreSet = tn.coreSet
      ∧ (∀ k w, warpAt t k = some w → w.ten ≠ n) ∧ (∀ k w, warpAt s k = some w → w.ten ≠ n → warpAt t k = some w)
      ∧ (∀ g x, wgAt t g = some x → x.ten ≠ n) ∧ (∀ x ∈ t.ctxs, x.ten ≠ n) ∧ (∀ x ∈ t.preempts, x.ten ≠ n) ∧ (∀ r ∈ t.reds, r.ten ≠ n)
      ∧ (∀ e ∈ t.migs, e.2.ten ≠ n) ∧ (∀ c ∈ u.cpls, c.ten ≠ n) ∧ u.launches = s.launches
      ∧ (∀ e ∈ t.launches, e ∈ s.launches
        ∧ (e.2.ten = n → ∃ c ∈ t.cpls, c.ten = n ∧ c.queue = e.2.queue ∧ c.index = e.2.index ∧ c.status = 8))
      ∧ (∀ a ∈ tn.asids, ∀ c, (∀ e ∈ (coreAt t c).tlb, e.asid ≠ a) ∧ ∀ e ∈ (coreAt t c).walks, e.asid ≠ a)
      ∧ ∀ c ∈ tn.coreSet, Scrubbed u c ∧ (∀ l, l < 4 → caskAt t (4 * c + l) = Cask.empty)
          ∧ ∀ l, l < 256 → counterAt t (256 * c + l) = Counter.empty)
  ∧ (∀ (u : State) (k : Nat) (l : Launch) (r : List (Nat × Launch)), killLaunches u [] = u
    ∧ killLaunches u ((k, l) :: r) = killLaunches (complete u l.ten l.queue l.index l.cpl .killed 0) r)
  ∧ (∀ (n c : Nat) (s : State) (tn : Tenancy), tenAt s n = some tn → c ∈ tn.coreSet → running s c = false →
    ∃ t tn', exec (.tenancyReset n) s = .next t ∧ tenAt t n = some tn' ∧ tn'.stopped = true ∧ tn'.resetting = true
      ∧ t.warps = s.warps ∧ t.launches = s.launches ∧ t.mem = s.mem
      ∧ ∀ d ∈ tn.coreSet, running t d = true ∨ (coreAt t d).wakeAt.isSome = true)
  ∧ (∀ (kd : FrameKind) (f n : Nat) (s : State), tget s.frameOwner (frameKey kd f) ≠ some n →
    ∃ t, exec (.frameAssign kd f n) s = .next t ∧ tget t.frameOwner (frameKey kd f) = some n
      ∧ (∀ a, memByte t.mem a = if frameLoc kd (4096 * f) ≤ a ∧ a < frameLoc kd (4096 * f) + 4096 then 0 else memByte s.mem a)
      ∧ t = { s with mem := t.mem, poison := t.poison, sectorKeys := t.sectorKeys, reds := t.reds, frameOwner := t.frameOwner })
  ∧ ∀ (k n g : Nat) (s : State), k < 512 →
    ∃ t, exec (.keySlotLoad k n g) s = .next t ∧ tget t.keySlots k = some { ten := n, gen := g }
      ∧ (∀ j, j ≠ k → tget t.keySlots j = tget s.keySlots j) ∧ t = { s with keySlots := t.keySlots }

/-- HOST_CXL_MEM_ACCESS, HOME_NODE_REMOTE_REQUEST, UNCORRECTABLE_SOFT_ERROR, PACKAGE_RESET and LEVEL_ADVANCE (R146, R161, R176, R229, R239,
R256, R257): the host and other packages read and write the bytes they reach, and get an error otherwise; the marked bytes are
uncorrectable, and a read of them says so; package reset leaves FIRMWARE with nothing resident; the level rises by one. That a reduction
of another package waits at its stack's combiner and is answered when it is applied, that memory outlasts a package reset, with the
reductions applied in it, what an atomic or a reduction does to marked bytes, and that CLK counts from
the start of its core's level (R39 zeroes it at package reset alone), are the model's choices (entries 20, 26 and 23). -/
def Obligations.OutsideAccesses : Prop :=
  (∀ (x : CxlAccess) (s : State), spaceUp s x.space x.addr (if x.write then x.data.length else x.len) = false →
    exec (.hostCxlMemAccess x) s = .next { s with cxlResp := some .error })
  ∧ (∀ (x : CxlAccess) (s : State), x.write = false → spaceUp s x.space x.addr x.len = true →
    (Unmarked s (spaceLoc x.space x.addr) x.len →
      exec (.hostCxlMemAccess x) s = .next { s with cxlResp := some (.data (readBytes s none (spaceLoc x.space x.addr) x.len)) })
    ∧ (¬ Unmarked s (spaceLoc x.space x.addr) x.len → exec (.hostCxlMemAccess x) s = .next { s with cxlResp := some .poison }))
  ∧ (∀ (x : CxlAccess) (s : State), x.write = true → spaceUp s x.space x.addr x.data.length = true → MemInv s →
    UnderKey s none (spaceLoc x.space x.addr) x.data.length →
    ∃ t, exec (.hostCxlMemAccess x) s = .next t ∧ t.cxlResp = some .done ∧ Stored s t (spaceLoc x.space x.addr) x.data
      ∧ t = { s with mem := t.mem, poison := t.poison, cxlResp := t.cxlResp })
  ∧ (∀ (s : State) (n k : Nat) (x : KeySlot), homeKey s n none = some none ∧ (tget s.keySlots k = none → homeKey s n (some k) = none)
    ∧ (tget s.keySlots k = some x → homeKey s n (some k) = if x.ten = n then some (some (k, x.gen)) else none))
  ∧ (∀ (r : RemoteRequest) (s : State),
    homeKey s r.ten r.key = none ∨ s.level < 2 ∨ frameUp s r.kind r.addr (RemoteAct.len r.act) = false →
    exec (.homeNodeRemoteRequest r) s = .next { s with remoteResp := some .error })
  ∧ (∀ (r : RemoteRequest) (s : State) (key : Option (Nat × Nat)) (loc : Nat), homeKey s r.ten r.key = some key → s.level = 2 →
    frameUp s r.kind r.addr (RemoteAct.len r.act) = true → loc = frameLoc r.kind r.addr → MemInv s →
    UnderKey s key loc (RemoteAct.len r.act) →
    ∃ t, exec (.homeNodeRemoteRequest r) s = .next t
      ∧ ((∀ op et v, r.act ≠ .reduce op et v) → t = { s with mem := t.mem, poison := t.poison, remoteResp := t.remoteResp })
      ∧ (∀ n, r.act = .load n → t.mem = s.mem ∧ (Unmarked s loc n → t.remoteResp = some (.data (readBytes s key loc n)))
          ∧ (¬ Unmarked s loc n → t.remoteResp = some .poison))
      ∧ (∀ d, r.act = .store d → Stored s t loc d ∧ t.remoteResp = some .done)
      ∧ (∀ op et a b, r.act = .atomic op et a b → Unmarked s loc 4 →
          Stored s t loc (leBytes 4 (atomWord op et (BitVec.ofNat 32 (leNat (rawBytes s key loc 4))) a b).toNat)
          ∧ t.remoteResp = some (.data (leBytes 4 (leNat (rawBytes s key loc 4)))))
      ∧ (∀ op et a b, r.act = .atomic op et a b → ¬ Unmarked s loc 4 → t.mem = s.mem ∧ t.remoteResp = some .poison)
      ∧ (∀ op et v, r.act = .reduce op et v → r.kind = .hbm → ∃ e, t.reds = s.reds ++ [e] ∧ e.slot = outsideSlot ∧ e.op = op ∧ e.et = et
          ∧ e.val = v ∧ e.xl.loc = loc ∧ e.xl.key = key ∧ e.xl.counter = none ∧ e.ten = r.ten ∧ e.applied = false ∧ e.id = s.nextId
          ∧ t.remoteResp = none ∧ t = { s with reds := t.reds, remoteResp := none, nextId := t.nextId, times := t.times })
      ∧ (∀ op et v, r.act = .reduce op et v → r.kind = .t2 → t = { s with remoteResp := some .error }))
  ∧ (∀ (s : State) (r : Reduction), s.reds.find? (fun e => !e.applied && decide (e.id = r.id)) = some r → firstAt s.reds r = true →
    (spaceOf r.xl.loc = 0 → running s (r.xl.loc / Config.sliceBytes) = true) → warpAt s r.slot = none → r.slot = outsideSlot →
    poisoned s r.xl.loc 4 = true →
    ∃ t, exec (.combinerApply r.id) s = .next t ∧ t.mem = s.mem ∧ t.remoteResp = some .done ∧ t.warps = s.warps
      ∧ ∀ e ∈ t.reds, e ∈ s.reds ∧ (e.applied = true ∨ e.cmd ≠ r.cmd))
  ∧ (∀ (loc len : Nat) (s : State), ∃ t, exec (.uncorrectableSoftError loc len) s = .next t ∧ t = { s with poison := t.poison }
    ∧ ∀ a, a ∈ t.poison ↔ a ∈ s.poison ∨ (loc ≤ a ∧ a < loc + len))
  ∧ (∀ (s : State), ∃ t, exec .packageReset s = .next t ∧ t.level = 0 ∧ t.now = 0 ∧ t.warps = [] ∧ t.wgs = [] ∧ t.launches = []
    ∧ t.tenancies = [] ∧ t.handles = [] ∧ t.cores = [] ∧ t.casks = [] ∧ t.counters = [] ∧ t.tavoid = 95 ∧ t.gidle = 100
    ∧ (∀ c, (coreAt t c).hot = false) ∧ t.mem = (placeReductions s fun r => r.applied).mem
    ∧ ((∀ r ∈ s.reds, r.applied = false) → t.mem = s.mem))
  ∧ ∀ (s : State), ∃ t, exec .levelAdvance s = .next t ∧ t.level = (if s.level < 2 then s.level + 1 else s.level)
    ∧ (s.level = 0 → (∀ c, c < 96 → clkOf t c = 0)) ∧ (s.level = 1 → (∀ c, 96 ≤ c → c < 192 → clkOf t c = 0))
    ∧ t = { s with level := t.level, cores := t.cores }

/-! The machine as a whole. -/

/-- Every well-formed instruction with a word is read back from its bytes, whatever follows them (R4, R40, R70 to R78); every word
encodes to itself once decoded; and a clause header is read back from its word (R45). -/
def Obligations.EncodingsAgree : Prop :=
  (∀ (i : Instr) (rest : List Byte), i.wellFormed = true → encodeWord i ≠ none → decode (encode i ++ rest) = .ok (i, rest))
  ∧ (∀ w : Word, encodeWord (decodeWord w) = some w)
  ∧ ∀ h : Header, decodeHeader (encodeHeader h) = some h

/-- Example words of the manual (R214, R224, R266, R277, R280, R326, R341, R351, R368): each decodes to the instruction written beside
it. -/
def Obligations.ExampleWords : Prop :=
  decodeWord 0x9C040000 = .qpush 4 0 ∧ decodeWord 0x9C440000 = .qpop 4 0 ∧ decodeWord 0x9C840000 = .qtry 4 0
  ∧ decodeWord 0x6040C201 = .sel 2 3 4 1 ∧ decodeWord 0x19004103 = .pand 1 2 3 ∧ decodeWord 0x83410004 = .brdiv 1 4
  ∧ decodeWord 0x9EC00000 = .unmark 0 0 ∧ decodeWord 0xA0C40030 = .swr 4 0x30 ∧ decodeWord 0x9F000040 = .enter 0 0x40
  ∧ decodeWord 0xA1400000 = .yield 0 0 ∧ decodeWord 0x8C400000 = .xrel 0 0 ∧ decodeWord 0x0841810A = .vldW 6 2 10
  ∧ decodeWord 0x08820084 = .vldQ 8 1 4 ∧ decodeWord 0xFFFFFFFF = .undefinedClassH 0xFFFFFFFF

/-- A step runs the decoded instruction (R4, R26, R41, R45, R198): where the schedulers choose a split, the word of its clause that it
holds, or else the one fetched at its PC, which is the word of the bytes its translation leads to and which it then holds with the words of
the clause after it that can be fetched, is decoded, and the step is that instruction's; at a clause start the step is CLAUSE_START; an
event of the environment that has come is executed first. That inputs come first in a cycle (entry 1), and that a fetched word is held with
the words after it that can be fetched (entry 10), are the model's choices. -/
def Obligations.StepRunsTheWord : Prop :=
  (∀ (s u : State) (k j : Nat) (cx : Cx) (w : Word) (ws : List Word) (i : Instr), nextAction s = .choice (.issue k j) →
    u = { s with cur := some (k, j) } → focus u = some cx → heldWords cx.sp = w :: ws → decode (bytesOfWord w) = .ok (i, []) →
    step s = exec i u)
  ∧ (∀ (s u s1 s2 : State) (k j : Nat) (cx : Cx) (w : Word) (ws : List Word) (i : Instr), nextAction s = .choice (.issue k j) →
    u = { s with cur := some (k, j) } → focus u = some cx → cx.sp.clause ≠ none → heldWords cx.sp = [] →
    fetchWord u cx cx.sp.pc = .ok (w, s1) → decode (bytesOfWord w) = .ok (i, []) →
    fetchBody cx (wordsLeft cx.sp - 1) (cx.sp.pc + 4) (litCount i) s1 = (ws, s2) →
    AccessFrame u s2 ∧ step s = exec i
      (updSplit s2 k j fun sp => { sp with clause := sp.clause.map fun cl => { cl with held := w :: ws } }))
  ∧ (∀ (u s1 : State) (cx : Cx) (pc : DWord) (w : Word) (x : Xlat) (l : Option Leaf), fetchWord u cx pc = .ok (w, s1) →
    xlateAll u (cx.req .fetch .fetch) pc 4 = .ok [(0, 4, x, l)] → bytesOfWord w = readBytes u x.key x.loc 4)
  ∧ (∀ (s u : State) (k j : Nat) (cx : Cx), nextAction s = .choice (.issue k j) → u = { s with cur := some (k, j) } →
    focus u = some cx → cx.sp.clause = none → step s = exec .clauseStart u)
  ∧ ∀ (s : State) (n : Nat) (i : Instr) (r : List (Nat × Instr)), s.inputs = (n, i) :: r → n ≤ s.now →
    step s = exec i { s with inputs := r }

/-- Memory keeps its canonical form: from every state that has it, every step leads to a state that has it. The form is the model's own
way to hold memory (entry 2). -/
def Obligations.MemoryForm : Prop :=
  ∀ s t : State, MemInv s → step s = .next t → MemInv t

/-- The package right after reset (R3, R23, R212, R215, R217, R242, R243, R257): FIRMWARE, no warp, workgroup, launch, tenancy or code
object, every core not hot and running, every cask disabled and empty, every counter 0 without attachment, no sequence at a Lantern die,
TAVOID 95, GIDLE 100; and memory has its canonical form. Values the rules do not give (entry 3) are not stated
here. -/
def Obligations.ResetState : Prop :=
  State.reset.level = 0 ∧ State.reset.now = 0 ∧ State.reset.tavoid = 95 ∧ State.reset.gidle = 100 ∧ MemInv State.reset
  ∧ (∀ k, warpAt State.reset k = none) ∧ (∀ g, wgAt State.reset g = none) ∧ (∀ n, tenAt State.reset n = none)
  ∧ (∀ n, tget State.reset.launches n = none) ∧ (∀ n, tget State.reset.handles n = none)
  ∧ (∀ c, (coreAt State.reset c).hot = false ∧ running State.reset c = true ∧ clkOf State.reset c = 0)
  ∧ (∀ c, (caskAt State.reset c).en = false ∧ (caskAt State.reset c).recs = [] ∧ (caskAt State.reset c).spilled = 0)
  ∧ (∀ n, counterAt State.reset n = { value := 0, att := none }) ∧ ∀ d, (dieAt State.reset d).seqs = []

/-- A word with no active lane (R12, R26, R41, R56): every scalar word but MODE and TRET, and every vector word, is then a no-operation; a
branch is not taken. The split goes on after the word and its literals, and registers, memory and results to come are as they were. -/
def Obligations.GuardedOff : Prop :=
  ∀ (i : Instr) (w : Word) (s : State) (cx : Cx), encodeWord i = some w → (∀ x imm, i ≠ .mode x imm) → (∀ x imm, i ≠ .tret x imm) →
    focus s = some cx → cx.sp.mask &&& guardMask s cx.k cx.w = 0 →
    ∃ t w', exec i s = .next t ∧ Completes s t cx (nextPc cx (min (litCount i) (wordsLeft cx.sp - 1))) w' ∧ SameWarp cx.j cx.w w'
      ∧ w'.pend = cx.w.pend ∧ SlotFrame s t

/-- SMOVI, SMOVHI, SADDI and SANDI (R338): no value traps; S[s] becomes the word of the table, visible 2 cycles after issue; the words
attach to no flag, and are read from the opcodes of the table. -/
def Obligations.ImmediateWords : Prop :=
  (∀ (i : Instr) (s : State) (cx : Cx) (d : Nat) (x : Word), immediateOf s cx i = some (d, x) → focus s = some cx → eff s cx ≠ 0 →
    1 ≤ wordsLeft cx.sp →
    ∃ t w', exec i s = .next t ∧ Completes s t cx (cx.sp.pc + 4) w' ∧ Results cx.w w' (.s d) (.word x) (eff s cx) (s.now + 2)
      ∧ w'.ops = cx.base.ops ∧ SameWarp cx.j cx.w w' ∧ SlotFrame s t)
  ∧ ∀ (x : BitVec 6) (imm : Half), decodeWord (0b10#2 ++ 0x00#8 ++ x ++ imm) = .smovi x imm
    ∧ decodeWord (0b10#2 ++ 0x01#8 ++ x ++ imm) = .smovhi x imm ∧ decodeWord (0b10#2 ++ 0x02#8 ++ x ++ imm) = .saddi x imm
    ∧ decodeWord (0b10#2 ++ 0x03#8 ++ x ++ imm) = .sandi x imm

/-- The stage predicates as guards (R54, R101): under guard SPn the lanes of a split of iteration warp k are active when 0 ≤ k − n ≤ N − 1,
and none is otherwise; outside a brew they are active under SP0 alone. -/
def Obligations.StagePredicates : Prop :=
  (∀ (s : State) (cx : Cx) (b : Brew) (k n : Nat), cx.w.iter = some k → brewOf s cx.k = some b → n < 8 →
    cx.w.mode.extractLsb' 11 5 = 0b11000#5 + BitVec.ofNat 5 n →
    ((0 ≤ (k : Int) - n ∧ (k : Int) - n ≤ (b.n : Int) - 1) → eff s cx = cx.sp.mask)
    ∧ (¬ (0 ≤ (k : Int) - n ∧ (k : Int) - n ≤ (b.n : Int) - 1) → eff s cx = 0))
  ∧ ∀ (s : State) (cx : Cx) (n : Nat), cx.w.iter = none → n < 8 → cx.w.mode.extractLsb' 11 5 = 0b11000#5 + BitVec.ofNat 5 n →
    eff s cx = if n = 0 then cx.sp.mask else 0
end

