-- ==== Sys2Proof/Laws/Tables.lean ====
section
/-! SUPPORT. Sparse tables and memory: read after write, and the canonical form of memory. -/

namespace Sys2Proof.Machine

/-! Tables. -/

@[simp] theorem tget_tset_same {α : Type} (t : Table α) (k : Nat) (x : α) : tget (tset t k x) k = some x := by
  induction t with
  | nil => simp [tset, tget]
  | cons e r ih =>
    obtain ⟨j, y⟩ := e
    by_cases h1 : k < j
    · simp [tset, tget, h1]
    · by_cases h2 : j = k
      · simp [tset, tget, h2]
      · simp [tset, tget, h1, h2, ih]

theorem tget_tset_ne {α : Type} (t : Table α) (k : Nat) (x : α) {n : Nat} (h : n ≠ k) : tget (tset t k x) n = tget t n := by
  induction t with
  | nil => simp [tset, tget, Ne.symm h]
  | cons e r ih =>
    obtain ⟨j, y⟩ := e
    by_cases h1 : k < j
    · simp [tset, tget, h1, Ne.symm h]
    · by_cases h2 : j = k
      · subst h2
        simp [tset, tget, Ne.symm h]
      · simp [tset, tget, h1, h2, ih]

theorem tget_tset {α : Type} (t : Table α) (k : Nat) (x : α) (n : Nat) :
    tget (tset t k x) n = if n = k then some x else tget t n := by
  by_cases h : n = k
  · subst h
    simp
  · simp [h, tget_tset_ne t k x h]

theorem tget_tdel {α : Type} (t : Table α) (k n : Nat) : tget (tdel t k) n = if n = k then none else tget t n := by
  induction t with
  | nil => simp [tdel, tget]
  | cons e r ih =>
    obtain ⟨j, y⟩ := e
    by_cases h1 : j = k
    · subst h1
      by_cases h2 : n = j
      · subst h2
        simp [tdel, ih]
      · simp [tdel, tget, ih, h2, Ne.symm h2]
    · by_cases h2 : j = n
      · subst h2
        simp [tdel, tget, h1]
      · simp [tdel, tget, h1, h2, ih]

/-- An entry found stands in the table. -/
theorem mem_of_tget {α : Type} {t : Table α} {k : Nat} {x : α} (h : tget t k = some x) : (k, x) ∈ t := by
  induction t with
  | nil => cases h
  | cons e r ih =>
    rw [tget] at h
    split at h
    · next hk => cases h; exact hk ▸ List.mem_cons_self ..
    · exact List.mem_cons_of_mem _ (ih h)

/-- The first key of a table is its lowest. -/
theorem head_le_of_mem {α : Type} {e f : Nat × α} {r : Table α} (hw : tableWf (e :: r) = true) (h : f ∈ e :: r) : e.1 ≤ f.1 := by
  rw [tableWf, Bool.and_eq_true, List.all_eq_true] at hw
  rcases List.mem_cons.mp h with rfl | h
  · exact Nat.le_refl _
  · exact Nat.le_of_lt (of_decide_eq_true (hw.1 f h))

/-- A change of every entry that keeps the keys is read through. -/
theorem tget_map {α β : Type} (t : Table α) (f : α → β) (n : Nat) :
    tget (t.map fun e => (e.1, f e.2)) n = (tget t n).map f := by
  induction t with
  | nil => rfl
  | cons e r ih =>
    obtain ⟨j, y⟩ := e
    by_cases h : j = n
    · simp [tget, h]
    · simp [tget, h, ih]

@[simp] theorem tgetD_tset_same {α : Type} (t : Table α) (k : Nat) (x d : α) : tgetD (tset t k x) k d = x := by
  simp [tgetD]

theorem tgetD_tset_ne {α : Type} (t : Table α) (k : Nat) (x d : α) {n : Nat} (h : n ≠ k) :
    tgetD (tset t k x) n d = tgetD t n d := by
  simp [tgetD, tget_tset_ne t k x h]

/-! Memory. -/

/-- READ AFTER WRITE of one byte. -/
theorem memByte_memSet (m : List Host.Cell) (a : Nat) (x : Byte) (n : Nat) (h : memWf m = true) :
    memByte (memSet m a x) n = if n = a then x else memByte m n := by
  induction m with
  | nil =>
    by_cases hx : x = emptyByte
    · by_cases hn : n = a <;> simp [memSet, memByte, hx, hn]
    · by_cases hn : n = a
      · simp [memSet, memByte, hx, hn]
      · simp [memSet, memByte, hx, hn, Ne.symm hn]
  | cons c r ih =>
    obtain ⟨b, y⟩ := c
    simp only [memWf, Bool.and_eq_true, decide_eq_true_eq, List.all_eq_true] at h
    obtain ⟨⟨hy, hb⟩, hr⟩ := h
    have habs : ∀ k, k ≤ b → memByte r k = emptyByte := by
      intro k hk
      have : ∀ l : List Host.Cell, (∀ c ∈ l, b < c.1) → memByte l k = emptyByte := by
        intro l
        induction l with
        | nil => intro _; rfl
        | cons e l ihl =>
          intro hl
          have h1 : b < e.1 := hl e (by simp)
          have h2 : e.1 ≠ k := by omega
          simp [memByte, h2, ihl fun c hc => hl c (by simp [hc])]
      exact this r fun c hc => hb c hc
    by_cases h1 : a < b
    · by_cases hx : x = emptyByte
      · by_cases hn : n = a
        · subst hn
          have h2 : b ≠ n := by omega
          simp [memSet, memByte, h1, hx, h2, habs n (by omega)]
        · simp [memSet, h1, hx, hn]
      · by_cases hn : n = a
        · simp [memSet, memByte, h1, hx, hn]
        · simp [memSet, memByte, h1, hx, hn, Ne.symm hn]
    · by_cases h2 : b = a
      · subst h2
        by_cases hx : x = emptyByte
        · by_cases hn : n = b
          · subst hn
            simp [memSet, hx, habs n (Nat.le_refl n)]
          · simp [memSet, memByte, hx, hn, Ne.symm hn]
        · by_cases hn : n = b
          · simp [memSet, memByte, hx, hn]
          · simp [memSet, memByte, hx, hn, Ne.symm hn]
      · by_cases hn : b = n
        · subst hn
          simp [memSet, memByte, h1, h2]
        · simp [memSet, memByte, h1, h2, hn, ih hr]

theorem mem_memSet (m : List Host.Cell) (a : Nat) (x : Byte) {c : Host.Cell} (h : c ∈ memSet m a x) : c = (a, x) ∨ c ∈ m := by
  induction m with
  | nil =>
    by_cases hx : x = emptyByte
    · simp [memSet, hx] at h
    · simp [memSet, hx] at h
      exact .inl h
  | cons e r ih =>
    obtain ⟨b, y⟩ := e
    by_cases h1 : a < b
    · by_cases hx : x = emptyByte
      · simp [memSet, h1, hx] at h
        simp [h]
      · simp [memSet, h1, hx] at h
        simpa using h
    · by_cases h2 : b = a
      · by_cases hx : x = emptyByte
        · simp [memSet, h2, hx] at h
          simp [h]
        · simp [memSet, h2, hx] at h
          rcases h with h | h <;> simp [h]
      · simp [memSet, h1, h2] at h
        rcases h with h | h
        · simp [h]
        · rcases ih h with h | h <;> simp [h]

/-- A byte written keeps the canonical form. -/
theorem memWf_memSet (m : List Host.Cell) (a : Nat) (x : Byte) (h : memWf m = true) : memWf (memSet m a x) = true := by
  induction m with
  | nil =>
    by_cases hx : x = emptyByte <;> simp [memSet, memWf, hx]
  | cons e r ih =>
    obtain ⟨b, y⟩ := e
    have h' := h
    simp only [memWf, Bool.and_eq_true, decide_eq_true_eq, List.all_eq_true] at h
    obtain ⟨⟨hy, hb⟩, hr⟩ := h
    by_cases h1 : a < b
    · by_cases hx : x = emptyByte
      · simpa [memSet, h1, hx] using h'
      · simp only [memSet, h1, hx, if_true, if_false, memWf, Bool.and_eq_true, decide_eq_true_eq, List.all_eq_true]
        refine ⟨⟨hx, ?_⟩, ⟨hy, hb⟩, hr⟩
        intro c hc
        rcases List.mem_cons.mp hc with rfl | hc
        · exact h1
        · exact Nat.lt_trans h1 (hb c hc)
    · by_cases h2 : b = a
      · by_cases hx : x = emptyByte
        · simpa [memSet, h2, hx] using hr
        · subst h2
          simp only [memSet, hx, Nat.lt_irrefl, if_true, if_false, memWf, Bool.and_eq_true, decide_eq_true_eq, List.all_eq_true]
          exact ⟨⟨hx, hb⟩, hr⟩
      · simp only [memSet, h1, h2, if_false, memWf, Bool.and_eq_true, decide_eq_true_eq, List.all_eq_true]
        refine ⟨⟨hy, ?_⟩, ih hr⟩
        intro c hc
        rcases mem_memSet r a x hc with rfl | hc
        · simp only
          omega
        · exact hb c hc

theorem memWf_memWrite (m : List Host.Cell) (a : Nat) (xs : List Byte) (h : memWf m = true) : memWf (memWrite m a xs) = true := by
  induction xs generalizing m a with
  | nil => simpa [memWrite] using h
  | cons x xs ih => exact ih _ _ (memWf_memSet m a x h)

/-- READ AFTER WRITE of a run of bytes. -/
theorem memByte_memWrite (m : List Host.Cell) (a : Nat) (xs : List Byte) (n : Nat) (h : memWf m = true) :
    memByte (memWrite m a xs) n = if a ≤ n ∧ n < a + xs.length then xs.getD (n - a) emptyByte else memByte m n := by
  induction xs generalizing m a with
  | nil => rw [memWrite, if_neg (by simp only [List.length_nil]; omega)]
  | cons x xs ih =>
    rw [memWrite, ih _ _ (memWf_memSet m a x h), memByte_memSet m a x n h]
    by_cases h1 : n = a
    · subst h1
      have h2 : ¬ (n + 1 ≤ n ∧ n < n + 1 + xs.length) := by omega
      rw [if_neg h2, if_pos rfl, if_pos (by simp)]
      simp
    · by_cases h2 : a + 1 ≤ n ∧ n < a + 1 + xs.length
      · have h3 : a ≤ n ∧ n < a + (x :: xs).length := by simp; omega
        have h4 : n - a = (n - (a + 1)) + 1 := by omega
        rw [if_pos h2, if_pos h3, h4]
        simp
      · have h3 : ¬ (a ≤ n ∧ n < a + (x :: xs).length) := by simp; omega
        rw [if_neg h2, if_neg h3, if_neg h1]

theorem memWf_filter (m : List Host.Cell) (p : Host.Cell → Bool) (h : memWf m = true) : memWf (m.filter p) = true := by
  induction m with
  | nil => rfl
  | cons e r ih =>
    obtain ⟨b, y⟩ := e
    simp only [memWf, Bool.and_eq_true, decide_eq_true_eq, List.all_eq_true] at h
    obtain ⟨⟨hy, hb⟩, hr⟩ := h
    by_cases hp : p (b, y) = true
    · simp only [List.filter_cons, hp, if_true, memWf, Bool.and_eq_true, decide_eq_true_eq, List.all_eq_true]
      exact ⟨⟨hy, fun c hc => hb c (List.mem_filter.mp hc).1⟩, ih hr⟩
    · simpa [List.filter_cons, hp] using ih hr

/-! The operations of `Mem.lean` keep the form. -/

theorem scramble_mem (s : State) (sec : Nat) :
    (scramble s sec).mem = memWrite s.mem (64 * sec) ((List.range 64).map fun i => Config.freeData s.fresh i) := by
  simp only [scramble]

theorem scramble_memInv (s : State) (sec : Nat) (h : MemInv s) : MemInv (scramble s sec) := by
  unfold MemInv
  rw [scramble_mem]
  exact memWf_memWrite _ _ _ h

/-- Putting a sector under a key leaves memory as it is, or scrambles that sector. -/
theorem rekey_mem (s : State) (key : Option (Nat × Nat)) (sec : Nat) :
    (rekey s key sec).mem = s.mem ∨ (rekey s key sec).mem = (scramble s sec).mem := by
  by_cases h1 : tget s.sectorKeys sec = key
  · exact .inl (by simp [rekey, h1])
  · by_cases h2 : ((tget s.sectorKeys sec).isSome || sectorUsed s sec) = true
    · exact .inr (by simp only [rekey, h1, h2, if_true, if_false])
    · exact .inl (by simp [rekey, h1, h2])

theorem rekey_memInv (s : State) (key : Option (Nat × Nat)) (sec : Nat) (h : MemInv s) : MemInv (rekey s key sec) := by
  unfold MemInv
  rcases rekey_mem s key sec with e | e <;> rw [e]
  · exact h
  · exact scramble_memInv s sec h

theorem writeVia_memInv (s : State) (key : Option (Nat × Nat)) (loc : Nat) (x : Byte) (h : MemInv s) :
    MemInv (writeVia s key loc x) := by
  have e : (writeVia s key loc x).mem = memSet (rekey s key (sectorOf loc)).mem loc x := rfl
  unfold MemInv
  rw [e]
  exact memWf_memSet _ _ _ (rekey_memInv s key _ h)

theorem writeBytes_memInv (s : State) (key : Option (Nat × Nat)) (loc : Nat) (xs : List Byte) (h : MemInv s) :
    MemInv (writeBytes s key loc xs) := by
  induction xs generalizing s loc with
  | nil => exact h
  | cons x xs ih => exact ih _ _ (writeVia_memInv s key loc x h)

theorem zeroRange_memInv (s : State) (loc n : Nat) (h : MemInv s) : MemInv (zeroRange s loc n) := memWf_filter _ _ h

theorem reset_memInv : MemInv State.reset := rfl

end Sys2Proof.Machine
end

