-- ==== Sys2Proof/Laws/State.lean ====
section
/-! SUPPORT. What each named update of the state leaves in every field, and what the accessors read after it. -/

namespace Sys2Proof.Machine

/-! `setCore`. -/

@[simp] theorem setCore_level (s : State) (c : Nat) (x : Core) : (setCore s c x).level = s.level := rfl
@[simp] theorem setCore_now (s : State) (c : Nat) (x : Core) : (setCore s c x).now = s.now := rfl
@[simp] theorem setCore_dtbase (s : State) (c : Nat) (x : Core) : (setCore s c x).dtbase = s.dtbase := rfl
@[simp] theorem setCore_tavoid (s : State) (c : Nat) (x : Core) : (setCore s c x).tavoid = s.tavoid := rfl
@[simp] theorem setCore_gidle (s : State) (c : Nat) (x : Core) : (setCore s c x).gidle = s.gidle := rfl
@[simp] theorem setCore_mem (s : State) (c : Nat) (x : Core) : (setCore s c x).mem = s.mem := rfl
@[simp] theorem setCore_poison (s : State) (c : Nat) (x : Core) : (setCore s c x).poison = s.poison := rfl
@[simp] theorem setCore_farRows (s : State) (c : Nat) (x : Core) : (setCore s c x).farRows = s.farRows := rfl
@[simp] theorem setCore_latched (s : State) (c : Nat) (x : Core) : (setCore s c x).latched = s.latched := rfl
@[simp] theorem setCore_sectorKeys (s : State) (c : Nat) (x : Core) : (setCore s c x).sectorKeys = s.sectorKeys := rfl
@[simp] theorem setCore_keySlots (s : State) (c : Nat) (x : Core) : (setCore s c x).keySlots = s.keySlots := rfl
@[simp] theorem setCore_frameOwner (s : State) (c : Nat) (x : Core) : (setCore s c x).frameOwner = s.frameOwner := rfl
@[simp] theorem setCore_tenancies (s : State) (c : Nat) (x : Core) : (setCore s c x).tenancies = s.tenancies := rfl
@[simp] theorem setCore_casks (s : State) (c : Nat) (x : Core) : (setCore s c x).casks = s.casks := rfl
@[simp] theorem setCore_counters (s : State) (c : Nat) (x : Core) : (setCore s c x).counters = s.counters := rfl
@[simp] theorem setCore_warps (s : State) (c : Nat) (x : Core) : (setCore s c x).warps = s.warps := rfl
@[simp] theorem setCore_wgs (s : State) (c : Nat) (x : Core) : (setCore s c x).wgs = s.wgs := rfl
@[simp] theorem setCore_launches (s : State) (c : Nat) (x : Core) : (setCore s c x).launches = s.launches := rfl
@[simp] theorem setCore_handles (s : State) (c : Nat) (x : Core) : (setCore s c x).handles = s.handles := rfl
@[simp] theorem setCore_cpls (s : State) (c : Nat) (x : Core) : (setCore s c x).cpls = s.cpls := rfl
@[simp] theorem setCore_preempts (s : State) (c : Nat) (x : Core) : (setCore s c x).preempts = s.preempts := rfl
@[simp] theorem setCore_ctxs (s : State) (c : Nat) (x : Core) : (setCore s c x).ctxs = s.ctxs := rfl
@[simp] theorem setCore_migs (s : State) (c : Nat) (x : Core) : (setCore s c x).migs = s.migs := rfl
@[simp] theorem setCore_lanterns (s : State) (c : Nat) (x : Core) : (setCore s c x).lanterns = s.lanterns := rfl
@[simp] theorem setCore_reds (s : State) (c : Nat) (x : Core) : (setCore s c x).reds = s.reds := rfl
@[simp] theorem setCore_remotes (s : State) (c : Nat) (x : Core) : (setCore s c x).remotes = s.remotes := rfl
@[simp] theorem setCore_cxlResp (s : State) (c : Nat) (x : Core) : (setCore s c x).cxlResp = s.cxlResp := rfl
@[simp] theorem setCore_remoteResp (s : State) (c : Nat) (x : Core) : (setCore s c x).remoteResp = s.remoteResp := rfl
@[simp] theorem setCore_inputs (s : State) (c : Nat) (x : Core) : (setCore s c x).inputs = s.inputs := rfl
@[simp] theorem setCore_times (s : State) (c : Nat) (x : Core) : (setCore s c x).times = s.times := rfl
@[simp] theorem setCore_fresh (s : State) (c : Nat) (x : Core) : (setCore s c x).fresh = s.fresh := rfl
@[simp] theorem setCore_cur (s : State) (c : Nat) (x : Core) : (setCore s c x).cur = s.cur := rfl
@[simp] theorem setCore_nextId (s : State) (c : Nat) (x : Core) : (setCore s c x).nextId = s.nextId := rfl

/-! `setWarp`. -/

@[simp] theorem setWarp_level (s : State) (k : Nat) (x : Warp) : (setWarp s k x).level = s.level := rfl
@[simp] theorem setWarp_now (s : State) (k : Nat) (x : Warp) : (setWarp s k x).now = s.now := rfl
@[simp] theorem setWarp_dtbase (s : State) (k : Nat) (x : Warp) : (setWarp s k x).dtbase = s.dtbase := rfl
@[simp] theorem setWarp_tavoid (s : State) (k : Nat) (x : Warp) : (setWarp s k x).tavoid = s.tavoid := rfl
@[simp] theorem setWarp_gidle (s : State) (k : Nat) (x : Warp) : (setWarp s k x).gidle = s.gidle := rfl
@[simp] theorem setWarp_mem (s : State) (k : Nat) (x : Warp) : (setWarp s k x).mem = s.mem := rfl
@[simp] theorem setWarp_poison (s : State) (k : Nat) (x : Warp) : (setWarp s k x).poison = s.poison := rfl
@[simp] theorem setWarp_farRows (s : State) (k : Nat) (x : Warp) : (setWarp s k x).farRows = s.farRows := rfl
@[simp] theorem setWarp_latched (s : State) (k : Nat) (x : Warp) : (setWarp s k x).latched = s.latched := rfl
@[simp] theorem setWarp_sectorKeys (s : State) (k : Nat) (x : Warp) : (setWarp s k x).sectorKeys = s.sectorKeys := rfl
@[simp] theorem setWarp_keySlots (s : State) (k : Nat) (x : Warp) : (setWarp s k x).keySlots = s.keySlots := rfl
@[simp] theorem setWarp_frameOwner (s : State) (k : Nat) (x : Warp) : (setWarp s k x).frameOwner = s.frameOwner := rfl
@[simp] theorem setWarp_tenancies (s : State) (k : Nat) (x : Warp) : (setWarp s k x).tenancies = s.tenancies := rfl
@[simp] theorem setWarp_cores (s : State) (k : Nat) (x : Warp) : (setWarp s k x).cores = s.cores := rfl
@[simp] theorem setWarp_casks (s : State) (k : Nat) (x : Warp) : (setWarp s k x).casks = s.casks := rfl
@[simp] theorem setWarp_counters (s : State) (k : Nat) (x : Warp) : (setWarp s k x).counters = s.counters := rfl
@[simp] theorem setWarp_wgs (s : State) (k : Nat) (x : Warp) : (setWarp s k x).wgs = s.wgs := rfl
@[simp] theorem setWarp_launches (s : State) (k : Nat) (x : Warp) : (setWarp s k x).launches = s.launches := rfl
@[simp] theorem setWarp_handles (s : State) (k : Nat) (x : Warp) : (setWarp s k x).handles = s.handles := rfl
@[simp] theorem setWarp_cpls (s : State) (k : Nat) (x : Warp) : (setWarp s k x).cpls = s.cpls := rfl
@[simp] theorem setWarp_preempts (s : State) (k : Nat) (x : Warp) : (setWarp s k x).preempts = s.preempts := rfl
@[simp] theorem setWarp_ctxs (s : State) (k : Nat) (x : Warp) : (setWarp s k x).ctxs = s.ctxs := rfl
@[simp] theorem setWarp_migs (s : State) (k : Nat) (x : Warp) : (setWarp s k x).migs = s.migs := rfl
@[simp] theorem setWarp_lanterns (s : State) (k : Nat) (x : Warp) : (setWarp s k x).lanterns = s.lanterns := rfl
@[simp] theorem setWarp_reds (s : State) (k : Nat) (x : Warp) : (setWarp s k x).reds = s.reds := rfl
@[simp] theorem setWarp_remotes (s : State) (k : Nat) (x : Warp) : (setWarp s k x).remotes = s.remotes := rfl
@[simp] theorem setWarp_cxlResp (s : State) (k : Nat) (x : Warp) : (setWarp s k x).cxlResp = s.cxlResp := rfl
@[simp] theorem setWarp_remoteResp (s : State) (k : Nat) (x : Warp) : (setWarp s k x).remoteResp = s.remoteResp := rfl
@[simp] theorem setWarp_inputs (s : State) (k : Nat) (x : Warp) : (setWarp s k x).inputs = s.inputs := rfl
@[simp] theorem setWarp_times (s : State) (k : Nat) (x : Warp) : (setWarp s k x).times = s.times := rfl
@[simp] theorem setWarp_fresh (s : State) (k : Nat) (x : Warp) : (setWarp s k x).fresh = s.fresh := rfl
@[simp] theorem setWarp_cur (s : State) (k : Nat) (x : Warp) : (setWarp s k x).cur = s.cur := rfl
@[simp] theorem setWarp_nextId (s : State) (k : Nat) (x : Warp) : (setWarp s k x).nextId = s.nextId := rfl

/-! `setWg`. -/

@[simp] theorem setWg_level (s : State) (g : Nat) (x : Workgroup) : (setWg s g x).level = s.level := rfl
@[simp] theorem setWg_now (s : State) (g : Nat) (x : Workgroup) : (setWg s g x).now = s.now := rfl
@[simp] theorem setWg_dtbase (s : State) (g : Nat) (x : Workgroup) : (setWg s g x).dtbase = s.dtbase := rfl
@[simp] theorem setWg_tavoid (s : State) (g : Nat) (x : Workgroup) : (setWg s g x).tavoid = s.tavoid := rfl
@[simp] theorem setWg_gidle (s : State) (g : Nat) (x : Workgroup) : (setWg s g x).gidle = s.gidle := rfl
@[simp] theorem setWg_mem (s : State) (g : Nat) (x : Workgroup) : (setWg s g x).mem = s.mem := rfl
@[simp] theorem setWg_poison (s : State) (g : Nat) (x : Workgroup) : (setWg s g x).poison = s.poison := rfl
@[simp] theorem setWg_farRows (s : State) (g : Nat) (x : Workgroup) : (setWg s g x).farRows = s.farRows := rfl
@[simp] theorem setWg_latched (s : State) (g : Nat) (x : Workgroup) : (setWg s g x).latched = s.latched := rfl
@[simp] theorem setWg_sectorKeys (s : State) (g : Nat) (x : Workgroup) : (setWg s g x).sectorKeys = s.sectorKeys := rfl
@[simp] theorem setWg_keySlots (s : State) (g : Nat) (x : Workgroup) : (setWg s g x).keySlots = s.keySlots := rfl
@[simp] theorem setWg_frameOwner (s : State) (g : Nat) (x : Workgroup) : (setWg s g x).frameOwner = s.frameOwner := rfl
@[simp] theorem setWg_tenancies (s : State) (g : Nat) (x : Workgroup) : (setWg s g x).tenancies = s.tenancies := rfl
@[simp] theorem setWg_cores (s : State) (g : Nat) (x : Workgroup) : (setWg s g x).cores = s.cores := rfl
@[simp] theorem setWg_casks (s : State) (g : Nat) (x : Workgroup) : (setWg s g x).casks = s.casks := rfl
@[simp] theorem setWg_counters (s : State) (g : Nat) (x : Workgroup) : (setWg s g x).counters = s.counters := rfl
@[simp] theorem setWg_warps (s : State) (g : Nat) (x : Workgroup) : (setWg s g x).warps = s.warps := rfl
@[simp] theorem setWg_launches (s : State) (g : Nat) (x : Workgroup) : (setWg s g x).launches = s.launches := rfl
@[simp] theorem setWg_handles (s : State) (g : Nat) (x : Workgroup) : (setWg s g x).handles = s.handles := rfl
@[simp] theorem setWg_cpls (s : State) (g : Nat) (x : Workgroup) : (setWg s g x).cpls = s.cpls := rfl
@[simp] theorem setWg_preempts (s : State) (g : Nat) (x : Workgroup) : (setWg s g x).preempts = s.preempts := rfl
@[simp] theorem setWg_ctxs (s : State) (g : Nat) (x : Workgroup) : (setWg s g x).ctxs = s.ctxs := rfl
@[simp] theorem setWg_migs (s : State) (g : Nat) (x : Workgroup) : (setWg s g x).migs = s.migs := rfl
@[simp] theorem setWg_lanterns (s : State) (g : Nat) (x : Workgroup) : (setWg s g x).lanterns = s.lanterns := rfl
@[simp] theorem setWg_reds (s : State) (g : Nat) (x : Workgroup) : (setWg s g x).reds = s.reds := rfl
@[simp] theorem setWg_remotes (s : State) (g : Nat) (x : Workgroup) : (setWg s g x).remotes = s.remotes := rfl
@[simp] theorem setWg_cxlResp (s : State) (g : Nat) (x : Workgroup) : (setWg s g x).cxlResp = s.cxlResp := rfl
@[simp] theorem setWg_remoteResp (s : State) (g : Nat) (x : Workgroup) : (setWg s g x).remoteResp = s.remoteResp := rfl
@[simp] theorem setWg_inputs (s : State) (g : Nat) (x : Workgroup) : (setWg s g x).inputs = s.inputs := rfl
@[simp] theorem setWg_times (s : State) (g : Nat) (x : Workgroup) : (setWg s g x).times = s.times := rfl
@[simp] theorem setWg_fresh (s : State) (g : Nat) (x : Workgroup) : (setWg s g x).fresh = s.fresh := rfl
@[simp] theorem setWg_cur (s : State) (g : Nat) (x : Workgroup) : (setWg s g x).cur = s.cur := rfl
@[simp] theorem setWg_nextId (s : State) (g : Nat) (x : Workgroup) : (setWg s g x).nextId = s.nextId := rfl

/-! `setCask`. -/

@[simp] theorem setCask_level (s : State) (c : Nat) (x : Cask) : (setCask s c x).level = s.level := rfl
@[simp] theorem setCask_now (s : State) (c : Nat) (x : Cask) : (setCask s c x).now = s.now := rfl
@[simp] theorem setCask_dtbase (s : State) (c : Nat) (x : Cask) : (setCask s c x).dtbase = s.dtbase := rfl
@[simp] theorem setCask_tavoid (s : State) (c : Nat) (x : Cask) : (setCask s c x).tavoid = s.tavoid := rfl
@[simp] theorem setCask_gidle (s : State) (c : Nat) (x : Cask) : (setCask s c x).gidle = s.gidle := rfl
@[simp] theorem setCask_mem (s : State) (c : Nat) (x : Cask) : (setCask s c x).mem = s.mem := rfl
@[simp] theorem setCask_poison (s : State) (c : Nat) (x : Cask) : (setCask s c x).poison = s.poison := rfl
@[simp] theorem setCask_farRows (s : State) (c : Nat) (x : Cask) : (setCask s c x).farRows = s.farRows := rfl
@[simp] theorem setCask_latched (s : State) (c : Nat) (x : Cask) : (setCask s c x).latched = s.latched := rfl
@[simp] theorem setCask_sectorKeys (s : State) (c : Nat) (x : Cask) : (setCask s c x).sectorKeys = s.sectorKeys := rfl
@[simp] theorem setCask_keySlots (s : State) (c : Nat) (x : Cask) : (setCask s c x).keySlots = s.keySlots := rfl
@[simp] theorem setCask_frameOwner (s : State) (c : Nat) (x : Cask) : (setCask s c x).frameOwner = s.frameOwner := rfl
@[simp] theorem setCask_tenancies (s : State) (c : Nat) (x : Cask) : (setCask s c x).tenancies = s.tenancies := rfl
@[simp] theorem setCask_cores (s : State) (c : Nat) (x : Cask) : (setCask s c x).cores = s.cores := rfl
@[simp] theorem setCask_counters (s : State) (c : Nat) (x : Cask) : (setCask s c x).counters = s.counters := rfl
@[simp] theorem setCask_warps (s : State) (c : Nat) (x : Cask) : (setCask s c x).warps = s.warps := rfl
@[simp] theorem setCask_wgs (s : State) (c : Nat) (x : Cask) : (setCask s c x).wgs = s.wgs := rfl
@[simp] theorem setCask_launches (s : State) (c : Nat) (x : Cask) : (setCask s c x).launches = s.launches := rfl
@[simp] theorem setCask_handles (s : State) (c : Nat) (x : Cask) : (setCask s c x).handles = s.handles := rfl
@[simp] theorem setCask_cpls (s : State) (c : Nat) (x : Cask) : (setCask s c x).cpls = s.cpls := rfl
@[simp] theorem setCask_preempts (s : State) (c : Nat) (x : Cask) : (setCask s c x).preempts = s.preempts := rfl
@[simp] theorem setCask_ctxs (s : State) (c : Nat) (x : Cask) : (setCask s c x).ctxs = s.ctxs := rfl
@[simp] theorem setCask_migs (s : State) (c : Nat) (x : Cask) : (setCask s c x).migs = s.migs := rfl
@[simp] theorem setCask_lanterns (s : State) (c : Nat) (x : Cask) : (setCask s c x).lanterns = s.lanterns := rfl
@[simp] theorem setCask_reds (s : State) (c : Nat) (x : Cask) : (setCask s c x).reds = s.reds := rfl
@[simp] theorem setCask_remotes (s : State) (c : Nat) (x : Cask) : (setCask s c x).remotes = s.remotes := rfl
@[simp] theorem setCask_cxlResp (s : State) (c : Nat) (x : Cask) : (setCask s c x).cxlResp = s.cxlResp := rfl
@[simp] theorem setCask_remoteResp (s : State) (c : Nat) (x : Cask) : (setCask s c x).remoteResp = s.remoteResp := rfl
@[simp] theorem setCask_inputs (s : State) (c : Nat) (x : Cask) : (setCask s c x).inputs = s.inputs := rfl
@[simp] theorem setCask_times (s : State) (c : Nat) (x : Cask) : (setCask s c x).times = s.times := rfl
@[simp] theorem setCask_fresh (s : State) (c : Nat) (x : Cask) : (setCask s c x).fresh = s.fresh := rfl
@[simp] theorem setCask_cur (s : State) (c : Nat) (x : Cask) : (setCask s c x).cur = s.cur := rfl
@[simp] theorem setCask_nextId (s : State) (c : Nat) (x : Cask) : (setCask s c x).nextId = s.nextId := rfl

/-! `setCounter`. -/

@[simp] theorem setCounter_level (s : State) (n : Nat) (x : Counter) : (setCounter s n x).level = s.level := rfl
@[simp] theorem setCounter_now (s : State) (n : Nat) (x : Counter) : (setCounter s n x).now = s.now := rfl
@[simp] theorem setCounter_dtbase (s : State) (n : Nat) (x : Counter) : (setCounter s n x).dtbase = s.dtbase := rfl
@[simp] theorem setCounter_tavoid (s : State) (n : Nat) (x : Counter) : (setCounter s n x).tavoid = s.tavoid := rfl
@[simp] theorem setCounter_gidle (s : State) (n : Nat) (x : Counter) : (setCounter s n x).gidle = s.gidle := rfl
@[simp] theorem setCounter_mem (s : State) (n : Nat) (x : Counter) : (setCounter s n x).mem = s.mem := rfl
@[simp] theorem setCounter_poison (s : State) (n : Nat) (x : Counter) : (setCounter s n x).poison = s.poison := rfl
@[simp] theorem setCounter_farRows (s : State) (n : Nat) (x : Counter) : (setCounter s n x).farRows = s.farRows := rfl
@[simp] theorem setCounter_latched (s : State) (n : Nat) (x : Counter) : (setCounter s n x).latched = s.latched := rfl
@[simp] theorem setCounter_sectorKeys (s : State) (n : Nat) (x : Counter) : (setCounter s n x).sectorKeys = s.sectorKeys := rfl
@[simp] theorem setCounter_keySlots (s : State) (n : Nat) (x : Counter) : (setCounter s n x).keySlots = s.keySlots := rfl
@[simp] theorem setCounter_frameOwner (s : State) (n : Nat) (x : Counter) : (setCounter s n x).frameOwner = s.frameOwner := rfl
@[simp] theorem setCounter_tenancies (s : State) (n : Nat) (x : Counter) : (setCounter s n x).tenancies = s.tenancies := rfl
@[simp] theorem setCounter_cores (s : State) (n : Nat) (x : Counter) : (setCounter s n x).cores = s.cores := rfl
@[simp] theorem setCounter_casks (s : State) (n : Nat) (x : Counter) : (setCounter s n x).casks = s.casks := rfl
@[simp] theorem setCounter_warps (s : State) (n : Nat) (x : Counter) : (setCounter s n x).warps = s.warps := rfl
@[simp] theorem setCounter_wgs (s : State) (n : Nat) (x : Counter) : (setCounter s n x).wgs = s.wgs := rfl
@[simp] theorem setCounter_launches (s : State) (n : Nat) (x : Counter) : (setCounter s n x).launches = s.launches := rfl
@[simp] theorem setCounter_handles (s : State) (n : Nat) (x : Counter) : (setCounter s n x).handles = s.handles := rfl
@[simp] theorem setCounter_cpls (s : State) (n : Nat) (x : Counter) : (setCounter s n x).cpls = s.cpls := rfl
@[simp] theorem setCounter_preempts (s : State) (n : Nat) (x : Counter) : (setCounter s n x).preempts = s.preempts := rfl
@[simp] theorem setCounter_ctxs (s : State) (n : Nat) (x : Counter) : (setCounter s n x).ctxs = s.ctxs := rfl
@[simp] theorem setCounter_migs (s : State) (n : Nat) (x : Counter) : (setCounter s n x).migs = s.migs := rfl
@[simp] theorem setCounter_lanterns (s : State) (n : Nat) (x : Counter) : (setCounter s n x).lanterns = s.lanterns := rfl
@[simp] theorem setCounter_reds (s : State) (n : Nat) (x : Counter) : (setCounter s n x).reds = s.reds := rfl
@[simp] theorem setCounter_remotes (s : State) (n : Nat) (x : Counter) : (setCounter s n x).remotes = s.remotes := rfl
@[simp] theorem setCounter_cxlResp (s : State) (n : Nat) (x : Counter) : (setCounter s n x).cxlResp = s.cxlResp := rfl
@[simp] theorem setCounter_remoteResp (s : State) (n : Nat) (x : Counter) : (setCounter s n x).remoteResp = s.remoteResp := rfl
@[simp] theorem setCounter_inputs (s : State) (n : Nat) (x : Counter) : (setCounter s n x).inputs = s.inputs := rfl
@[simp] theorem setCounter_times (s : State) (n : Nat) (x : Counter) : (setCounter s n x).times = s.times := rfl
@[simp] theorem setCounter_fresh (s : State) (n : Nat) (x : Counter) : (setCounter s n x).fresh = s.fresh := rfl
@[simp] theorem setCounter_cur (s : State) (n : Nat) (x : Counter) : (setCounter s n x).cur = s.cur := rfl
@[simp] theorem setCounter_nextId (s : State) (n : Nat) (x : Counter) : (setCounter s n x).nextId = s.nextId := rfl

/-! `setTen`. -/

@[simp] theorem setTen_level (s : State) (t : Nat) (x : Tenancy) : (setTen s t x).level = s.level := rfl
@[simp] theorem setTen_now (s : State) (t : Nat) (x : Tenancy) : (setTen s t x).now = s.now := rfl
@[simp] theorem setTen_dtbase (s : State) (t : Nat) (x : Tenancy) : (setTen s t x).dtbase = s.dtbase := rfl
@[simp] theorem setTen_tavoid (s : State) (t : Nat) (x : Tenancy) : (setTen s t x).tavoid = s.tavoid := rfl
@[simp] theorem setTen_gidle (s : State) (t : Nat) (x : Tenancy) : (setTen s t x).gidle = s.gidle := rfl
@[simp] theorem setTen_mem (s : State) (t : Nat) (x : Tenancy) : (setTen s t x).mem = s.mem := rfl
@[simp] theorem setTen_poison (s : State) (t : Nat) (x : Tenancy) : (setTen s t x).poison = s.poison := rfl
@[simp] theorem setTen_farRows (s : State) (t : Nat) (x : Tenancy) : (setTen s t x).farRows = s.farRows := rfl
@[simp] theorem setTen_latched (s : State) (t : Nat) (x : Tenancy) : (setTen s t x).latched = s.latched := rfl
@[simp] theorem setTen_sectorKeys (s : State) (t : Nat) (x : Tenancy) : (setTen s t x).sectorKeys = s.sectorKeys := rfl
@[simp] theorem setTen_keySlots (s : State) (t : Nat) (x : Tenancy) : (setTen s t x).keySlots = s.keySlots := rfl
@[simp] theorem setTen_frameOwner (s : State) (t : Nat) (x : Tenancy) : (setTen s t x).frameOwner = s.frameOwner := rfl
@[simp] theorem setTen_cores (s : State) (t : Nat) (x : Tenancy) : (setTen s t x).cores = s.cores := rfl
@[simp] theorem setTen_casks (s : State) (t : Nat) (x : Tenancy) : (setTen s t x).casks = s.casks := rfl
@[simp] theorem setTen_counters (s : State) (t : Nat) (x : Tenancy) : (setTen s t x).counters = s.counters := rfl
@[simp] theorem setTen_warps (s : State) (t : Nat) (x : Tenancy) : (setTen s t x).warps = s.warps := rfl
@[simp] theorem setTen_wgs (s : State) (t : Nat) (x : Tenancy) : (setTen s t x).wgs = s.wgs := rfl
@[simp] theorem setTen_launches (s : State) (t : Nat) (x : Tenancy) : (setTen s t x).launches = s.launches := rfl
@[simp] theorem setTen_handles (s : State) (t : Nat) (x : Tenancy) : (setTen s t x).handles = s.handles := rfl
@[simp] theorem setTen_cpls (s : State) (t : Nat) (x : Tenancy) : (setTen s t x).cpls = s.cpls := rfl
@[simp] theorem setTen_preempts (s : State) (t : Nat) (x : Tenancy) : (setTen s t x).preempts = s.preempts := rfl
@[simp] theorem setTen_ctxs (s : State) (t : Nat) (x : Tenancy) : (setTen s t x).ctxs = s.ctxs := rfl
@[simp] theorem setTen_migs (s : State) (t : Nat) (x : Tenancy) : (setTen s t x).migs = s.migs := rfl
@[simp] theorem setTen_lanterns (s : State) (t : Nat) (x : Tenancy) : (setTen s t x).lanterns = s.lanterns := rfl
@[simp] theorem setTen_reds (s : State) (t : Nat) (x : Tenancy) : (setTen s t x).reds = s.reds := rfl
@[simp] theorem setTen_remotes (s : State) (t : Nat) (x : Tenancy) : (setTen s t x).remotes = s.remotes := rfl
@[simp] theorem setTen_cxlResp (s : State) (t : Nat) (x : Tenancy) : (setTen s t x).cxlResp = s.cxlResp := rfl
@[simp] theorem setTen_remoteResp (s : State) (t : Nat) (x : Tenancy) : (setTen s t x).remoteResp = s.remoteResp := rfl
@[simp] theorem setTen_inputs (s : State) (t : Nat) (x : Tenancy) : (setTen s t x).inputs = s.inputs := rfl
@[simp] theorem setTen_times (s : State) (t : Nat) (x : Tenancy) : (setTen s t x).times = s.times := rfl
@[simp] theorem setTen_fresh (s : State) (t : Nat) (x : Tenancy) : (setTen s t x).fresh = s.fresh := rfl
@[simp] theorem setTen_cur (s : State) (t : Nat) (x : Tenancy) : (setTen s t x).cur = s.cur := rfl
@[simp] theorem setTen_nextId (s : State) (t : Nat) (x : Tenancy) : (setTen s t x).nextId = s.nextId := rfl

/-! `setQuad`. -/

@[simp] theorem setQuad_level (s : State) (c q : Nat) (x : Quad) : (setQuad s c q x).level = s.level := rfl
@[simp] theorem setQuad_now (s : State) (c q : Nat) (x : Quad) : (setQuad s c q x).now = s.now := rfl
@[simp] theorem setQuad_dtbase (s : State) (c q : Nat) (x : Quad) : (setQuad s c q x).dtbase = s.dtbase := rfl
@[simp] theorem setQuad_tavoid (s : State) (c q : Nat) (x : Quad) : (setQuad s c q x).tavoid = s.tavoid := rfl
@[simp] theorem setQuad_gidle (s : State) (c q : Nat) (x : Quad) : (setQuad s c q x).gidle = s.gidle := rfl
@[simp] theorem setQuad_mem (s : State) (c q : Nat) (x : Quad) : (setQuad s c q x).mem = s.mem := rfl
@[simp] theorem setQuad_poison (s : State) (c q : Nat) (x : Quad) : (setQuad s c q x).poison = s.poison := rfl
@[simp] theorem setQuad_farRows (s : State) (c q : Nat) (x : Quad) : (setQuad s c q x).farRows = s.farRows := rfl
@[simp] theorem setQuad_latched (s : State) (c q : Nat) (x : Quad) : (setQuad s c q x).latched = s.latched := rfl
@[simp] theorem setQuad_sectorKeys (s : State) (c q : Nat) (x : Quad) : (setQuad s c q x).sectorKeys = s.sectorKeys := rfl
@[simp] theorem setQuad_keySlots (s : State) (c q : Nat) (x : Quad) : (setQuad s c q x).keySlots = s.keySlots := rfl
@[simp] theorem setQuad_frameOwner (s : State) (c q : Nat) (x : Quad) : (setQuad s c q x).frameOwner = s.frameOwner := rfl
@[simp] theorem setQuad_tenancies (s : State) (c q : Nat) (x : Quad) : (setQuad s c q x).tenancies = s.tenancies := rfl
@[simp] theorem setQuad_casks (s : State) (c q : Nat) (x : Quad) : (setQuad s c q x).casks = s.casks := rfl
@[simp] theorem setQuad_counters (s : State) (c q : Nat) (x : Quad) : (setQuad s c q x).counters = s.counters := rfl
@[simp] theorem setQuad_warps (s : State) (c q : Nat) (x : Quad) : (setQuad s c q x).warps = s.warps := rfl
@[simp] theorem setQuad_wgs (s : State) (c q : Nat) (x : Quad) : (setQuad s c q x).wgs = s.wgs := rfl
@[simp] theorem setQuad_launches (s : State) (c q : Nat) (x : Quad) : (setQuad s c q x).launches = s.launches := rfl
@[simp] theorem setQuad_handles (s : State) (c q : Nat) (x : Quad) : (setQuad s c q x).handles = s.handles := rfl
@[simp] theorem setQuad_cpls (s : State) (c q : Nat) (x : Quad) : (setQuad s c q x).cpls = s.cpls := rfl
@[simp] theorem setQuad_preempts (s : State) (c q : Nat) (x : Quad) : (setQuad s c q x).preempts = s.preempts := rfl
@[simp] theorem setQuad_ctxs (s : State) (c q : Nat) (x : Quad) : (setQuad s c q x).ctxs = s.ctxs := rfl
@[simp] theorem setQuad_migs (s : State) (c q : Nat) (x : Quad) : (setQuad s c q x).migs = s.migs := rfl
@[simp] theorem setQuad_lanterns (s : State) (c q : Nat) (x : Quad) : (setQuad s c q x).lanterns = s.lanterns := rfl
@[simp] theorem setQuad_reds (s : State) (c q : Nat) (x : Quad) : (setQuad s c q x).reds = s.reds := rfl
@[simp] theorem setQuad_remotes (s : State) (c q : Nat) (x : Quad) : (setQuad s c q x).remotes = s.remotes := rfl
@[simp] theorem setQuad_cxlResp (s : State) (c q : Nat) (x : Quad) : (setQuad s c q x).cxlResp = s.cxlResp := rfl
@[simp] theorem setQuad_remoteResp (s : State) (c q : Nat) (x : Quad) : (setQuad s c q x).remoteResp = s.remoteResp := rfl
@[simp] theorem setQuad_inputs (s : State) (c q : Nat) (x : Quad) : (setQuad s c q x).inputs = s.inputs := rfl
@[simp] theorem setQuad_times (s : State) (c q : Nat) (x : Quad) : (setQuad s c q x).times = s.times := rfl
@[simp] theorem setQuad_fresh (s : State) (c q : Nat) (x : Quad) : (setQuad s c q x).fresh = s.fresh := rfl
@[simp] theorem setQuad_cur (s : State) (c q : Nat) (x : Quad) : (setQuad s c q x).cur = s.cur := rfl
@[simp] theorem setQuad_nextId (s : State) (c q : Nat) (x : Quad) : (setQuad s c q x).nextId = s.nextId := rfl

/-! `dropTime`. -/

@[simp] theorem dropTime_level (s : State) : (dropTime s).level = s.level := rfl
@[simp] theorem dropTime_now (s : State) : (dropTime s).now = s.now := rfl
@[simp] theorem dropTime_dtbase (s : State) : (dropTime s).dtbase = s.dtbase := rfl
@[simp] theorem dropTime_tavoid (s : State) : (dropTime s).tavoid = s.tavoid := rfl
@[simp] theorem dropTime_gidle (s : State) : (dropTime s).gidle = s.gidle := rfl
@[simp] theorem dropTime_mem (s : State) : (dropTime s).mem = s.mem := rfl
@[simp] theorem dropTime_poison (s : State) : (dropTime s).poison = s.poison := rfl
@[simp] theorem dropTime_farRows (s : State) : (dropTime s).farRows = s.farRows := rfl
@[simp] theorem dropTime_latched (s : State) : (dropTime s).latched = s.latched := rfl
@[simp] theorem dropTime_sectorKeys (s : State) : (dropTime s).sectorKeys = s.sectorKeys := rfl
@[simp] theorem dropTime_keySlots (s : State) : (dropTime s).keySlots = s.keySlots := rfl
@[simp] theorem dropTime_frameOwner (s : State) : (dropTime s).frameOwner = s.frameOwner := rfl
@[simp] theorem dropTime_tenancies (s : State) : (dropTime s).tenancies = s.tenancies := rfl
@[simp] theorem dropTime_cores (s : State) : (dropTime s).cores = s.cores := rfl
@[simp] theorem dropTime_casks (s : State) : (dropTime s).casks = s.casks := rfl
@[simp] theorem dropTime_counters (s : State) : (dropTime s).counters = s.counters := rfl
@[simp] theorem dropTime_warps (s : State) : (dropTime s).warps = s.warps := rfl
@[simp] theorem dropTime_wgs (s : State) : (dropTime s).wgs = s.wgs := rfl
@[simp] theorem dropTime_launches (s : State) : (dropTime s).launches = s.launches := rfl
@[simp] theorem dropTime_handles (s : State) : (dropTime s).handles = s.handles := rfl
@[simp] theorem dropTime_cpls (s : State) : (dropTime s).cpls = s.cpls := rfl
@[simp] theorem dropTime_preempts (s : State) : (dropTime s).preempts = s.preempts := rfl
@[simp] theorem dropTime_ctxs (s : State) : (dropTime s).ctxs = s.ctxs := rfl
@[simp] theorem dropTime_migs (s : State) : (dropTime s).migs = s.migs := rfl
@[simp] theorem dropTime_lanterns (s : State) : (dropTime s).lanterns = s.lanterns := rfl
@[simp] theorem dropTime_reds (s : State) : (dropTime s).reds = s.reds := rfl
@[simp] theorem dropTime_remotes (s : State) : (dropTime s).remotes = s.remotes := rfl
@[simp] theorem dropTime_cxlResp (s : State) : (dropTime s).cxlResp = s.cxlResp := rfl
@[simp] theorem dropTime_remoteResp (s : State) : (dropTime s).remoteResp = s.remoteResp := rfl
@[simp] theorem dropTime_inputs (s : State) : (dropTime s).inputs = s.inputs := rfl
@[simp] theorem dropTime_fresh (s : State) : (dropTime s).fresh = s.fresh := rfl
@[simp] theorem dropTime_cur (s : State) : (dropTime s).cur = s.cur := rfl
@[simp] theorem dropTime_nextId (s : State) : (dropTime s).nextId = s.nextId := rfl

/-! `dropName`. -/

@[simp] theorem dropName_level (s : State) : (dropName s).level = s.level := rfl
@[simp] theorem dropName_now (s : State) : (dropName s).now = s.now := rfl
@[simp] theorem dropName_dtbase (s : State) : (dropName s).dtbase = s.dtbase := rfl
@[simp] theorem dropName_tavoid (s : State) : (dropName s).tavoid = s.tavoid := rfl
@[simp] theorem dropName_gidle (s : State) : (dropName s).gidle = s.gidle := rfl
@[simp] theorem dropName_mem (s : State) : (dropName s).mem = s.mem := rfl
@[simp] theorem dropName_poison (s : State) : (dropName s).poison = s.poison := rfl
@[simp] theorem dropName_farRows (s : State) : (dropName s).farRows = s.farRows := rfl
@[simp] theorem dropName_latched (s : State) : (dropName s).latched = s.latched := rfl
@[simp] theorem dropName_sectorKeys (s : State) : (dropName s).sectorKeys = s.sectorKeys := rfl
@[simp] theorem dropName_keySlots (s : State) : (dropName s).keySlots = s.keySlots := rfl
@[simp] theorem dropName_frameOwner (s : State) : (dropName s).frameOwner = s.frameOwner := rfl
@[simp] theorem dropName_tenancies (s : State) : (dropName s).tenancies = s.tenancies := rfl
@[simp] theorem dropName_cores (s : State) : (dropName s).cores = s.cores := rfl
@[simp] theorem dropName_casks (s : State) : (dropName s).casks = s.casks := rfl
@[simp] theorem dropName_counters (s : State) : (dropName s).counters = s.counters := rfl
@[simp] theorem dropName_warps (s : State) : (dropName s).warps = s.warps := rfl
@[simp] theorem dropName_wgs (s : State) : (dropName s).wgs = s.wgs := rfl
@[simp] theorem dropName_launches (s : State) : (dropName s).launches = s.launches := rfl
@[simp] theorem dropName_handles (s : State) : (dropName s).handles = s.handles := rfl
@[simp] theorem dropName_cpls (s : State) : (dropName s).cpls = s.cpls := rfl
@[simp] theorem dropName_preempts (s : State) : (dropName s).preempts = s.preempts := rfl
@[simp] theorem dropName_ctxs (s : State) : (dropName s).ctxs = s.ctxs := rfl
@[simp] theorem dropName_migs (s : State) : (dropName s).migs = s.migs := rfl
@[simp] theorem dropName_lanterns (s : State) : (dropName s).lanterns = s.lanterns := rfl
@[simp] theorem dropName_reds (s : State) : (dropName s).reds = s.reds := rfl
@[simp] theorem dropName_remotes (s : State) : (dropName s).remotes = s.remotes := rfl
@[simp] theorem dropName_cxlResp (s : State) : (dropName s).cxlResp = s.cxlResp := rfl
@[simp] theorem dropName_remoteResp (s : State) : (dropName s).remoteResp = s.remoteResp := rfl
@[simp] theorem dropName_inputs (s : State) : (dropName s).inputs = s.inputs := rfl
@[simp] theorem dropName_times (s : State) : (dropName s).times = s.times := rfl
@[simp] theorem dropName_fresh (s : State) : (dropName s).fresh = s.fresh := rfl
@[simp] theorem dropName_cur (s : State) : (dropName s).cur = s.cur := rfl

/-! `dropFresh`. -/

@[simp] theorem dropFresh_level (s : State) : (dropFresh s).level = s.level := rfl
@[simp] theorem dropFresh_now (s : State) : (dropFresh s).now = s.now := rfl
@[simp] theorem dropFresh_dtbase (s : State) : (dropFresh s).dtbase = s.dtbase := rfl
@[simp] theorem dropFresh_tavoid (s : State) : (dropFresh s).tavoid = s.tavoid := rfl
@[simp] theorem dropFresh_gidle (s : State) : (dropFresh s).gidle = s.gidle := rfl
@[simp] theorem dropFresh_mem (s : State) : (dropFresh s).mem = s.mem := rfl
@[simp] theorem dropFresh_poison (s : State) : (dropFresh s).poison = s.poison := rfl
@[simp] theorem dropFresh_farRows (s : State) : (dropFresh s).farRows = s.farRows := rfl
@[simp] theorem dropFresh_latched (s : State) : (dropFresh s).latched = s.latched := rfl
@[simp] theorem dropFresh_sectorKeys (s : State) : (dropFresh s).sectorKeys = s.sectorKeys := rfl
@[simp] theorem dropFresh_keySlots (s : State) : (dropFresh s).keySlots = s.keySlots := rfl
@[simp] theorem dropFresh_frameOwner (s : State) : (dropFresh s).frameOwner = s.frameOwner := rfl
@[simp] theorem dropFresh_tenancies (s : State) : (dropFresh s).tenancies = s.tenancies := rfl
@[simp] theorem dropFresh_cores (s : State) : (dropFresh s).cores = s.cores := rfl
@[simp] theorem dropFresh_casks (s : State) : (dropFresh s).casks = s.casks := rfl
@[simp] theorem dropFresh_counters (s : State) : (dropFresh s).counters = s.counters := rfl
@[simp] theorem dropFresh_warps (s : State) : (dropFresh s).warps = s.warps := rfl
@[simp] theorem dropFresh_wgs (s : State) : (dropFresh s).wgs = s.wgs := rfl
@[simp] theorem dropFresh_launches (s : State) : (dropFresh s).launches = s.launches := rfl
@[simp] theorem dropFresh_handles (s : State) : (dropFresh s).handles = s.handles := rfl
@[simp] theorem dropFresh_cpls (s : State) : (dropFresh s).cpls = s.cpls := rfl
@[simp] theorem dropFresh_preempts (s : State) : (dropFresh s).preempts = s.preempts := rfl
@[simp] theorem dropFresh_ctxs (s : State) : (dropFresh s).ctxs = s.ctxs := rfl
@[simp] theorem dropFresh_migs (s : State) : (dropFresh s).migs = s.migs := rfl
@[simp] theorem dropFresh_lanterns (s : State) : (dropFresh s).lanterns = s.lanterns := rfl
@[simp] theorem dropFresh_reds (s : State) : (dropFresh s).reds = s.reds := rfl
@[simp] theorem dropFresh_remotes (s : State) : (dropFresh s).remotes = s.remotes := rfl
@[simp] theorem dropFresh_cxlResp (s : State) : (dropFresh s).cxlResp = s.cxlResp := rfl
@[simp] theorem dropFresh_remoteResp (s : State) : (dropFresh s).remoteResp = s.remoteResp := rfl
@[simp] theorem dropFresh_inputs (s : State) : (dropFresh s).inputs = s.inputs := rfl
@[simp] theorem dropFresh_times (s : State) : (dropFresh s).times = s.times := rfl
@[simp] theorem dropFresh_cur (s : State) : (dropFresh s).cur = s.cur := rfl
@[simp] theorem dropFresh_nextId (s : State) : (dropFresh s).nextId = s.nextId := rfl

/-! What the accessors read after an update. -/

@[simp] theorem setCore_cores (s : State) (c : Nat) (x : Core) : (setCore s c x).cores = tset s.cores c x := rfl
@[simp] theorem setWarp_warps (s : State) (k : Nat) (x : Warp) : (setWarp s k x).warps = tset s.warps k x := rfl
@[simp] theorem setWg_wgs (s : State) (g : Nat) (x : Workgroup) : (setWg s g x).wgs = tset s.wgs g x := rfl
@[simp] theorem setCask_casks (s : State) (c : Nat) (x : Cask) : (setCask s c x).casks = tset s.casks c x := rfl
@[simp] theorem setCounter_counters (s : State) (n : Nat) (x : Counter) : (setCounter s n x).counters = tset s.counters n x := rfl
@[simp] theorem setTen_tenancies (s : State) (t : Nat) (x : Tenancy) : (setTen s t x).tenancies = tset s.tenancies t x := rfl
@[simp] theorem dropName_nextId (s : State) : (dropName s).nextId = s.nextId + 1 := rfl
@[simp] theorem dropFresh_fresh (s : State) : (dropFresh s).fresh = s.fresh + 1 := rfl
@[simp] theorem dropTime_times (s : State) : (dropTime s).times = s.times.drop 1 := rfl

theorem coreAt_setCore (s : State) (c d : Nat) (x : Core) : coreAt (setCore s c x) d = if d = c then x else coreAt s d := by
  by_cases h : d = c <;> simp [coreAt, tgetD, tget_tset, h]

theorem warpAt_setWarp (s : State) (k j : Nat) (x : Warp) : warpAt (setWarp s k x) j = if j = k then some x else warpAt s j := by
  by_cases h : j = k <;> simp [warpAt, tget_tset, h]

theorem wgAt_setWg (s : State) (g n : Nat) (x : Workgroup) : wgAt (setWg s g x) n = if n = g then some x else wgAt s n := by
  by_cases h : n = g <;> simp [wgAt, tget_tset, h]

theorem tenAt_setTen (s : State) (t n : Nat) (x : Tenancy) : tenAt (setTen s t x) n = if n = t then some x else tenAt s n := by
  by_cases h : n = t <;> simp [tenAt, tget_tset, h]

theorem caskAt_setCask (s : State) (c d : Nat) (x : Cask) : caskAt (setCask s c x) d = if d = c then x else caskAt s d := by
  by_cases h : d = c <;> simp [caskAt, tgetD, tget_tset, h]

theorem counterAt_setCounter (s : State) (n m : Nat) (x : Counter) :
    counterAt (setCounter s n x) m = if m = n then x else counterAt s m := by
  by_cases h : m = n <;> simp [counterAt, tgetD, tget_tset, h]

/-! Changes of one warp and of one split. -/

theorem updWarp_of {s : State} {k : Nat} {w : Warp} (f : Warp → Warp) (h : warpAt s k = some w) : updWarp s k f = setWarp s k (f w) := by
  simp [updWarp, h]

theorem warpAt_updWarp_same {s : State} {k : Nat} {w : Warp} (f : Warp → Warp) (h : warpAt s k = some w) :
    warpAt (updWarp s k f) k = some (f w) := by
  simp [updWarp_of f h, warpAt_setWarp]

theorem warpAt_updWarp_ne (s : State) (k : Nat) (f : Warp → Warp) {j : Nat} (h : j ≠ k) : warpAt (updWarp s k f) j = warpAt s j := by
  unfold updWarp
  split
  · rfl
  · simp [warpAt_setWarp, h]

/-- A change of one warp changes the table of warps and nothing else. -/
theorem updWarp_rest (s : State) (k : Nat) (f : Warp → Warp) : updWarp s k f = { s with warps := (updWarp s k f).warps } := by
  unfold updWarp
  split <;> rfl

theorem updSplit_rest (s : State) (k j : Nat) (f : Split → Split) : updSplit s k j f = { s with warps := (updSplit s k j f).warps } :=
  updWarp_rest s k _

theorem Warp.updSplit_of {w : Warp} {j : Nat} {sp : Split} (f : Split → Split) (h : tget w.splits j = some sp) :
    w.updSplit j f = { w with splits := tset w.splits j (f sp) } := by
  simp [Warp.updSplit, h]

theorem Warp.updSplit_rest (w : Warp) (j : Nat) (f : Split → Split) : w.updSplit j f = { w with splits := (w.updSplit j f).splits } := by
  unfold Warp.updSplit
  split <;> rfl

theorem tget_updSplit (w : Warp) (j n : Nat) (f : Split → Split) :
    tget (w.updSplit j f).splits n = if n = j then (tget w.splits j).map f else tget w.splits n := by
  unfold Warp.updSplit
  split
  · rename_i h
    by_cases hn : n = j
    · subst hn
      simp [h]
    · simp [hn]
  · rename_i sp h
    by_cases hn : n = j <;> simp [tget_tset, hn, h]

@[simp] theorem updWarp_level (s : State) (k : Nat) (f : Warp → Warp) : (updWarp s k f).level = s.level := by
  rw [updWarp_rest]
@[simp] theorem updWarp_now (s : State) (k : Nat) (f : Warp → Warp) : (updWarp s k f).now = s.now := by
  rw [updWarp_rest]
@[simp] theorem updWarp_dtbase (s : State) (k : Nat) (f : Warp → Warp) : (updWarp s k f).dtbase = s.dtbase := by
  rw [updWarp_rest]
@[simp] theorem updWarp_tavoid (s : State) (k : Nat) (f : Warp → Warp) : (updWarp s k f).tavoid = s.tavoid := by
  rw [updWarp_rest]
@[simp] theorem updWarp_gidle (s : State) (k : Nat) (f : Warp → Warp) : (updWarp s k f).gidle = s.gidle := by
  rw [updWarp_rest]
@[simp] theorem updWarp_mem (s : State) (k : Nat) (f : Warp → Warp) : (updWarp s k f).mem = s.mem := by
  rw [updWarp_rest]
@[simp] theorem updWarp_poison (s : State) (k : Nat) (f : Warp → Warp) : (updWarp s k f).poison = s.poison := by
  rw [updWarp_rest]
@[simp] theorem updWarp_farRows (s : State) (k : Nat) (f : Warp → Warp) : (updWarp s k f).farRows = s.farRows := by
  rw [updWarp_rest]
@[simp] theorem updWarp_latched (s : State) (k : Nat) (f : Warp → Warp) : (updWarp s k f).latched = s.latched := by
  rw [updWarp_rest]
@[simp] theorem updWarp_sectorKeys (s : State) (k : Nat) (f : Warp → Warp) : (updWarp s k f).sectorKeys = s.sectorKeys := by
  rw [updWarp_rest]
@[simp] theorem updWarp_keySlots (s : State) (k : Nat) (f : Warp → Warp) : (updWarp s k f).keySlots = s.keySlots := by
  rw [updWarp_rest]
@[simp] theorem updWarp_frameOwner (s : State) (k : Nat) (f : Warp → Warp) : (updWarp s k f).frameOwner = s.frameOwner := by
  rw [updWarp_rest]
@[simp] theorem updWarp_tenancies (s : State) (k : Nat) (f : Warp → Warp) : (updWarp s k f).tenancies = s.tenancies := by
  rw [updWarp_rest]
@[simp] theorem updWarp_cores (s : State) (k : Nat) (f : Warp → Warp) : (updWarp s k f).cores = s.cores := by
  rw [updWarp_rest]
@[simp] theorem updWarp_casks (s : State) (k : Nat) (f : Warp → Warp) : (updWarp s k f).casks = s.casks := by
  rw [updWarp_rest]
@[simp] theorem updWarp_counters (s : State) (k : Nat) (f : Warp → Warp) : (updWarp s k f).counters = s.counters := by
  rw [updWarp_rest]
@[simp] theorem updWarp_wgs (s : State) (k : Nat) (f : Warp → Warp) : (updWarp s k f).wgs = s.wgs := by
  rw [updWarp_rest]
@[simp] theorem updWarp_launches (s : State) (k : Nat) (f : Warp → Warp) : (updWarp s k f).launches = s.launches := by
  rw [updWarp_rest]
@[simp] theorem updWarp_handles (s : State) (k : Nat) (f : Warp → Warp) : (updWarp s k f).handles = s.handles := by
  rw [updWarp_rest]
@[simp] theorem updWarp_cpls (s : State) (k : Nat) (f : Warp → Warp) : (updWarp s k f).cpls = s.cpls := by
  rw [updWarp_rest]
@[simp] theorem updWarp_preempts (s : State) (k : Nat) (f : Warp → Warp) : (updWarp s k f).preempts = s.preempts := by
  rw [updWarp_rest]
@[simp] theorem updWarp_ctxs (s : State) (k : Nat) (f : Warp → Warp) : (updWarp s k f).ctxs = s.ctxs := by
  rw [updWarp_rest]
@[simp] theorem updWarp_migs (s : State) (k : Nat) (f : Warp → Warp) : (updWarp s k f).migs = s.migs := by
  rw [updWarp_rest]
@[simp] theorem updWarp_lanterns (s : State) (k : Nat) (f : Warp → Warp) : (updWarp s k f).lanterns = s.lanterns := by
  rw [updWarp_rest]
@[simp] theorem updWarp_reds (s : State) (k : Nat) (f : Warp → Warp) : (updWarp s k f).reds = s.reds := by
  rw [updWarp_rest]
@[simp] theorem updWarp_remotes (s : State) (k : Nat) (f : Warp → Warp) : (updWarp s k f).remotes = s.remotes := by
  rw [updWarp_rest]
@[simp] theorem updWarp_cxlResp (s : State) (k : Nat) (f : Warp → Warp) : (updWarp s k f).cxlResp = s.cxlResp := by
  rw [updWarp_rest]
@[simp] theorem updWarp_remoteResp (s : State) (k : Nat) (f : Warp → Warp) : (updWarp s k f).remoteResp = s.remoteResp := by
  rw [updWarp_rest]
@[simp] theorem updWarp_inputs (s : State) (k : Nat) (f : Warp → Warp) : (updWarp s k f).inputs = s.inputs := by
  rw [updWarp_rest]
@[simp] theorem updWarp_times (s : State) (k : Nat) (f : Warp → Warp) : (updWarp s k f).times = s.times := by
  rw [updWarp_rest]
@[simp] theorem updWarp_fresh (s : State) (k : Nat) (f : Warp → Warp) : (updWarp s k f).fresh = s.fresh := by
  rw [updWarp_rest]
@[simp] theorem updWarp_cur (s : State) (k : Nat) (f : Warp → Warp) : (updWarp s k f).cur = s.cur := by
  rw [updWarp_rest]
@[simp] theorem updWarp_nextId (s : State) (k : Nat) (f : Warp → Warp) : (updWarp s k f).nextId = s.nextId := by
  rw [updWarp_rest]

@[simp] theorem updSplit_level (s : State) (k j : Nat) (f : Split → Split) : (updSplit s k j f).level = s.level := by
  rw [updSplit_rest]
@[simp] theorem updSplit_now (s : State) (k j : Nat) (f : Split → Split) : (updSplit s k j f).now = s.now := by
  rw [updSplit_rest]
@[simp] theorem updSplit_dtbase (s : State) (k j : Nat) (f : Split → Split) : (updSplit s k j f).dtbase = s.dtbase := by
  rw [updSplit_rest]
@[simp] theorem updSplit_tavoid (s : State) (k j : Nat) (f : Split → Split) : (updSplit s k j f).tavoid = s.tavoid := by
  rw [updSplit_rest]
@[simp] theorem updSplit_gidle (s : State) (k j : Nat) (f : Split → Split) : (updSplit s k j f).gidle = s.gidle := by
  rw [updSplit_rest]
@[simp] theorem updSplit_mem (s : State) (k j : Nat) (f : Split → Split) : (updSplit s k j f).mem = s.mem := by
  rw [updSplit_rest]
@[simp] theorem updSplit_poison (s : State) (k j : Nat) (f : Split → Split) : (updSplit s k j f).poison = s.poison := by
  rw [updSplit_rest]
@[simp] theorem updSplit_farRows (s : State) (k j : Nat) (f : Split → Split) : (updSplit s k j f).farRows = s.farRows := by
  rw [updSplit_rest]
@[simp] theorem updSplit_latched (s : State) (k j : Nat) (f : Split → Split) : (updSplit s k j f).latched = s.latched := by
  rw [updSplit_rest]
@[simp] theorem updSplit_sectorKeys (s : State) (k j : Nat) (f : Split → Split) : (updSplit s k j f).sectorKeys = s.sectorKeys := by
  rw [updSplit_rest]
@[simp] theorem updSplit_keySlots (s : State) (k j : Nat) (f : Split → Split) : (updSplit s k j f).keySlots = s.keySlots := by
  rw [updSplit_rest]
@[simp] theorem updSplit_frameOwner (s : State) (k j : Nat) (f : Split → Split) : (updSplit s k j f).frameOwner = s.frameOwner := by
  rw [updSplit_rest]
@[simp] theorem updSplit_tenancies (s : State) (k j : Nat) (f : Split → Split) : (updSplit s k j f).tenancies = s.tenancies := by
  rw [updSplit_rest]
@[simp] theorem updSplit_cores (s : State) (k j : Nat) (f : Split → Split) : (updSplit s k j f).cores = s.cores := by
  rw [updSplit_rest]
@[simp] theorem updSplit_casks (s : State) (k j : Nat) (f : Split → Split) : (updSplit s k j f).casks = s.casks := by
  rw [updSplit_rest]
@[simp] theorem updSplit_counters (s : State) (k j : Nat) (f : Split → Split) : (updSplit s k j f).counters = s.counters := by
  rw [updSplit_rest]
@[simp] theorem updSplit_wgs (s : State) (k j : Nat) (f : Split → Split) : (updSplit s k j f).wgs = s.wgs := by
  rw [updSplit_rest]
@[simp] theorem updSplit_launches (s : State) (k j : Nat) (f : Split → Split) : (updSplit s k j f).launches = s.launches := by
  rw [updSplit_rest]
@[simp] theorem updSplit_handles (s : State) (k j : Nat) (f : Split → Split) : (updSplit s k j f).handles = s.handles := by
  rw [updSplit_rest]
@[simp] theorem updSplit_cpls (s : State) (k j : Nat) (f : Split → Split) : (updSplit s k j f).cpls = s.cpls := by
  rw [updSplit_rest]
@[simp] theorem updSplit_preempts (s : State) (k j : Nat) (f : Split → Split) : (updSplit s k j f).preempts = s.preempts := by
  rw [updSplit_rest]
@[simp] theorem updSplit_ctxs (s : State) (k j : Nat) (f : Split → Split) : (updSplit s k j f).ctxs = s.ctxs := by
  rw [updSplit_rest]
@[simp] theorem updSplit_migs (s : State) (k j : Nat) (f : Split → Split) : (updSplit s k j f).migs = s.migs := by
  rw [updSplit_rest]
@[simp] theorem updSplit_lanterns (s : State) (k j : Nat) (f : Split → Split) : (updSplit s k j f).lanterns = s.lanterns := by
  rw [updSplit_rest]
@[simp] theorem updSplit_reds (s : State) (k j : Nat) (f : Split → Split) : (updSplit s k j f).reds = s.reds := by
  rw [updSplit_rest]
@[simp] theorem updSplit_remotes (s : State) (k j : Nat) (f : Split → Split) : (updSplit s k j f).remotes = s.remotes := by
  rw [updSplit_rest]
@[simp] theorem updSplit_cxlResp (s : State) (k j : Nat) (f : Split → Split) : (updSplit s k j f).cxlResp = s.cxlResp := by
  rw [updSplit_rest]
@[simp] theorem updSplit_remoteResp (s : State) (k j : Nat) (f : Split → Split) : (updSplit s k j f).remoteResp = s.remoteResp := by
  rw [updSplit_rest]
@[simp] theorem updSplit_inputs (s : State) (k j : Nat) (f : Split → Split) : (updSplit s k j f).inputs = s.inputs := by
  rw [updSplit_rest]
@[simp] theorem updSplit_times (s : State) (k j : Nat) (f : Split → Split) : (updSplit s k j f).times = s.times := by
  rw [updSplit_rest]
@[simp] theorem updSplit_fresh (s : State) (k j : Nat) (f : Split → Split) : (updSplit s k j f).fresh = s.fresh := by
  rw [updSplit_rest]
@[simp] theorem updSplit_cur (s : State) (k j : Nat) (f : Split → Split) : (updSplit s k j f).cur = s.cur := by
  rw [updSplit_rest]
@[simp] theorem updSplit_nextId (s : State) (k j : Nat) (f : Split → Split) : (updSplit s k j f).nextId = s.nextId := by
  rw [updSplit_rest]

end Sys2Proof.Machine
end

