-- ==== Sys2Proof/Laws/Frames.lean ====
section
/-! SUPPORT. What the shared operations over memory, rings and translations leave alone. -/

namespace Sys2Proof.Machine

theorem AccessFrame.refl (s : State) : AccessFrame s s := ⟨rfl, fun _ => rfl⟩

theorem AccessFrame.of {s : State} (m : List Host.Cell) (p : List Nat) (la : List (Nat × List Byte)) (k : Table (Nat × Nat)) (f : Nat) (te : Table Tenancy)
    (w : Table Workgroup) (ti : List Nat) :
    AccessFrame s { s with mem := m, poison := p, latched := la, sectorKeys := k, fresh := f, tenancies := te, wgs := w, times := ti } :=
  ⟨rfl, fun _ => rfl⟩

theorem AccessFrame.setCore (s : State) (c : Nat) (x : Core)
    (h : { x with
      tlb := (coreAt s c).tlb, walks := (coreAt s c).walks, gatedAt := (coreAt s c).gatedAt, idleSince := (coreAt s c).idleSince
      wakeAt := (coreAt s c).wakeAt } = coreAt s c) :
    AccessFrame s (setCore s c x) := by
  refine ⟨rfl, fun d => ?_⟩
  rw [coreAt_setCore]
  split
  · rename_i e
    subst e
    exact h
  · rfl

theorem dropTime_frame (s : State) : AccessFrame s (dropTime s) := .of ..

theorem AccessFrame.elim {s t : State} (h : AccessFrame s t) : ∃ m p la k f te c w ti,
    t = { s with mem := m, poison := p, latched := la, sectorKeys := k, fresh := f, tenancies := te, cores := c, wgs := w, times := ti } :=
  ⟨_, _, _, _, _, _, _, _, _, h.rest⟩

theorem AccessFrame.trans {s t u : State} (h : AccessFrame s t) (h' : AccessFrame t u) : AccessFrame s u := by
  refine ⟨?_, fun c => ?_⟩
  · obtain ⟨_, _, _, _, _, _, _, _, _, rfl⟩ := h.elim
    obtain ⟨_, _, _, _, _, _, _, _, _, rfl⟩ := h'.elim
    rfl
  · have e := h'.cores c
    rw [← h.cores c, ← e]

theorem AccessFrame.brew {s t : State} (h : AccessFrame s t) (c : Nat) : (coreAt t c).brew = (coreAt s c).brew := by
  rw [← h.cores c]

theorem AccessFrame.warps {s t : State} (h : AccessFrame s t) : t.warps = s.warps := by rw [h.rest]
theorem AccessFrame.now {s t : State} (h : AccessFrame s t) : t.now = s.now := by rw [h.rest]
theorem AccessFrame.nextId {s t : State} (h : AccessFrame s t) : t.nextId = s.nextId := by rw [h.rest]
theorem AccessFrame.warpAt {s t : State} (h : AccessFrame s t) (k : Nat) : warpAt t k = warpAt s k := by
  unfold Machine.warpAt
  rw [h.warps]

theorem AccessFrame.foldl {α : Type} (f : State → α → State) (hf : ∀ s a, AccessFrame s (f s a)) (l : List α) (s : State) :
    AccessFrame s (l.foldl f s) := by
  induction l generalizing s with
  | nil => exact .refl s
  | cons a l ih => exact (hf s a).trans (ih _)

theorem scramble_frame (s : State) (sec : Nat) : AccessFrame s (scramble s sec) := .of ..

theorem rekey_frame (s : State) (key : Option (Nat × Nat)) (sec : Nat) : AccessFrame s (rekey s key sec) := by
  unfold rekey
  simp only
  split
  · exact .refl _
  · split
    · exact (scramble_frame s sec).trans (.of ..)
    · exact .of ..

theorem writeVia_frame (s : State) (key : Option (Nat × Nat)) (loc : Nat) (x : Byte) : AccessFrame s (writeVia s key loc x) := by
  unfold writeVia
  exact (rekey_frame s key (sectorOf loc)).trans (.of ..)

theorem writeBytes_frame (s : State) (key : Option (Nat × Nat)) (loc : Nat) (xs : List Byte) :
    AccessFrame s (writeBytes s key loc xs) := by
  induction xs generalizing s loc with
  | nil => exact .refl s
  | cons x xs ih => exact (writeVia_frame s key loc x).trans (ih _ _)

theorem noteBound_frame (s : State) (rq : Req) (c off : Nat) : AccessFrame s (noteBound s rq c off) := by
  unfold noteBound
  simp only
  split
  · exact .of ..
  · exact .refl _

theorem wakeCore_frame (s : State) (c : Nat) : AccessFrame s (wakeCore s c) := by
  unfold wakeCore
  simp only
  split
  · split
    · exact AccessFrame.setCore s c _ rfl
    · refine AccessFrame.trans ?_ (dropTime_frame _)
      exact .setCore _ _ _ rfl
  · exact .refl _
  · split
    · exact AccessFrame.setCore s c _ rfl
    · exact .refl _

theorem touch_frame (s : State) (rq : Req) (va : DWord) (l : Option Leaf) : AccessFrame s (touch s rq va l) := by
  unfold touch
  split
  · split
    · exact (noteBound_frame _ _ _ _).trans (wakeCore_frame _ _)
    · exact .refl _
  · simp only
    split
    · exact .of ..
    · exact AccessFrame.trans (.of ..) (AccessFrame.setCore _ _ _ rfl)

theorem putBytes_frame (s : State) (key : Option (Nat × Nat)) (loc : Nat) (xs : List Byte) :
    AccessFrame s (putBytes s key loc xs) := by
  unfold putBytes
  split
  · exact .of ..
  · exact writeBytes_frame s key loc xs

theorem applyLatched_frame (s : State) (c : Nat) : AccessFrame s (applyLatched s c) :=
  AccessFrame.trans (.of ..) (AccessFrame.foldl _ (fun s (e : Nat × List Byte) => writeBytes_frame s none e.1 e.2) _ _)

theorem chunkWrite_frame (s : State) (cs : List Chunk) (bs : List Byte) : AccessFrame s (chunkWrite s cs bs) :=
  AccessFrame.foldl _ (fun s _ => putBytes_frame s _ _ _) cs s

theorem touchAll_frame (s : State) (rq : Req) (va : DWord) (cs : List Chunk) : AccessFrame s (touchAll s rq va cs) :=
  AccessFrame.foldl _ (fun s _ => touch_frame s _ _ _) cs s

theorem setTen_frame (s : State) (ten : Nat) (x : Tenancy) : AccessFrame s (setTen s ten x) := .of ..

theorem ringStore_frame (s : State) (ten : Nat) (rk : RingKind) : AccessFrame s (ringStore s ten rk) := by
  unfold ringStore
  split
  · exact .refl _
  · simp only
    split
    · exact .refl _
    · split
      · exact .refl _
      · split
        · exact .refl _
        · split
          · exact (touchAll_frame _ _ _ _).trans (chunkWrite_frame _ _ _)
          · exact ((touchAll_frame _ _ _ _).trans (chunkWrite_frame _ _ _)).trans (setTen_frame _ _ _)

theorem ringDrain_frame (n : Nat) (s : State) (ten : Nat) (rk : RingKind) : AccessFrame s (ringDrain s ten rk n) := by
  induction n generalizing s with
  | zero => exact .refl s
  | succ n ih => exact (ringStore_frame s ten rk).trans (ih _)

theorem ringPush_frame (s : State) (ten : Nat) (rk : RingKind) (r : List Byte) : AccessFrame s (ringPush s ten rk r) := by
  unfold ringPush
  split
  · exact .refl _
  · exact (setTen_frame s ten _).trans (ringDrain_frame _ _ _ _)

theorem putFault_frame (s : State) (f : FaultInfo) : AccessFrame s (putFault s f) := by
  unfold putFault
  split
  · exact .refl _
  · exact (setTen_frame s _ _).trans (ringPush_frame _ _ _ _)

theorem putFaults_frame (s : State) (fs : List FaultInfo) : AccessFrame s (putFaults s fs).1 := by
  induction fs generalizing s with
  | nil => exact .refl s
  | cons f r ih => exact (putFault_frame s f).trans (ih _)

theorem countOne_frame (s : State) (ten asid kind loc : Nat) (va : DWord) : AccessFrame s (countOne s ten asid kind loc va) := by
  unfold countOne
  split
  · exact .refl _
  · simp only
    split
    · exact (AccessFrame.of (s := s) _ _ _ _ _ _ _ _).trans (ringPush_frame _ _ _ _)
    · exact AccessFrame.of ..

theorem countAll_frame (s : State) (ten asid : Nat) (l : List (Nat × Nat × Nat × DWord)) : AccessFrame s (countAll s ten asid l) := by
  induction l generalizing s with
  | nil => exact .refl s
  | cons e r ih =>
    obtain ⟨a, b, c, d⟩ := e
    unfold countAll
    split
    · exact ih _
    · exact (countOne_frame s ten asid b c d).trans (ih _)

theorem storeNow_frame {s t : State} {rq : Req} {va : DWord} {bs : List Byte} {cs : List Chunk}
    (h : storeNow s rq va bs = .ok (cs, t)) : AccessFrame s t := by
  unfold storeNow at h
  split at h
  · cases h
  · cases h
    exact ((touchAll_frame _ _ _ _).trans (chunkWrite_frame _ _ _)).trans (countAll_frame _ _ _ _)

theorem loadNow_frame {s t : State} {rq : Req} {va : DWord} {n : Nat} {bs : List Byte} (h : loadNow s rq va n = .ok (bs, t)) :
    AccessFrame s t := by
  unfold loadNow at h
  split at h
  · cases h
  · split at h
    · cases h
    · cases h
      exact (touchAll_frame _ _ _ _).trans (countAll_frame _ _ _ _)

theorem readCode_frame {s t : State} {cx : Cx} {pc : DWord} {lit : Bool} {w : Word} (h : readCode s cx pc lit = .ok (w, t)) :
    AccessFrame s t := by
  unfold readCode at h
  simp only at h
  split at h
  · cases h
  · cases h
  · split at h
    · cases h
    · cases h
      split
      · exact touchAll_frame _ _ _ _
      · exact (touchAll_frame _ _ _ _).trans (countAll_frame _ _ _ _)

theorem fetchWord_frame {s t : State} {cx : Cx} {pc : DWord} {w : Word} (h : fetchWord s cx pc = .ok (w, t)) : AccessFrame s t :=
  readCode_frame h

theorem readLits_frame {s t : State} {cx : Cx} {n : Nat} {pc : DWord} {ls : List Word} (h : readLits cx n pc s = .ok (ls, t)) :
    AccessFrame s t := by
  induction n generalizing s t pc ls with
  | zero =>
    cases h
    exact .refl _
  | succ n ih =>
    unfold readLits at h
    split at h
    · cases h
    · rename_i x s1 h1
      split at h
      · cases h
      · rename_i xs s2 h2
        cases h
        exact (readCode_frame h1).trans (ih h2)

/-- Literals are those the split holds, and nothing changes; or some are read, and beside what the way to memory changes only the split
holds more words (R43, R198). -/
theorem fetchLits_cases {s t : State} {cx : Cx} {n : Nat} {ls : List Word} (h : fetchLits cx n s = .ok (ls, t)) :
    t = s ∨ ∃ u xs, AccessFrame s u
      ∧ t = updSplit u cx.k cx.j fun sp => { sp with clause := sp.clause.map fun cl => cl.hold xs } := by
  unfold fetchLits at h
  simp only at h
  split at h
  · cases h
    exact .inl rfl
  · split at h
    · cases h
    · rename_i xs u h1
      cases h
      exact .inr ⟨u, xs, readLits_frame h1, rfl⟩

end Sys2Proof.Machine
end

