-- ==== Sys2Proof/Laws/Issue.lean ====
section
/-! SUPPORT. What the issue of a word does: one lemma for `runWord`, and what a word that goes on leaves of its warp. -/

namespace Sys2Proof.Machine

/-- What bars a trap, as the machine tests it. -/
theorem bars_iff (w : Warp) (j : Nat) : w.bars j = true ↔ Barred w j := by
  have h1 : w.onRing = true ↔ ∃ q, w.park = some (.trapRing q) := by
    unfold Warp.onRing
    split <;> simp_all
  have h2 : w.handled j = true ↔ ∃ h, w.handler = some h ∧ h ≠ j := by
    unfold Warp.handled
    split <;> simp_all
  simp only [Warp.bars, Bool.or_eq_true, h1, h2, Barred, Warp.outside, Bool.and_eq_true, decide_eq_true_eq, List.any_eq_true, Prod.exists]
  constructor
  · rintro ((h | h) | ⟨hp, a, sp, hm, rfl, hg⟩)
    · exact .inl h
    · exact .inr (.inl h)
    · exact .inr (.inr ⟨hp, sp, hm, hg⟩)
  · rintro (h | h | ⟨hp, sp, hm, hg⟩)
    · exact .inl (.inl h)
    · exact .inl (.inr h)
    · exact .inr ⟨hp, j, sp, hm, rfl, hg⟩

/-- The split that a deferred trap's rule names is the one the machine takes. -/
theorem takerOf_of_canTake {w : Warp} {d : DeferredTrap} {j : Nat} (hw : tableWf w.splits = true) (h : CanTake w d j) :
    takerOf w d = j := by
  by_cases hp : w.park = some .exiting
  · rw [takerOf, if_pos hp, h.exit hp]
  rw [takerOf, if_neg hp]
  by_cases ho : ((tget w.splits d.split).isSome || w.holds d.split) = true
  · rw [if_pos ho]
    refine (h.own hp ?_).symm
    simpa [Warp.holds, Option.isSome_iff_exists, Option.ne_none_iff_exists'] using ho
  · rw [if_neg ho]
    have hn : tget w.splits d.split = none ∧ ∀ r ∈ w.spills, r.joinAt ≠ none → r.owner ≠ d.split := by
      simpa [Warp.holds, ← Option.isSome_iff_ne_none] using ho
    obtain ⟨sp, hs, _⟩ := h.runs
    have hl := h.lowest hp hn.1 hn.2
    generalize w.splits = t at hw hs hl
    cases t with
    | nil => simp [tget] at hs
    | cons e r =>
      exact Nat.le_antisymm (head_le_of_mem hw (mem_of_tget hs)) (hl e (List.mem_cons_self ..))

/-- THE ISSUE OF A WORD whose meaning goes on. -/
theorem runWord_of_issues {rule : IssueRule} {excl : Bool} {i : Instr} {s t : State} {cx : Cx} {ls : List Word}
    (h : Issues rule excl i s cx ls t) {body : Cx → List Word → State → Except Stop (State × Next)} {s3 : State} {nx : Next}
    (hb : body cx ls (useSlot rule t cx.k) = .ok (s3, nx)) :
    runWord rule excl i s body = .next (finishNext s3 cx (litCount i) nx) := by
  have hr : ¬ wordsLeft cx.sp < litCount i + 1 := Nat.not_lt.mpr h.room
  obtain ⟨u, hl, rfl⟩ := h.lits
  unfold entered at hb
  simp only [runWord, h.focus, h.active, h.legal, hr, hl]
  simp [hb]

/-- The issue of a word whose meaning stops; `u` is the state with its literals read. -/
theorem runWord_of_stop {rule : IssueRule} {excl : Bool} {i : Instr} {s u : State} {cx : Cx} {ls : List Word} (hf : focus s = some cx)
    (ha : wordLanes rule s cx ≠ 0) (hg : legal i = true) (hr : litCount i + 1 ≤ wordsLeft cx.sp)
    (hl : fetchLits cx (litCount i) (unpark s cx) = .ok (ls, u)) {body : Cx → List Word → State → Except Stop (State × Next)} {e : Stop}
    (hb : body cx ls (useSlot rule (entered excl u cx) cx.k) = .error e) :
    runWord rule excl i s body = finishStop (spendSlot rule u cx) (entered excl u cx) cx (litCount i) e := by
  have hr' : ¬ wordsLeft cx.sp < litCount i + 1 := Nat.not_lt.mpr hr
  unfold entered at hb ⊢
  simp only [runWord, hf, ha, hg, hr', hl]
  simp [hb]

/-- The lanes of a word that its guard binds are among those it runs in (R55). -/
theorem wordLanes_ne_zero {s : State} {cx : Cx} (rule : IssueRule) (h : eff s cx ≠ 0) : wordLanes rule s cx ≠ 0 := by
  unfold wordLanes
  split
  · intro h0
    exact h (by unfold eff; rw [h0]; exact BitVec.zero_and)
  · exact h

/-- No literal is read where a word has none. -/
@[simp] theorem fetchLits_zero (cx : Cx) (s : State) : fetchLits cx 0 s = .ok ([], s) := rfl

/-- A word without literals that is ready issues. -/
theorem Ready.issues {i : Instr} {s : State} {cx : Cx} (h : Ready i s cx) (hn : litCount i = 0) (rule : IssueRule) (excl : Bool) :
    Issues rule excl i s cx [] (entered excl (unpark s cx) cx) where
  focus := h.focus
  active := wordLanes_ne_zero rule h.active
  legal := h.legal
  room := by rw [hn]; exact h.room
  lits := ⟨unpark s cx, by rw [hn]; rfl, rfl⟩

/-! The split in focus. -/

theorem focus_warp {s : State} {cx : Cx} (h : focus s = some cx) :
    warpAt s cx.k = some cx.w ∧ tget cx.w.splits cx.j = some cx.sp ∧ wgAt s cx.w.wg = some cx.g := by
  unfold focus at h
  split at h
  · cases h
  · rename_i k j _
    unfold cxAt at h
    split at h
    · cases h
    · rename_i w hw
      split at h
      · rename_i sp g hs hg
        cases h
        exact ⟨hw, hs, hg⟩
      · cases h

theorem warpAt_unpark {s : State} {cx : Cx} (h : focus s = some cx) :
    warpAt (unpark s cx) cx.k
      = some { cx.base with splits := tset cx.w.splits cx.j { cx.sp with park := .running } } := by
  obtain ⟨hw, hs, _⟩ := focus_warp h
  unfold unpark
  rw [warpAt_updWarp_same _ hw, Warp.updSplit_of _ (show tget (cx.w.retried cx.j).splits cx.j = some cx.sp from hs)]
  rfl

theorem warpAt_unpark_ne (s : State) (cx : Cx) {k : Nat} (h : k ≠ cx.k) : warpAt (unpark s cx) k = warpAt s k :=
  warpAt_updWarp_ne _ _ _ h

/-! Exclusive groups that end change groups and nothing else. -/

theorem tget_mapGroups (t : Table Split) (d n : Nat) :
    (tget (t.map fun e => if e.2.group = d then (e.1, { e.2 with group := d - 1 }) else e) n).map Split.core
      = (tget t n).map Split.core := by
  induction t with
  | nil => rfl
  | cons e r ih =>
    obtain ⟨j, sp⟩ := e
    by_cases hg : sp.group = d <;> by_cases hj : j = n <;> simp [tget, hg, hj, ih, Split.core]

/-- `w'` is `w` but for the groups of its splits. -/
def Regrouped (w w' : Warp) : Prop :=
  w' = { w with groups := w'.groups, splits := w'.splits }
    ∧ ∀ n, (tget w'.splits n).map Split.core = (tget w.splits n).map Split.core

theorem endGroups_regrouped (n : Nat) (w : Warp) : Regrouped w (endGroups n w) := by
  induction n generalizing w with
  | zero => exact ⟨rfl, fun _ => rfl⟩
  | succ n ih =>
    unfold endGroups
    split
    · exact ⟨rfl, fun _ => rfl⟩
    · rename_i st0 rest hg
      split
      · obtain ⟨h1, h2⟩ := ih { w with
          groups := rest
          splits := w.splits.map fun e =>
            if e.2.group = w.groups.length then (e.1, { e.2 with group := w.groups.length - 1 }) else e }
        refine ⟨?_, fun n => ?_⟩
        · rw [h1]
        · rw [h2 n]
          exact tget_mapGroups _ _ _
      · exact ⟨rfl, fun _ => rfl⟩

theorem warpAt_afterWord {s : State} {k : Nat} {w : Warp} (h : warpAt s k = some w) :
    warpAt (afterWord s k) k = some (endGroups w.groups.length w) := warpAt_updWarp_same _ h

theorem afterWord_rest (s : State) (k : Nat) : afterWord s k = { s with warps := (afterWord s k).warps } := updWarp_rest _ _ _

theorem core_some {t : Table Split} {n : Nat} {sp : Split} {x : Option Split} (h : (tget t n).map Split.core = x.map Split.core)
    (hx : x = some sp) : ∃ sp', tget t n = some sp' ∧ sp'.core = sp.core := by
  subst hx
  cases ht : tget t n with
  | none => rw [ht] at h; cases h
  | some y => rw [ht] at h; exact ⟨y, rfl, by simpa using h⟩

/-- A split but for its group, its latches and what it holds of its clause. -/
def Split.stance (sp : Split) : Split := { sp.core with clause := none }

theorem stance_of_core {a b : Split} (h : a.core = b.core) : a.stance = b.stance :=
  congrArg (fun x : Split => { x with clause := none }) h

theorem advance_stance (sp : Split) (now n : Nat) : (sp.advance now n).stance = (sp.stance.advance now n).stance := rfl

theorem jump_stance (sp : Split) (now : Nat) (pc : DWord) : (sp.jump now pc).stance = (sp.stance.jump now pc).stance := rfl

/-- A word that moves its split: what is left of its warp. -/
theorem finishNext_moved {s : State} {cx : Cx} {w : Warp} {sp : Split} (f : Split → Split) (hw : warpAt s cx.k = some w)
    (hs : tget w.splits cx.j = some sp) :
    ∃ w', warpAt (afterWord (updSplit s cx.k cx.j f) cx.k) cx.k = some w' ∧ w' = { w with groups := w'.groups, splits := w'.splits }
      ∧ (∃ sp', tget w'.splits cx.j = some sp' ∧ sp'.stance = (f sp).stance)
      ∧ ∀ j, j ≠ cx.j → (tget w'.splits j).map Split.core = (tget w.splits j).map Split.core := by
  have h1 : warpAt (updSplit s cx.k cx.j f) cx.k = some (w.updSplit cx.j f) := warpAt_updWarp_same _ hw
  have h2 := warpAt_afterWord h1
  have hu := Warp.updSplit_of f hs
  obtain ⟨e1, e2⟩ := endGroups_regrouped (w.updSplit cx.j f).groups.length (w.updSplit cx.j f)
  refine ⟨_, h2, ?_, ?_, ?_⟩
  · rw [e1]
    rw [hu]
  · obtain ⟨sp2, hs2, hc2⟩ := core_some (e2 cx.j) (sp := f sp) (by rw [tget_updSplit]; simp [hs])
    exact ⟨sp2, hs2, stance_of_core hc2⟩
  · intro j hj
    rw [e2 j, tget_updSplit]
    simp [hj]

/-- A word that goes on with its next word. -/
theorem finishNext_seq {s : State} {cx : Cx} {w : Warp} {sp : Split} (n : Nat) (hw : warpAt s cx.k = some w)
    (hs : tget w.splits cx.j = some sp) :
    ∃ w', warpAt (finishNext s cx n .seq) cx.k = some w' ∧ w' = { w with groups := w'.groups, splits := w'.splits }
      ∧ (∃ sp', tget w'.splits cx.j = some sp' ∧ sp'.stance = (sp.advance s.now n).stance)
      ∧ ∀ j, j ≠ cx.j → (tget w'.splits j).map Split.core = (tget w.splits j).map Split.core :=
  finishNext_moved (fun sp => sp.advance s.now n) hw hs

/-- A taken transfer. -/
theorem finishNext_jump {s : State} {cx : Cx} {w : Warp} {sp : Split} (n : Nat) (pc : DWord) (hw : warpAt s cx.k = some w)
    (hs : tget w.splits cx.j = some sp) :
    ∃ w', warpAt (finishNext s cx n (.jump pc)) cx.k = some w' ∧ w' = { w with groups := w'.groups, splits := w'.splits }
      ∧ (∃ sp', tget w'.splits cx.j = some sp' ∧ sp'.stance = (sp.jump s.now pc).stance)
      ∧ ∀ j, j ≠ cx.j → (tget w'.splits j).map Split.core = (tget w.splits j).map Split.core :=
  finishNext_moved (fun sp => sp.jump s.now pc) hw hs

theorem finishNext_warpAt_ne (s : State) (cx : Cx) (n : Nat) (nx : Next) {k : Nat} (h : k ≠ cx.k) :
    warpAt (finishNext s cx n nx) k = warpAt s k := by
  cases nx <;> simp only [finishNext, afterWord, updSplit] <;> repeat rw [warpAt_updWarp_ne _ _ _ h]

theorem finishNext_rest (s : State) (cx : Cx) (n : Nat) (nx : Next) :
    finishNext s cx n nx = { s with warps := (finishNext s cx n nx).warps } := by
  cases nx <;> simp only [finishNext] <;> rw [afterWord_rest] <;> first | rfl | (rw [updSplit_rest]) | (rw [updWarp_rest])

/-! The scalar slot. -/

theorem useScalar_rest (s : State) (k : Nat) : useScalar s k = { s with cores := (useScalar s k).cores } := rfl

@[simp] theorem warpAt_useScalar (s : State) (k j : Nat) : warpAt (useScalar s k) j = warpAt s j := rfl

theorem setQuad_core (s : State) (c q : Nat) (x : Quad) (d : Nat) :
    { coreAt (setQuad s c q x) d with quads := (coreAt s d).quads } = coreAt s d := by
  unfold setQuad
  rw [coreAt_setCore]
  split
  · rename_i h
    subst h
    rfl
  · rfl

theorem OnlySlots.refl (s : State) : OnlySlots s s := fun _ _ => rfl

theorem OnlySlots.trans {s t u : State} (h : OnlySlots s t) (h' : OnlySlots t u) : OnlySlots s u := by
  intro c q
  rw [← h c q, ← h' c q]

theorem OnlySlots.of_cores {s t u : State} (h : OnlySlots s t) (hc : u.cores = t.cores) : OnlySlots s u := by
  intro c q
  have e : quadAt u c q = quadAt t c q := by unfold quadAt coreAt; rw [hc]
  rw [e]
  exact h c q

/-- A quadrant whose booking alone has changed. -/
theorem OnlySlots.setQuad (s : State) (c q : Nat) (x : Quad)
    (h : { x with passes := (quadAt s c q).passes, scalarAt := (quadAt s c q).scalarAt } = quadAt s c q) :
    OnlySlots s (setQuad s c q x) := by
  intro d r
  unfold quadAt at h ⊢
  unfold Machine.setQuad
  rw [coreAt_setCore]
  split
  · rename_i hd
    subst hd
    simp only [List.getD_eq_getElem?_getD, List.getElem?_set] at h ⊢
    split
    · rename_i hq
      subst hq
      split
      · exact h
      · rename_i hl
        simp [List.getElem?_eq_none (Nat.le_of_not_lt hl)]
    · rfl
  · rfl

theorem useScalar_slots (s : State) (k : Nat) : OnlySlots s (useScalar s k) := OnlySlots.setQuad _ _ _ _ rfl

theorem bookPasses_slots (s : State) (k : Nat) (ps : List Pass) : OnlySlots s (bookPasses s k ps) := OnlySlots.setQuad _ _ _ _ rfl

/-! Results. -/

theorem unlatch_rest (w : Warp) (d : Dest) : w.unlatch d = { w with splits := (w.unlatch d).splits } := by
  unfold Warp.unlatch
  split <;> rfl

theorem unlatch_core (w : Warp) (d : Dest) (n : Nat) :
    (tget (w.unlatch d).splits n).map Split.core = (tget w.splits n).map Split.core := by
  unfold Warp.unlatch
  split
  · rfl
  · rename_i m _
    refine Eq.trans (congrArg _ (tget_map w.splits
      (fun sp : Split => { sp with latches := sp.latches.map fun l => if l = some m then none else l }) n)) ?_
    cases tget w.splits n <;> rfl

theorem notePresence_rest (w : Warp) (d : Dest) : notePresence w d = { w with deferPresence := (notePresence w d).deferPresence } := by
  unfold notePresence
  split
  · split <;> rfl
  · rfl

/-! A write of a brew slot empties latches of other warps, and nothing else (R35). -/

theorem unlatchOthers_rest (s : State) (k : Nat) (d : Dest) : unlatchOthers s k d = { s with warps := (unlatchOthers s k d).warps } := by
  cases d <;> rfl

theorem unlatchOthers_warp (s : State) (k : Nat) (d : Dest) (n : Nat) :
    warpAt (unlatchOthers s k d) n = warpAt s n ∨ n ≠ k ∧ warpAt (unlatchOthers s k d) n = (warpAt s n).map fun w => w.unlatch d := by
  cases d <;> try exact .inl rfl
  rename_i sl
  unfold unlatchOthers warpAt
  simp only
  generalize s.warps = t
  induction t with
  | nil => exact .inl rfl
  | cons e r ih =>
    obtain ⟨j, y⟩ := e
    by_cases hj : j = n
    · subst hj
      by_cases hk : j = k
      · left
        simp [tget, hk]
      · by_cases hc : coreOfSlot j = coreOfSlot k
        · right
          simp [tget, hk, hc]
        · left
          simp [tget, hc]
    · rw [List.map_cons]
      split <;> simpa [tget, hj] using ih

theorem unlatchOthers_same (s : State) (k : Nat) (d : Dest) : warpAt (unlatchOthers s k d) k = warpAt s k :=
  (unlatchOthers_warp s k d k).resolve_right fun h => h.1 rfl

theorem unlatchOthers_plain (s : State) (k : Nat) {d : Dest} (h : ∀ n, d ≠ .brew n) : unlatchOthers s k d = s := by
  cases d <;> first | rfl | exact absurd rfl (h _)

theorem unlatch_untimed (w : Warp) (sl : Nat) : (w.unlatch (.brew sl)).untimed = w.untimed := by
  unfold Warp.unlatch Warp.untimed
  simp only [latchOf, List.map_map]
  congr 1
  apply List.map_congr_left
  intro e _
  simp only [Function.comp, Split.noBrewLatches, List.map_map]
  congr 2
  apply List.map_congr_left
  intro l _
  simp only [Function.comp]
  split
  · rename_i h
    subst h
    simp [Option.filter]
  · rfl

/-- Of the other warps it changes no more than what stands in their latches of brew registers. -/
theorem unlatchOthers_untimed (s : State) (k : Nat) (d : Dest) (n : Nat) :
    (warpAt (unlatchOthers s k d) n).map Warp.untimed = (warpAt s n).map Warp.untimed := by
  by_cases hb : ∀ sl, d ≠ .brew sl
  · rw [unlatchOthers_plain s k hb]
  · obtain ⟨sl, hd⟩ : ∃ sl, d = .brew sl := by simpa using hb
    subst hd
    rcases unlatchOthers_warp s k (.brew sl) n with h | ⟨_, h⟩
    · rw [h]
    · rw [h]
      cases warpAt s n <;> simp [unlatch_untimed]

/-- A short-latency result: the warp with one more pending write, its registers as they were. -/
theorem emit_warp {s : State} {k : Nat} {w : Warp} (j : Nat) (d : Dest) (x : Payload) (m : Mask) (lat : Nat) (hw : warpAt s k = some w)
    (hd : d ≠ .none) :
    ∃ w', warpAt (emit s k j d x m lat) k = some w'
      ∧ w' = { w with pend := w'.pend, splits := w'.splits, deferPresence := w'.deferPresence }
      ∧ Results w w' d x m (s.now + lat)
      ∧ ∀ n, (tget w'.splits n).map Split.core = (tget w.splits n).map Split.core := by
  let w1 := (notePresence w d).unlatch d
  have h1 : w1 = { w with splits := w1.splits, deferPresence := w1.deferPresence } := by
    obtain ⟨dp, hdp⟩ : ∃ dp, notePresence w d = { w with deferPresence := dp } := ⟨_, notePresence_rest w d⟩
    obtain ⟨ss, hss⟩ : ∃ ss, (notePresence w d).unlatch d = { notePresence w d with splits := ss } := ⟨_, unlatch_rest _ d⟩
    simp only [w1]
    rw [hss, hdp]
  have h2 : warpAt (emit s k j d x m lat) k = some { w1 with pend := w1.pend ++ [pendOf s w1 j d x m lat] } := by
    unfold emit
    show warpAt (updWarp (unlatchOthers s k d) k _) k = _
    rw [warpAt_updWarp_same _ ((unlatchOthers_same s k d).trans hw)]
    cases d <;> first | exact absurd rfl hd | rfl
  refine ⟨_, h2, ?_, ⟨pendOf s w1 j d x m lat, ?_, rfl, rfl, rfl, rfl⟩, ?_⟩
  · rw [h1]
  · show w1.pend ++ _ = _
    rw [h1]
  · intro n
    show (tget ((notePresence w d).unlatch d).splits n).map Split.core = _
    rw [unlatch_core, notePresence_rest]

theorem emit_warpAt_ne (s : State) (k j : Nat) {d : Dest} (hb : ∀ sl, d ≠ .brew sl) (x : Payload) (m : Mask) (lat : Nat) {n : Nat}
    (h : n ≠ k) : warpAt (emit s k j d x m lat) n = warpAt s n := by
  unfold emit
  rw [unlatchOthers_plain s k hb]
  exact warpAt_updWarp_ne _ _ _ h

theorem emit_untimed_ne (s : State) (k j : Nat) (d : Dest) (x : Payload) (m : Mask) (lat : Nat) {n : Nat} (h : n ≠ k) :
    (warpAt (emit s k j d x m lat) n).map Warp.untimed = (warpAt s n).map Warp.untimed := by
  unfold emit
  refine Eq.trans (congrArg _ (warpAt_updWarp_ne _ _ _ h)) (unlatchOthers_untimed s k d n)

theorem emit_rest (s : State) (k j : Nat) (d : Dest) (x : Payload) (m : Mask) (lat : Nat) :
    emit s k j d x m lat = { s with warps := (emit s k j d x m lat).warps, nextId := s.nextId + 1 } := by
  unfold emit dropName
  rw [updWarp_rest, unlatchOthers_rest]

/-! What a word reads in its slot's state is what it reads in the state before. -/

theorem coreAt_unpark (s : State) (cx : Cx) (c : Nat) : coreAt (unpark s cx) c = coreAt s c := by
  unfold coreAt
  rw [unpark, updWarp_cores]

theorem useScalar_core (s : State) (k c : Nat) : { coreAt (useScalar s k) c with quads := (coreAt s c).quads } = coreAt s c :=
  setQuad_core s (coreOfSlot k) (quadOfSlot k) _ c

theorem readS_fresh {s t : State} (h : t.fresh = s.fresh) (w : Warp) (n : Nat) : readS t w n = readS s w n := by
  unfold readS
  rw [h]

/-- The effective mask depends on the active brew alone. -/
theorem eff_brew {s t : State} {cx : Cx} (h : (coreAt t (coreOfSlot cx.k)).brew = (coreAt s (coreOfSlot cx.k)).brew) :
    eff t cx = eff s cx := by
  have hb : brewOf t cx.k = brewOf s cx.k := h
  have hs : ∀ i, stagePred t cx.k cx.w i = stagePred s cx.k cx.w i := by
    intro i
    unfold stagePred
    rw [hb]
  unfold eff guardMask
  simp only [hs]

@[simp] theorem readS_slot (s : State) (cx : Cx) (w : Warp) (n : Nat) : readS (useScalar (unpark s cx) cx.k) w n = readS s w n :=
  readS_fresh (by rw [useScalar_rest, unpark, updWarp_rest]) w n

@[simp] theorem eff_slot (s : State) (cx : Cx) : eff (useScalar (unpark s cx) cx.k) cx = eff s cx := by
  apply eff_brew
  have h := congrArg Core.brew (useScalar_core (unpark s cx) cx.k (coreOfSlot cx.k))
  rw [coreAt_unpark] at h
  exact h

end Sys2Proof.Machine
end

