-- ==== Sys2Proof/Laws/PerInstr.lean ====
section
/-! SUPPORT. Decoding gives back what was encoded, instruction by instruction: the fields of the three word classes, then one
lemma for each constructor. -/

namespace Sys2Proof.Laws

theorem append_toNat {m n : Nat} (x : BitVec m) (y : BitVec n) : (x ++ y).toNat = x.toNat * 2 ^ n + y.toNat := by
  rw [BitVec.toNat_append, ← Nat.shiftLeft_add_eq_or_of_lt y.isLt, Nat.shiftLeft_eq]

theorem wordV_toNat (op : BitVec 9) (d a b : BitVec 7) :
    (wordV op d a b).toNat = op.toNat * 2 ^ 21 + d.toNat * 2 ^ 14 + a.toNat * 2 ^ 7 + b.toNat := by
  unfold wordV
  rw [append_toNat, append_toNat, append_toNat, append_toNat]
  simp
  omega

theorem wordQ_toNat (op : BitVec 2) (d a b c : BitVec 7) :
    (wordQ op d a b c).toNat = 2 ^ 30 + op.toNat * 2 ^ 28 + d.toNat * 2 ^ 21 + a.toNat * 2 ^ 14 + b.toNat * 2 ^ 7 + c.toNat := by
  unfold wordQ
  rw [append_toNat, append_toNat, append_toNat, append_toNat, append_toNat]
  simp
  omega

theorem wordS_toNat (op : BitVec 8) (s : BitVec 6) (imm : BitVec 16) :
    (wordS op s imm).toNat = 2 ^ 31 + op.toNat * 2 ^ 22 + s.toNat * 2 ^ 16 + imm.toNat := by
  unfold wordS
  rw [append_toNat, append_toNat, append_toNat]
  simp
  omega

/-- A field of a word by its number. -/
theorem field_eq {n k : Nat} {w : Word} {x : BitVec n} (h : w.toNat / 2 ^ k % 2 ^ n = x.toNat) : w.extractLsb' k n = x := by
  apply BitVec.eq_of_toNat_eq
  rw [BitVec.extractLsb'_toNat, Nat.shiftRight_eq_div_pow, h]

theorem decodeWord_wordV (op : BitVec 9) (d a b : BitVec 7) :
    decodeWord (wordV op d a b) = decodeV op.toNat d a b (wordV op d a b) := by
  have h := wordV_toNat op d a b
  have := op.isLt; have := d.isLt; have := a.isLt; have := b.isLt
  have h0 : (wordV op d a b).extractLsb' 30 2 = 0#2 := field_eq (by rw [h]; simp; omega)
  have h1 : (wordV op d a b).extractLsb' 21 9 = op := field_eq (by rw [h]; omega)
  have h2 : (wordV op d a b).extractLsb' 14 7 = d := field_eq (by rw [h]; omega)
  have h3 : (wordV op d a b).extractLsb' 7 7 = a := field_eq (by rw [h]; omega)
  have h4 : (wordV op d a b).extractLsb' 0 7 = b := field_eq (by rw [h]; omega)
  simp only [decodeWord, h0, h1, h2, h3, h4]
  rfl

theorem decodeWord_wordQ (op : BitVec 2) (d a b c : BitVec 7) :
    decodeWord (wordQ op d a b c) = decodeQ op.toNat d a b c := by
  have h := wordQ_toNat op d a b c
  have := op.isLt; have := d.isLt; have := a.isLt; have := b.isLt; have := c.isLt
  have h0 : (wordQ op d a b c).extractLsb' 30 2 = 1#2 := field_eq (by rw [h]; simp; omega)
  have h1 : (wordQ op d a b c).extractLsb' 28 2 = op := field_eq (by rw [h]; omega)
  have h2 : (wordQ op d a b c).extractLsb' 21 7 = d := field_eq (by rw [h]; omega)
  have h3 : (wordQ op d a b c).extractLsb' 14 7 = a := field_eq (by rw [h]; omega)
  have h4 : (wordQ op d a b c).extractLsb' 7 7 = b := field_eq (by rw [h]; omega)
  have h5 : (wordQ op d a b c).extractLsb' 0 7 = c := field_eq (by rw [h]; omega)
  simp only [decodeWord, h0, h1, h2, h3, h4, h5]
  rfl

theorem decodeWord_wordS (op : BitVec 8) (s : BitVec 6) (imm : BitVec 16) :
    decodeWord (wordS op s imm) = decodeS op.toNat s imm (wordS op s imm) := by
  have h := wordS_toNat op s imm
  have := op.isLt; have := s.isLt; have := imm.isLt
  have h0 : (wordS op s imm).extractLsb' 30 2 = 2#2 := field_eq (by rw [h]; simp; omega)
  have h1 : (wordS op s imm).extractLsb' 22 8 = op := field_eq (by rw [h]; omega)
  have h2 : (wordS op s imm).extractLsb' 16 6 = s := field_eq (by rw [h]; omega)
  have h3 : (wordS op s imm).extractLsb' 0 16 = imm := field_eq (by rw [h]; omega)
  simp only [decodeWord, h0, h1, h2, h3]
  rfl

theorem decodeV_unassigned (n : Nat) (d a b : BitVec 7) (w : Word) (h : inRanges n unassignedV = true) :
    decodeV n d a b w = .unassignedOpcode w := by
  unfold decodeV
  split <;> first | rfl | exact absurd h (by decide)

theorem decodeS_unassigned (n : Nat) (s : BitVec 6) (imm : BitVec 16) (w : Word) (h : inRanges n unassignedS = true) :
    decodeS n s imm w = .unassignedOpcode w := by
  unfold decodeS
  split <;> first | rfl | exact absurd h (by decide)

/-- The four bytes of a word give the word back (R4). -/
theorem wordOfBytes_bytes (w : Word) :
    wordOfBytes (w.extractLsb' 0 8) (w.extractLsb' 8 8) (w.extractLsb' 16 8) (w.extractLsb' 24 8) = w := by
  apply BitVec.eq_of_toNat_eq
  have := w.isLt
  unfold wordOfBytes
  rw [append_toNat, append_toNat, append_toNat]
  simp only [BitVec.extractLsb'_toNat, Nat.shiftRight_eq_div_pow]
  omega

theorem decode_bytesOfWord (w : Word) (rest : List Byte) : decode (bytesOfWord w ++ rest) = .ok (decodeWord w, rest) := by
  simp only [bytesOfWord, List.cons_append, List.nil_append, decode, wordOfBytes_bytes]

namespace Roundtrip

/-- A well-formed instruction that has a word is the one its word decodes to. -/
def Statement (i : Instr) : Prop := i.wellFormed = true → ∀ w, encodeWord i = some w → decodeWord w = i

theorem ofV {i : Instr} (op : BitVec 9) (d a b : BitVec 7) (he : encodeWord i = some (wordV op d a b))
    (hd : decodeV op.toNat d a b (wordV op d a b) = i) : Statement i := by
  intro _ w h
  rw [he] at h
  cases h
  rw [decodeWord_wordV, hd]

theorem ofQ {i : Instr} (op : BitVec 2) (d a b c : BitVec 7) (he : encodeWord i = some (wordQ op d a b c))
    (hd : decodeQ op.toNat d a b c = i) : Statement i := by
  intro _ w h
  rw [he] at h
  cases h
  rw [decodeWord_wordQ, hd]

theorem ofS {i : Instr} (op : BitVec 8) (s : BitVec 6) (imm : BitVec 16) (he : encodeWord i = some (wordS op s imm))
    (hd : i.wellFormed = true → decodeS op.toNat s imm (wordS op s imm) = i) : Statement i := by
  intro hw w h
  rw [he] at h
  cases h
  rw [decodeWord_wordS, hd hw]

/-- An event has no word. -/
theorem ofEvent {i : Instr} (he : encodeWord i = none) : Statement i := by
  intro _ w h
  rw [he] at h
  cases h

/-- NOP. -/
theorem nop (d a b : BitVec 7) : Statement (.nop d a b) := ofV 0x000 d a b rfl rfl

/-- VADD. -/
theorem vadd (d a b : BitVec 7) : Statement (.vadd d a b) := ofV 0x001 d a b rfl rfl

/-- VSUB. -/
theorem vsub (d a b : BitVec 7) : Statement (.vsub d a b) := ofV 0x002 d a b rfl rfl

/-- VMUL. -/
theorem vmul (d a b : BitVec 7) : Statement (.vmul d a b) := ofV 0x003 d a b rfl rfl

/-- VMIN. -/
theorem vmin (d a b : BitVec 7) : Statement (.vmin d a b) := ofV 0x004 d a b rfl rfl

/-- VMAX. -/
theorem vmax (d a b : BitVec 7) : Statement (.vmax d a b) := ofV 0x005 d a b rfl rfl

/-- VABSD. -/
theorem vabsd (d a b : BitVec 7) : Statement (.vabsd d a b) := ofV 0x006 d a b rfl rfl

/-- VAND. -/
theorem vand (d a b : BitVec 7) : Statement (.vand d a b) := ofV 0x008 d a b rfl rfl

/-- VOR. -/
theorem vor (d a b : BitVec 7) : Statement (.vor d a b) := ofV 0x009 d a b rfl rfl

/-- VXOR. -/
theorem vxor (d a b : BitVec 7) : Statement (.vxor d a b) := ofV 0x00A d a b rfl rfl

/-- VANDN. -/
theorem vandn (d a b : BitVec 7) : Statement (.vandn d a b) := ofV 0x00B d a b rfl rfl

/-- VSHL. -/
theorem vshl (d a b : BitVec 7) : Statement (.vshl d a b) := ofV 0x00C d a b rfl rfl

/-- VSHR. -/
theorem vshr (d a b : BitVec 7) : Statement (.vshr d a b) := ofV 0x00D d a b rfl rfl

/-- VSRA. -/
theorem vsra (d a b : BitVec 7) : Statement (.vsra d a b) := ofV 0x00E d a b rfl rfl

/-- VCMP_EQ. -/
theorem vcmpEq (d a b : BitVec 7) : Statement (.vcmpEq d a b) := ofV 0x010 d a b rfl rfl

/-- VCMP_NE. -/
theorem vcmpNe (d a b : BitVec 7) : Statement (.vcmpNe d a b) := ofV 0x011 d a b rfl rfl

/-- VCMP_LT. -/
theorem vcmpLt (d a b : BitVec 7) : Statement (.vcmpLt d a b) := ofV 0x012 d a b rfl rfl

/-- VCMP_LE. -/
theorem vcmpLe (d a b : BitVec 7) : Statement (.vcmpLe d a b) := ofV 0x013 d a b rfl rfl

/-- VCMP_GT. -/
theorem vcmpGt (d a b : BitVec 7) : Statement (.vcmpGt d a b) := ofV 0x014 d a b rfl rfl

/-- VCMP_GE. -/
theorem vcmpGe (d a b : BitVec 7) : Statement (.vcmpGe d a b) := ofV 0x015 d a b rfl rfl

/-- VCMP_UN. -/
theorem vcmpUn (d a b : BitVec 7) : Statement (.vcmpUn d a b) := ofV 0x016 d a b rfl rfl

/-- VCMP_ORD. -/
theorem vcmpOrd (d a b : BitVec 7) : Statement (.vcmpOrd d a b) := ofV 0x017 d a b rfl rfl

/-- VCVT. -/
theorem vcvt (d a b : BitVec 7) : Statement (.vcvt d a b) := ofV 0x018 d a b rfl rfl

/-- VRCP. -/
theorem vrcp (d a b : BitVec 7) : Statement (.vrcp d a b) := ofV 0x020 d a b rfl rfl

/-- VRSQ. -/
theorem vrsq (d a b : BitVec 7) : Statement (.vrsq d a b) := ofV 0x021 d a b rfl rfl

/-- VSQRT. -/
theorem vsqrt (d a b : BitVec 7) : Statement (.vsqrt d a b) := ofV 0x022 d a b rfl rfl

/-- VEX2. -/
theorem vex2 (d a b : BitVec 7) : Statement (.vex2 d a b) := ofV 0x023 d a b rfl rfl

/-- VLG2. -/
theorem vlg2 (d a b : BitVec 7) : Statement (.vlg2 d a b) := ofV 0x024 d a b rfl rfl

/-- VSIN. -/
theorem vsin (d a b : BitVec 7) : Statement (.vsin d a b) := ofV 0x025 d a b rfl rfl

/-- VCOS. -/
theorem vcos (d a b : BitVec 7) : Statement (.vcos d a b) := ofV 0x026 d a b rfl rfl

/-- VTNH. -/
theorem vtnh (d a b : BitVec 7) : Statement (.vtnh d a b) := ofV 0x027 d a b rfl rfl

/-- VSHUP. -/
theorem vshup (d a b : BitVec 7) : Statement (.vshup d a b) := ofV 0x028 d a b rfl rfl

/-- VSHDN. -/
theorem vshdn (d a b : BitVec 7) : Statement (.vshdn d a b) := ofV 0x029 d a b rfl rfl

/-- VSHXOR. -/
theorem vshxor (d a b : BitVec 7) : Statement (.vshxor d a b) := ofV 0x02A d a b rfl rfl

/-- VSHIDX. -/
theorem vshidx (d a b : BitVec 7) : Statement (.vshidx d a b) := ofV 0x02B d a b rfl rfl

/-- VLRED_ADD. -/
theorem vlredAdd (d a b : BitVec 7) : Statement (.vlredAdd d a b) := ofV 0x030 d a b rfl rfl

/-- VLRED_MIN. -/
theorem vlredMin (d a b : BitVec 7) : Statement (.vlredMin d a b) := ofV 0x031 d a b rfl rfl

/-- VLRED_MAX. -/
theorem vlredMax (d a b : BitVec 7) : Statement (.vlredMax d a b) := ofV 0x032 d a b rfl rfl

/-- VLRED_AND. -/
theorem vlredAnd (d a b : BitVec 7) : Statement (.vlredAnd d a b) := ofV 0x033 d a b rfl rfl

/-- VLRED_OR. -/
theorem vlredOr (d a b : BitVec 7) : Statement (.vlredOr d a b) := ofV 0x034 d a b rfl rfl

/-- VLRED_XOR. -/
theorem vlredXor (d a b : BitVec 7) : Statement (.vlredXor d a b) := ofV 0x035 d a b rfl rfl

/-- VSCAN_ADD. -/
theorem vscanAdd (d a b : BitVec 7) : Statement (.vscanAdd d a b) := ofV 0x036 d a b rfl rfl

/-- VSCAN_MAX. -/
theorem vscanMax (d a b : BitVec 7) : Statement (.vscanMax d a b) := ofV 0x037 d a b rfl rfl

/-- VPOPC. -/
theorem vpopc (d a b : BitVec 7) : Statement (.vpopc d a b) := ofV 0x038 d a b rfl rfl

/-- VCLZ. -/
theorem vclz (d a b : BitVec 7) : Statement (.vclz d a b) := ofV 0x039 d a b rfl rfl

/-- VBREV. -/
theorem vbrev (d a b : BitVec 7) : Statement (.vbrev d a b) := ofV 0x03A d a b rfl rfl

/-- VPKLO. -/
theorem vpklo (d a b : BitVec 7) : Statement (.vpklo d a b) := ofV 0x03C d a b rfl rfl

/-- VPKHI. -/
theorem vpkhi (d a b : BitVec 7) : Statement (.vpkhi d a b) := ofV 0x03D d a b rfl rfl

/-- VUNLO. -/
theorem vunlo (d a b : BitVec 7) : Statement (.vunlo d a b) := ofV 0x03E d a b rfl rfl

/-- VUNHI. -/
theorem vunhi (d a b : BitVec 7) : Statement (.vunhi d a b) := ofV 0x03F d a b rfl rfl

/-- VLD_B. -/
theorem vldB (d a b : BitVec 7) : Statement (.vldB d a b) := ofV 0x040 d a b rfl rfl

/-- VLD_H. -/
theorem vldH (d a b : BitVec 7) : Statement (.vldH d a b) := ofV 0x041 d a b rfl rfl

/-- VLD_W. -/
theorem vldW (d a b : BitVec 7) : Statement (.vldW d a b) := ofV 0x042 d a b rfl rfl

/-- VLD_D. -/
theorem vldD (d a b : BitVec 7) : Statement (.vldD d a b) := ofV 0x043 d a b rfl rfl

/-- VLD_Q. -/
theorem vldQ (d a b : BitVec 7) : Statement (.vldQ d a b) := ofV 0x044 d a b rfl rfl

/-- VST_B. -/
theorem vstB (d a b : BitVec 7) : Statement (.vstB d a b) := ofV 0x048 d a b rfl rfl

/-- VST_H. -/
theorem vstH (d a b : BitVec 7) : Statement (.vstH d a b) := ofV 0x049 d a b rfl rfl

/-- VST_W. -/
theorem vstW (d a b : BitVec 7) : Statement (.vstW d a b) := ofV 0x04A d a b rfl rfl

/-- VST_D. -/
theorem vstD (d a b : BitVec 7) : Statement (.vstD d a b) := ofV 0x04B d a b rfl rfl

/-- VST_Q. -/
theorem vstQ (d a b : BitVec 7) : Statement (.vstQ d a b) := ofV 0x04C d a b rfl rfl

/-- LDF_A. -/
theorem ldfA (d a b : BitVec 7) : Statement (.ldfA d a b) := ofV 0x050 d a b rfl rfl

/-- LDF_B. -/
theorem ldfB (d a b : BitVec 7) : Statement (.ldfB d a b) := ofV 0x051 d a b rfl rfl

/-- LDF_C. -/
theorem ldfC (d a b : BitVec 7) : Statement (.ldfC d a b) := ofV 0x052 d a b rfl rfl

/-- STF_C. -/
theorem stfC (d a b : BitVec 7) : Statement (.stfC d a b) := ofV 0x053 d a b rfl rfl

/-- VLDA_WG. -/
theorem vldaWg (d a b : BitVec 7) : Statement (.vldaWg d a b) := ofV 0x058 d a b rfl rfl

/-- VLDA_DIE. -/
theorem vldaDie (d a b : BitVec 7) : Statement (.vldaDie d a b) := ofV 0x059 d a b rfl rfl

/-- VLDA_PKG. -/
theorem vldaPkg (d a b : BitVec 7) : Statement (.vldaPkg d a b) := ofV 0x05A d a b rfl rfl

/-- VLDA_DOM. -/
theorem vldaDom (d a b : BitVec 7) : Statement (.vldaDom d a b) := ofV 0x05B d a b rfl rfl

/-- VSTR_WG. -/
theorem vstrWg (d a b : BitVec 7) : Statement (.vstrWg d a b) := ofV 0x05C d a b rfl rfl

/-- VSTR_DIE. -/
theorem vstrDie (d a b : BitVec 7) : Statement (.vstrDie d a b) := ofV 0x05D d a b rfl rfl

/-- VSTR_PKG. -/
theorem vstrPkg (d a b : BitVec 7) : Statement (.vstrPkg d a b) := ofV 0x05E d a b rfl rfl

/-- VSTR_DOM. -/
theorem vstrDom (d a b : BitVec 7) : Statement (.vstrDom d a b) := ofV 0x05F d a b rfl rfl

/-- VATOM_WG_ADD. -/
theorem vatomWgAdd (d a b : BitVec 7) : Statement (.vatomWgAdd d a b) := ofV 0x060 d a b rfl rfl

/-- VATOM_WG_MIN. -/
theorem vatomWgMin (d a b : BitVec 7) : Statement (.vatomWgMin d a b) := ofV 0x061 d a b rfl rfl

/-- VATOM_WG_MAX. -/
theorem vatomWgMax (d a b : BitVec 7) : Statement (.vatomWgMax d a b) := ofV 0x062 d a b rfl rfl

/-- VATOM_WG_AND. -/
theorem vatomWgAnd (d a b : BitVec 7) : Statement (.vatomWgAnd d a b) := ofV 0x063 d a b rfl rfl

/-- VATOM_WG_OR. -/
theorem vatomWgOr (d a b : BitVec 7) : Statement (.vatomWgOr d a b) := ofV 0x064 d a b rfl rfl

/-- VATOM_WG_XOR. -/
theorem vatomWgXor (d a b : BitVec 7) : Statement (.vatomWgXor d a b) := ofV 0x065 d a b rfl rfl

/-- VATOM_WG_XCHG. -/
theorem vatomWgXchg (d a b : BitVec 7) : Statement (.vatomWgXchg d a b) := ofV 0x066 d a b rfl rfl

/-- VATOM_WG_CAS. -/
theorem vatomWgCas (d a b : BitVec 7) : Statement (.vatomWgCas d a b) := ofV 0x067 d a b rfl rfl

/-- VATOM_DIE_ADD. -/
theorem vatomDieAdd (d a b : BitVec 7) : Statement (.vatomDieAdd d a b) := ofV 0x068 d a b rfl rfl

/-- VATOM_DIE_MIN. -/
theorem vatomDieMin (d a b : BitVec 7) : Statement (.vatomDieMin d a b) := ofV 0x069 d a b rfl rfl

/-- VATOM_DIE_MAX. -/
theorem vatomDieMax (d a b : BitVec 7) : Statement (.vatomDieMax d a b) := ofV 0x06A d a b rfl rfl

/-- VATOM_DIE_AND. -/
theorem vatomDieAnd (d a b : BitVec 7) : Statement (.vatomDieAnd d a b) := ofV 0x06B d a b rfl rfl

/-- VATOM_DIE_OR. -/
theorem vatomDieOr (d a b : BitVec 7) : Statement (.vatomDieOr d a b) := ofV 0x06C d a b rfl rfl

/-- VATOM_DIE_XOR. -/
theorem vatomDieXor (d a b : BitVec 7) : Statement (.vatomDieXor d a b) := ofV 0x06D d a b rfl rfl

/-- VATOM_DIE_XCHG. -/
theorem vatomDieXchg (d a b : BitVec 7) : Statement (.vatomDieXchg d a b) := ofV 0x06E d a b rfl rfl

/-- VATOM_DIE_CAS. -/
theorem vatomDieCas (d a b : BitVec 7) : Statement (.vatomDieCas d a b) := ofV 0x06F d a b rfl rfl

/-- VATOM_PKG_ADD. -/
theorem vatomPkgAdd (d a b : BitVec 7) : Statement (.vatomPkgAdd d a b) := ofV 0x070 d a b rfl rfl

/-- VATOM_PKG_MIN. -/
theorem vatomPkgMin (d a b : BitVec 7) : Statement (.vatomPkgMin d a b) := ofV 0x071 d a b rfl rfl

/-- VATOM_PKG_MAX. -/
theorem vatomPkgMax (d a b : BitVec 7) : Statement (.vatomPkgMax d a b) := ofV 0x072 d a b rfl rfl

/-- VATOM_PKG_AND. -/
theorem vatomPkgAnd (d a b : BitVec 7) : Statement (.vatomPkgAnd d a b) := ofV 0x073 d a b rfl rfl

/-- VATOM_PKG_OR. -/
theorem vatomPkgOr (d a b : BitVec 7) : Statement (.vatomPkgOr d a b) := ofV 0x074 d a b rfl rfl

/-- VATOM_PKG_XOR. -/
theorem vatomPkgXor (d a b : BitVec 7) : Statement (.vatomPkgXor d a b) := ofV 0x075 d a b rfl rfl

/-- VATOM_PKG_XCHG. -/
theorem vatomPkgXchg (d a b : BitVec 7) : Statement (.vatomPkgXchg d a b) := ofV 0x076 d a b rfl rfl

/-- VATOM_PKG_CAS. -/
theorem vatomPkgCas (d a b : BitVec 7) : Statement (.vatomPkgCas d a b) := ofV 0x077 d a b rfl rfl

/-- VATOM_DOM_ADD. -/
theorem vatomDomAdd (d a b : BitVec 7) : Statement (.vatomDomAdd d a b) := ofV 0x078 d a b rfl rfl

/-- VATOM_DOM_MIN. -/
theorem vatomDomMin (d a b : BitVec 7) : Statement (.vatomDomMin d a b) := ofV 0x079 d a b rfl rfl

/-- VATOM_DOM_MAX. -/
theorem vatomDomMax (d a b : BitVec 7) : Statement (.vatomDomMax d a b) := ofV 0x07A d a b rfl rfl

/-- VATOM_DOM_AND. -/
theorem vatomDomAnd (d a b : BitVec 7) : Statement (.vatomDomAnd d a b) := ofV 0x07B d a b rfl rfl

/-- VATOM_DOM_OR. -/
theorem vatomDomOr (d a b : BitVec 7) : Statement (.vatomDomOr d a b) := ofV 0x07C d a b rfl rfl

/-- VATOM_DOM_XOR. -/
theorem vatomDomXor (d a b : BitVec 7) : Statement (.vatomDomXor d a b) := ofV 0x07D d a b rfl rfl

/-- VATOM_DOM_XCHG. -/
theorem vatomDomXchg (d a b : BitVec 7) : Statement (.vatomDomXchg d a b) := ofV 0x07E d a b rfl rfl

/-- VATOM_DOM_CAS. -/
theorem vatomDomCas (d a b : BitVec 7) : Statement (.vatomDomCas d a b) := ofV 0x07F d a b rfl rfl

/-- NMRED_ADD. -/
theorem nmredAdd (d a b : BitVec 7) : Statement (.nmredAdd d a b) := ofV 0x080 d a b rfl rfl

/-- NMRED_MIN. -/
theorem nmredMin (d a b : BitVec 7) : Statement (.nmredMin d a b) := ofV 0x081 d a b rfl rfl

/-- NMRED_MAX. -/
theorem nmredMax (d a b : BitVec 7) : Statement (.nmredMax d a b) := ofV 0x082 d a b rfl rfl

/-- MMA. -/
theorem mma (d a b : BitVec 7) : Statement (.mma d a b) := ofV 0x088 d a b rfl rfl

/-- MMAC. -/
theorem mmac (d a b : BitVec 7) : Statement (.mmac d a b) := ofV 0x089 d a b rfl rfl

/-- MMAZ. -/
theorem mmaz (d a b : BitVec 7) : Statement (.mmaz d a b) := ofV 0x08A d a b rfl rfl

/-- HCVT. -/
theorem hcvt (d a b : BitVec 7) : Statement (.hcvt d a b) := ofV 0x090 d a b rfl rfl

/-- HCVTB. -/
theorem hcvtb (d a b : BitVec 7) : Statement (.hcvtb d a b) := ofV 0x091 d a b rfl rfl

/-- HEXP. -/
theorem hexp (d a b : BitVec 7) : Statement (.hexp d a b) := ofV 0x092 d a b rfl rfl

/-- HADD. -/
theorem hadd (d a b : BitVec 7) : Statement (.hadd d a b) := ofV 0x093 d a b rfl rfl

/-- HSUB. -/
theorem hsub (d a b : BitVec 7) : Statement (.hsub d a b) := ofV 0x094 d a b rfl rfl

/-- HNEG. -/
theorem hneg (d a b : BitVec 7) : Statement (.hneg d a b) := ofV 0x095 d a b rfl rfl

/-- HSCL. -/
theorem hscl (d a b : BitVec 7) : Statement (.hscl d a b) := ofV 0x096 d a b rfl rfl

/-- HDOT. -/
theorem hdot (d a b : BitVec 7) : Statement (.hdot d a b) := ofV 0x097 d a b rfl rfl

/-- HDOTN. -/
theorem hdotn (d a b : BitVec 7) : Statement (.hdotn d a b) := ofV 0x098 d a b rfl rfl

/-- HROT. -/
theorem hrot (d a b : BitVec 7) : Statement (.hrot d a b) := ofV 0x099 d a b rfl rfl

/-- SADD. -/
theorem sadd (d a b : BitVec 7) : Statement (.sadd d a b) := ofV 0x0A0 d a b rfl rfl

/-- SSUB. -/
theorem ssub (d a b : BitVec 7) : Statement (.ssub d a b) := ofV 0x0A1 d a b rfl rfl

/-- SMUL. -/
theorem smul (d a b : BitVec 7) : Statement (.smul d a b) := ofV 0x0A2 d a b rfl rfl

/-- SAND. -/
theorem sand (d a b : BitVec 7) : Statement (.sand d a b) := ofV 0x0A3 d a b rfl rfl

/-- SOR. -/
theorem sor (d a b : BitVec 7) : Statement (.sor d a b) := ofV 0x0A4 d a b rfl rfl

/-- SXOR. -/
theorem sxor (d a b : BitVec 7) : Statement (.sxor d a b) := ofV 0x0A5 d a b rfl rfl

/-- SSHL. -/
theorem sshl (d a b : BitVec 7) : Statement (.sshl d a b) := ofV 0x0A6 d a b rfl rfl

/-- SSHR. -/
theorem sshr (d a b : BitVec 7) : Statement (.sshr d a b) := ofV 0x0A7 d a b rfl rfl

/-- SSRA. -/
theorem ssra (d a b : BitVec 7) : Statement (.ssra d a b) := ofV 0x0A8 d a b rfl rfl

/-- SMIN. -/
theorem smin (d a b : BitVec 7) : Statement (.smin d a b) := ofV 0x0A9 d a b rfl rfl

/-- SMAX. -/
theorem smax (d a b : BitVec 7) : Statement (.smax d a b) := ofV 0x0AA d a b rfl rfl

/-- SCMP_EQ. -/
theorem scmpEq (d a b : BitVec 7) : Statement (.scmpEq d a b) := ofV 0x0B0 d a b rfl rfl

/-- SCMP_NE. -/
theorem scmpNe (d a b : BitVec 7) : Statement (.scmpNe d a b) := ofV 0x0B1 d a b rfl rfl

/-- SCMP_LT. -/
theorem scmpLt (d a b : BitVec 7) : Statement (.scmpLt d a b) := ofV 0x0B2 d a b rfl rfl

/-- SCMP_LE. -/
theorem scmpLe (d a b : BitVec 7) : Statement (.scmpLe d a b) := ofV 0x0B3 d a b rfl rfl

/-- SCMP_GT. -/
theorem scmpGt (d a b : BitVec 7) : Statement (.scmpGt d a b) := ofV 0x0B4 d a b rfl rfl

/-- SCMP_GE. -/
theorem scmpGe (d a b : BitVec 7) : Statement (.scmpGe d a b) := ofV 0x0B5 d a b rfl rfl

/-- SCMP_LTU. -/
theorem scmpLtu (d a b : BitVec 7) : Statement (.scmpLtu d a b) := ofV 0x0B6 d a b rfl rfl

/-- SCMP_GEU. -/
theorem scmpGeu (d a b : BitVec 7) : Statement (.scmpGeu d a b) := ofV 0x0B7 d a b rfl rfl

/-- VCALLI. -/
theorem vcalli (d a b : BitVec 7) : Statement (.vcalli d a b) := ofV 0x0C0 d a b rfl rfl

/-- PAND. -/
theorem pand (d a b : BitVec 7) : Statement (.pand d a b) := ofV 0x0C8 d a b rfl rfl

/-- POR. -/
theorem por (d a b : BitVec 7) : Statement (.por d a b) := ofV 0x0C9 d a b rfl rfl

/-- PXOR. -/
theorem pxor (d a b : BitVec 7) : Statement (.pxor d a b) := ofV 0x0CA d a b rfl rfl

/-- PANDN. -/
theorem pandn (d a b : BitVec 7) : Statement (.pandn d a b) := ofV 0x0CB d a b rfl rfl

/-- FMA. -/
theorem fma (d a b c : BitVec 7) : Statement (.fma d a b c) := ofQ 0 d a b c rfl rfl

/-- FMS. -/
theorem fms (d a b c : BitVec 7) : Statement (.fms d a b c) := ofQ 1 d a b c rfl rfl

/-- SEL. -/
theorem sel (d a b c : BitVec 7) : Statement (.sel d a b c) := ofQ 2 d a b c rfl rfl

/-- IMAD. -/
theorem imad (d a b c : BitVec 7) : Statement (.imad d a b c) := ofQ 3 d a b c rfl rfl

/-- SMOVI. -/
theorem smovi (s : BitVec 6) (imm : BitVec 16) : Statement (.smovi s imm) := ofS 0x00 s imm rfl fun _ => rfl

/-- SMOVHI. -/
theorem smovhi (s : BitVec 6) (imm : BitVec 16) : Statement (.smovhi s imm) := ofS 0x01 s imm rfl fun _ => rfl

/-- SADDI. -/
theorem saddi (s : BitVec 6) (imm : BitVec 16) : Statement (.saddi s imm) := ofS 0x02 s imm rfl fun _ => rfl

/-- SANDI. -/
theorem sandi (s : BitVec 6) (imm : BitVec 16) : Statement (.sandi s imm) := ofS 0x03 s imm rfl fun _ => rfl

/-- MODE. -/
theorem mode (s : BitVec 6) (imm : BitVec 16) : Statement (.mode s imm) := ofS 0x04 s imm rfl fun _ => rfl

/-- BR. -/
theorem br (s : BitVec 6) (imm : BitVec 16) : Statement (.br s imm) := ofS 0x08 s imm rfl fun _ => rfl

/-- BRZ. -/
theorem brz (s : BitVec 6) (imm : BitVec 16) : Statement (.brz s imm) := ofS 0x09 s imm rfl fun _ => rfl

/-- BRNZ. -/
theorem brnz (s : BitVec 6) (imm : BitVec 16) : Statement (.brnz s imm) := ofS 0x0A s imm rfl fun _ => rfl

/-- BRANY. -/
theorem brany (s : BitVec 6) (imm : BitVec 16) : Statement (.brany s imm) := ofS 0x0B s imm rfl fun _ => rfl

/-- BRALL. -/
theorem brall (s : BitVec 6) (imm : BitVec 16) : Statement (.brall s imm) := ofS 0x0C s imm rfl fun _ => rfl

/-- BRDIV. -/
theorem brdiv (s : BitVec 6) (imm : BitVec 16) : Statement (.brdiv s imm) := ofS 0x0D s imm rfl fun _ => rfl

/-- CALL. -/
theorem call (s : BitVec 6) (imm : BitVec 16) : Statement (.call s imm) := ofS 0x0E s imm rfl fun _ => rfl

/-- CALLI. -/
theorem calli (s : BitVec 6) (imm : BitVec 16) : Statement (.calli s imm) := ofS 0x0F s imm rfl fun _ => rfl

/-- RET. -/
theorem ret (s : BitVec 6) (imm : BitVec 16) : Statement (.ret s imm) := ofS 0x10 s imm rfl fun _ => rfl

/-- RJOIN. -/
theorem rjoin (s : BitVec 6) (imm : BitVec 16) : Statement (.rjoin s imm) := ofS 0x11 s imm rfl fun _ => rfl

/-- EXIT. -/
theorem exit (s : BitVec 6) (imm : BitVec 16) : Statement (.exit s imm) := ofS 0x12 s imm rfl fun _ => rfl

/-- EXITL. -/
theorem exitl (s : BitVec 6) (imm : BitVec 16) : Statement (.exitl s imm) := ofS 0x13 s imm rfl fun _ => rfl

/-- SBAL. -/
theorem sbal (s : BitVec 6) (imm : BitVec 16) : Statement (.sbal s imm) := ofS 0x18 s imm rfl fun _ => rfl

/-- PSET. -/
theorem pset (s : BitVec 6) (imm : BitVec 16) : Statement (.pset s imm) := ofS 0x19 s imm rfl fun _ => rfl

/-- PCNT. -/
theorem pcnt (s : BitVec 6) (imm : BitVec 16) : Statement (.pcnt s imm) := ofS 0x1A s imm rfl fun _ => rfl

/-- SLD. -/
theorem sld (s : BitVec 6) (imm : BitVec 16) : Statement (.sld s imm) := ofS 0x20 s imm rfl fun _ => rfl

/-- SST. -/
theorem sst (s : BitVec 6) (imm : BitVec 16) : Statement (.sst s imm) := ofS 0x21 s imm rfl fun _ => rfl

/-- SLDD. -/
theorem sldd (s : BitVec 6) (imm : BitVec 16) : Statement (.sldd s imm) := ofS 0x22 s imm rfl fun _ => rfl

/-- VRGET. -/
theorem vrget (s : BitVec 6) (imm : BitVec 16) : Statement (.vrget s imm) := ofS 0x28 s imm rfl fun _ => rfl

/-- VRSET. -/
theorem vrset (s : BitVec 6) (imm : BitVec 16) : Statement (.vrset s imm) := ofS 0x29 s imm rfl fun _ => rfl

/-- BREW. -/
theorem brew (s : BitVec 6) (imm : BitVec 16) : Statement (.brew s imm) := ofS 0x30 s imm rfl fun _ => rfl

/-- XREL. -/
theorem xrel (s : BitVec 6) (imm : BitVec 16) : Statement (.xrel s imm) := ofS 0x31 s imm rfl fun _ => rfl

/-- CLAIM. -/
theorem claim (s : BitVec 6) (imm : BitVec 16) : Statement (.claim s imm) := ofS 0x32 s imm rfl fun _ => rfl

/-- SURR. -/
theorem surr (s : BitVec 6) (imm : BitVec 16) : Statement (.surr s imm) := ofS 0x33 s imm rfl fun _ => rfl

/-- BARA. -/
theorem bara (s : BitVec 6) (imm : BitVec 16) : Statement (.bara s imm) := ofS 0x38 s imm rfl fun _ => rfl

/-- BARW. -/
theorem barw (s : BitVec 6) (imm : BitVec 16) : Statement (.barw s imm) := ofS 0x39 s imm rfl fun _ => rfl

/-- BARAW. -/
theorem baraw (s : BitVec 6) (imm : BitVec 16) : Statement (.baraw s imm) := ofS 0x3A s imm rfl fun _ => rfl

/-- BARQ. -/
theorem barq (s : BitVec 6) (imm : BitVec 16) : Statement (.barq s imm) := ofS 0x3B s imm rfl fun _ => rfl

/-- BARWG. -/
theorem barwg (s : BitVec 6) (imm : BitVec 16) : Statement (.barwg s imm) := ofS 0x3C s imm rfl fun _ => rfl

/-- FENCE_WG_ACQ. -/
theorem fenceWgAcq (s : BitVec 6) (imm : BitVec 16) : Statement (.fenceWgAcq s imm) := ofS 0x40 s imm rfl fun _ => rfl

/-- FENCE_WG_REL. -/
theorem fenceWgRel (s : BitVec 6) (imm : BitVec 16) : Statement (.fenceWgRel s imm) := ofS 0x41 s imm rfl fun _ => rfl

/-- FENCE_WG_FULL. -/
theorem fenceWgFull (s : BitVec 6) (imm : BitVec 16) : Statement (.fenceWgFull s imm) := ofS 0x42 s imm rfl fun _ => rfl

/-- FENCE_DIE_ACQ. -/
theorem fenceDieAcq (s : BitVec 6) (imm : BitVec 16) : Statement (.fenceDieAcq s imm) := ofS 0x43 s imm rfl fun _ => rfl

/-- FENCE_DIE_REL. -/
theorem fenceDieRel (s : BitVec 6) (imm : BitVec 16) : Statement (.fenceDieRel s imm) := ofS 0x44 s imm rfl fun _ => rfl

/-- FENCE_DIE_FULL. -/
theorem fenceDieFull (s : BitVec 6) (imm : BitVec 16) : Statement (.fenceDieFull s imm) := ofS 0x45 s imm rfl fun _ => rfl

/-- FENCE_PKG_ACQ. -/
theorem fencePkgAcq (s : BitVec 6) (imm : BitVec 16) : Statement (.fencePkgAcq s imm) := ofS 0x46 s imm rfl fun _ => rfl

/-- FENCE_PKG_REL. -/
theorem fencePkgRel (s : BitVec 6) (imm : BitVec 16) : Statement (.fencePkgRel s imm) := ofS 0x47 s imm rfl fun _ => rfl

/-- FENCE_PKG_FULL. -/
theorem fencePkgFull (s : BitVec 6) (imm : BitVec 16) : Statement (.fencePkgFull s imm) := ofS 0x48 s imm rfl fun _ => rfl

/-- FENCE_DOM_ACQ. -/
theorem fenceDomAcq (s : BitVec 6) (imm : BitVec 16) : Statement (.fenceDomAcq s imm) := ofS 0x49 s imm rfl fun _ => rfl

/-- FENCE_DOM_REL. -/
theorem fenceDomRel (s : BitVec 6) (imm : BitVec 16) : Statement (.fenceDomRel s imm) := ofS 0x4A s imm rfl fun _ => rfl

/-- FENCE_DOM_FULL. -/
theorem fenceDomFull (s : BitVec 6) (imm : BitVec 16) : Statement (.fenceDomFull s imm) := ofS 0x4B s imm rfl fun _ => rfl

/-- NMFENCE_WG. -/
theorem nmfenceWg (s : BitVec 6) (imm : BitVec 16) : Statement (.nmfenceWg s imm) := ofS 0x4C s imm rfl fun _ => rfl

/-- NMFENCE_DIE. -/
theorem nmfenceDie (s : BitVec 6) (imm : BitVec 16) : Statement (.nmfenceDie s imm) := ofS 0x4D s imm rfl fun _ => rfl

/-- NMFENCE_PKG. -/
theorem nmfencePkg (s : BitVec 6) (imm : BitVec 16) : Statement (.nmfencePkg s imm) := ofS 0x4E s imm rfl fun _ => rfl

/-- NMFENCE_DOM. -/
theorem nmfenceDom (s : BitVec 6) (imm : BitVec 16) : Statement (.nmfenceDom s imm) := ofS 0x4F s imm rfl fun _ => rfl

/-- TFENCE_WG. -/
theorem tfenceWg (s : BitVec 6) (imm : BitVec 16) : Statement (.tfenceWg s imm) := ofS 0x50 s imm rfl fun _ => rfl

/-- TFENCE_DIE. -/
theorem tfenceDie (s : BitVec 6) (imm : BitVec 16) : Statement (.tfenceDie s imm) := ofS 0x51 s imm rfl fun _ => rfl

/-- TFENCE_PKG. -/
theorem tfencePkg (s : BitVec 6) (imm : BitVec 16) : Statement (.tfencePkg s imm) := ofS 0x52 s imm rfl fun _ => rfl

/-- TFENCE_DOM. -/
theorem tfenceDom (s : BitVec 6) (imm : BitVec 16) : Statement (.tfenceDom s imm) := ofS 0x53 s imm rfl fun _ => rfl

/-- BATCH_K. -/
theorem batchK (s : BitVec 6) (imm : BitVec 16) : Statement (.batchK s imm) := ofS 0x58 s imm rfl fun _ => rfl

/-- BATCH_A. -/
theorem batchA (s : BitVec 6) (imm : BitVec 16) : Statement (.batchA s imm) := ofS 0x59 s imm rfl fun _ => rfl

/-- BATCH_N. -/
theorem batchN (s : BitVec 6) (imm : BitVec 16) : Statement (.batchN s imm) := ofS 0x5A s imm rfl fun _ => rfl

/-- BATCH_G. -/
theorem batchG (s : BitVec 6) (imm : BitVec 16) : Statement (.batchG s imm) := ofS 0x5B s imm rfl fun _ => rfl

/-- WAITB_K. -/
theorem waitbK (s : BitVec 6) (imm : BitVec 16) : Statement (.waitbK s imm) := ofS 0x5C s imm rfl fun _ => rfl

/-- WAITB_A. -/
theorem waitbA (s : BitVec 6) (imm : BitVec 16) : Statement (.waitbA s imm) := ofS 0x5D s imm rfl fun _ => rfl

/-- WAITB_N. -/
theorem waitbN (s : BitVec 6) (imm : BitVec 16) : Statement (.waitbN s imm) := ofS 0x5E s imm rfl fun _ => rfl

/-- WAITB_G. -/
theorem waitbG (s : BitVec 6) (imm : BitVec 16) : Statement (.waitbG s imm) := ofS 0x5F s imm rfl fun _ => rfl

/-- KLD. -/
theorem kld (s : BitVec 6) (imm : BitVec 16) : Statement (.kld s imm) := ofS 0x60 s imm rfl fun _ => rfl

/-- KST. -/
theorem kst (s : BitVec 6) (imm : BitVec 16) : Statement (.kst s imm) := ofS 0x61 s imm rfl fun _ => rfl

/-- KLUT. -/
theorem klut (s : BitVec 6) (imm : BitVec 16) : Statement (.klut s imm) := ofS 0x62 s imm rfl fun _ => rfl

/-- LQRY. -/
theorem lqry (s : BitVec 6) (imm : BitVec 16) : Statement (.lqry s imm) := ofS 0x68 s imm rfl fun _ => rfl

/-- LAPP. -/
theorem lapp (s : BitVec 6) (imm : BitVec 16) : Statement (.lapp s imm) := ofS 0x69 s imm rfl fun _ => rfl

/-- LCTL. -/
theorem lctl (s : BitVec 6) (imm : BitVec 16) : Statement (.lctl s imm) := ofS 0x6A s imm rfl fun _ => rfl

/-- LPF. -/
theorem lpf (s : BitVec 6) (imm : BitVec 16) : Statement (.lpf s imm) := ofS 0x6B s imm rfl fun _ => rfl

/-- QPUSH. -/
theorem qpush (s : BitVec 6) (imm : BitVec 16) : Statement (.qpush s imm) := ofS 0x70 s imm rfl fun _ => rfl

/-- QPOP. -/
theorem qpop (s : BitVec 6) (imm : BitVec 16) : Statement (.qpop s imm) := ofS 0x71 s imm rfl fun _ => rfl

/-- QTRY. -/
theorem qtry (s : BitVec 6) (imm : BitVec 16) : Statement (.qtry s imm) := ofS 0x72 s imm rfl fun _ => rfl

/-- DCSET. -/
theorem dcset (s : BitVec 6) (imm : BitVec 16) : Statement (.dcset s imm) := ofS 0x73 s imm rfl fun _ => rfl

/-- DCDEC. -/
theorem dcdec (s : BitVec 6) (imm : BitVec 16) : Statement (.dcdec s imm) := ofS 0x74 s imm rfl fun _ => rfl

/-- DCATT. -/
theorem dcatt (s : BitVec 6) (imm : BitVec 16) : Statement (.dcatt s imm) := ofS 0x75 s imm rfl fun _ => rfl

/-- MARK. -/
theorem mark (s : BitVec 6) (imm : BitVec 16) : Statement (.mark s imm) := ofS 0x78 s imm rfl fun _ => rfl

/-- CUT. -/
theorem cut (s : BitVec 6) (imm : BitVec 16) : Statement (.cut s imm) := ofS 0x79 s imm rfl fun _ => rfl

/-- GRAFT. -/
theorem graft (s : BitVec 6) (imm : BitVec 16) : Statement (.graft s imm) := ofS 0x7A s imm rfl fun _ => rfl

/-- UNMARK. -/
theorem unmark (s : BitVec 6) (imm : BitVec 16) : Statement (.unmark s imm) := ofS 0x7B s imm rfl fun _ => rfl

/-- ENTER. -/
theorem enter (s : BitVec 6) (imm : BitVec 16) : Statement (.enter s imm) := ofS 0x7C s imm rfl fun _ => rfl

/-- SVC. -/
theorem svc (s : BitVec 6) (imm : BitVec 16) : Statement (.svc s imm) := ofS 0x80 s imm rfl fun _ => rfl

/-- BKPT. -/
theorem bkpt (s : BitVec 6) (imm : BitVec 16) : Statement (.bkpt s imm) := ofS 0x81 s imm rfl fun _ => rfl

/-- SRD. -/
theorem srd (s : BitVec 6) (imm : BitVec 16) : Statement (.srd s imm) := ofS 0x82 s imm rfl fun _ => rfl

/-- SWR. -/
theorem swr (s : BitVec 6) (imm : BitVec 16) : Statement (.swr s imm) := ofS 0x83 s imm rfl fun _ => rfl

/-- WAKEW_SIGNAL. -/
theorem wakewSignal (s : BitVec 6) (imm : BitVec 16) : Statement (.wakewSignal s imm) := by
  refine ofS 0x84 s imm rfl fun hw => ?_
  have hne : imm ≠ 1 := by
    intro h
    subst h
    revert hw
    simp [Instr.wellFormed, Machine.legal, Machine.immZero]
  exact if_neg hne

/-- WAKEW_WAIT. -/
theorem wakewWait (s : BitVec 6) : Statement (.wakewWait s) := ofS 0x84 s 1 rfl fun _ => rfl

/-- YIELD. -/
theorem yield (s : BitVec 6) (imm : BitVec 16) : Statement (.yield s imm) := ofS 0x85 s imm rfl fun _ => rfl

/-- TRET. -/
theorem tret (s : BitVec 6) (imm : BitVec 16) : Statement (.tret s imm) := ofS 0x86 s imm rfl fun _ => rfl

/-- SHLN. -/
theorem shln (s : BitVec 6) (imm : BitVec 16) : Statement (.shln s imm) := ofS 0x88 s imm rfl fun _ => rfl

/-- HSETN. -/
theorem hsetn (s : BitVec 6) (imm : BitVec 16) : Statement (.hsetn s imm) := ofS 0x89 s imm rfl fun _ => rfl

/-- UNASSIGNED_OPCODE. -/
theorem unassignedOpcode (w : Word) : Statement (.unassignedOpcode w) := by
  intro hw w' h
  cases h
  have hu : unassignedWord w = true := by
    have := hw
    simp only [Instr.wellFormed, Bool.and_eq_true] at this
    exact this.2
  simp only [unassignedWord, Bool.or_eq_true, Bool.and_eq_true, decide_eq_true_eq] at hu
  unfold decodeWord
  rcases hu with ⟨hc, hr⟩ | ⟨hc, hr⟩
  · simp only [hc, if_true]
    exact decodeV_unassigned _ _ _ _ _ hr
  · simp only [hc]
    exact decodeS_unassigned _ _ _ _ hr

/-- UNDEFINED_CLASS_H. -/
theorem undefinedClassH (w : Word) : Statement (.undefinedClassH w) := by
  intro hw w' h
  cases h
  have hu : classHWord w = true := by
    have := hw
    simp only [Instr.wellFormed, Bool.and_eq_true] at this
    exact this.2
  simp only [classHWord, decide_eq_true_eq] at hu
  unfold decodeWord
  simp [hu]

/-- CLAUSE_START. -/
theorem clauseStart : Statement .clauseStart := ofEvent rfl

/-- SHORT_LATENCY_WRITEBACK. -/
theorem shortLatencyWriteback (slot seq : Nat) : Statement (.shortLatencyWriteback slot seq) := ofEvent rfl

/-- MEMORY_ACCESS_COMPLETE. -/
theorem memoryAccessComplete (slot op : Nat) : Statement (.memoryAccessComplete slot op) := ofEvent rfl

/-- SFU_COMPLETE. -/
theorem sfuComplete (slot op : Nat) : Statement (.sfuComplete slot op) := ofEvent rfl

/-- MMA_RESULT. -/
theorem mmaResult (slot op : Nat) : Statement (.mmaResult slot op) := ofEvent rfl

/-- CHECKSUM_COMPARE. -/
theorem checksumCompare (slot op : Nat) (mismatch : Bool) : Statement (.checksumCompare slot op mismatch) := ofEvent rfl

/-- CHECKSUM_RERUN_RESULT. -/
theorem checksumRerunResult (slot op : Nat) (mismatch : Bool) : Statement (.checksumRerunResult slot op mismatch) := ofEvent rfl

/-- HEADING_COMMIT. -/
theorem headingCommit (slot seq : Nat) : Statement (.headingCommit slot seq) := ofEvent rfl

/-- CLAIM_GRANT. -/
theorem claimGrant (quad : Nat) : Statement (.claimGrant quad) := ofEvent rfl

/-- SURR_RETURN. -/
theorem surrReturn (slot : Nat) : Statement (.surrReturn slot) := ofEvent rfl

/-- WARP_RETIRE. -/
theorem warpRetire (slot : Nat) : Statement (.warpRetire slot) := ofEvent rfl

/-- DEFERRED_TRAP. -/
theorem deferredTrap (slot : Nat) : Statement (.deferredTrap slot) := ofEvent rfl

/-- BKPT_DELIVERY. -/
theorem bkptDelivery (slot : Nat) : Statement (.bkptDelivery slot) := ofEvent rfl

/-- WORKGROUP_PLACEMENT. -/
theorem workgroupPlacement (wg : Nat) : Statement (.workgroupPlacement wg) := ofEvent rfl

/-- TEMPERATURE_READING. -/
theorem temperatureReading (core quarters : Nat) : Statement (.temperatureReading core quarters) := ofEvent rfl

/-- DROOP_EVENT. -/
theorem droopEvent (core : Nat) : Statement (.droopEvent core) := ofEvent rfl

/-- STARVATION_PRIORITY. -/
theorem starvationPriority (slot split : Nat) : Statement (.starvationPriority slot split) := ofEvent rfl

/-- ITERATION_SPAWN. -/
theorem iterationSpawn (core : Nat) : Statement (.iterationSpawn core) := ofEvent rfl

/-- COUNTER_RELEASE_DEFERRED. -/
theorem counterReleaseDeferred (core : Nat) : Statement (.counterReleaseDeferred core) := ofEvent rfl

/-- CASK_REFILL. -/
theorem caskRefill (cask : Nat) : Statement (.caskRefill cask) := ofEvent rfl

/-- KILN_EXPAND. -/
theorem kilnExpand (core : Nat) : Statement (.kilnExpand core) := ofEvent rfl

/-- KILN_PACK. -/
theorem kilnPack (core : Nat) : Statement (.kilnPack core) := ofEvent rfl

/-- LATTICE_LOAD. -/
theorem latticeLoad (core : Nat) : Statement (.latticeLoad core) := ofEvent rfl

/-- BATCH_COMPLETE. -/
theorem batchComplete (slot : Nat) (cls : EngineClass) : Statement (.batchComplete slot cls) := ofEvent rfl

/-- COMBINER_APPLY. -/
theorem combinerApply (red : Nat) : Statement (.combinerApply red) := ofEvent rfl

/-- LANTERN_APPEND. -/
theorem lanternAppend (die cmd : Nat) : Statement (.lanternAppend die cmd) := ofEvent rfl

/-- LANTERN_QUERY. -/
theorem lanternQuery (die cmd : Nat) : Statement (.lanternQuery die cmd) := ofEvent rfl

/-- STAGING_FILL. -/
theorem stagingFill (die : Nat) : Statement (.stagingFill die) := ofEvent rfl

/-- LCTL_CREATE. -/
theorem lctlCreate (die cmd : Nat) : Statement (.lctlCreate die cmd) := ofEvent rfl

/-- LCTL_FREE. -/
theorem lctlFree (die cmd : Nat) : Statement (.lctlFree die cmd) := ofEvent rfl

/-- LCTL_TRUNC. -/
theorem lctlTrunc (die cmd : Nat) : Statement (.lctlTrunc die cmd) := ofEvent rfl

/-- LCTL_MAP1. -/
theorem lctlMap1 (die cmd : Nat) : Statement (.lctlMap1 die cmd) := ofEvent rfl

/-- LCTL_UNMAP1. -/
theorem lctlUnmap1 (die cmd : Nat) : Statement (.lctlUnmap1 die cmd) := ofEvent rfl

/-- LCTL_MAP2. -/
theorem lctlMap2 (die cmd : Nat) : Statement (.lctlMap2 die cmd) := ofEvent rfl

/-- LCTL_POOL. -/
theorem lctlPool (die cmd : Nat) : Statement (.lctlPool die cmd) := ofEvent rfl

/-- LCTL_SETTIER. -/
theorem lctlSettier (die cmd : Nat) : Statement (.lctlSettier die cmd) := ofEvent rfl

/-- LCTL_PFMODE. -/
theorem lctlPfmode (die cmd : Nat) : Statement (.lctlPfmode die cmd) := ofEvent rfl

/-- LANTERN_PREFETCH_HINT. -/
theorem lanternPrefetchHint (die cmd : Nat) : Statement (.lanternPrefetchHint die cmd) := ofEvent rfl

/-- REMOTE_WRITE_ACK. -/
theorem remoteWriteAck (slot op : Nat) : Statement (.remoteWriteAck slot op) := ofEvent rfl

/-- REMOTE_WRITE_TIMEOUT. -/
theorem remoteWriteTimeout (slot op : Nat) : Statement (.remoteWriteTimeout slot op) := ofEvent rfl

/-- GATE_COMMIT. -/
theorem gateCommit (core : Nat) : Statement (.gateCommit core) := ofEvent rfl

/-- WAKE_MESSAGE. -/
theorem wakeMessage (core : Nat) : Statement (.wakeMessage core) := ofEvent rfl

/-- CORE_UNGATE. -/
theorem coreUngate (core : Nat) : Statement (.coreUngate core) := ofEvent rfl

/-- DBELL. -/
theorem dbell (ten queue : Nat) (v : DWord) : Statement (.dbell ten queue v) := ofEvent rfl

/-- REPLAY. -/
theorem replay (ten : Nat) (v : Word) : Statement (.replay ten v) := ofEvent rfl

/-- FRCONS. -/
theorem frcons (ten : Nat) (v : Word) : Statement (.frcons ten v) := ofEvent rfl

/-- TRCONS. -/
theorem trcons (ten : Nat) (v : Word) : Statement (.trcons ten v) := ofEvent rfl

/-- NRCONS. -/
theorem nrcons (ten : Nat) (v : Word) : Statement (.nrcons ten v) := ofEvent rfl

/-- CONTROL_REGISTER_WRITE. -/
theorem controlRegisterWrite (reg : ControlReg) (v : DWord) : Statement (.controlRegisterWrite reg v) := ofEvent rfl

/-- LAUNCH. -/
theorem launch (ten queue : Nat) : Statement (.launch ten queue) := ofEvent rfl

/-- LOAD. -/
theorem load (ten queue : Nat) : Statement (.load ten queue) := ofEvent rfl

/-- UNLOAD. -/
theorem unload (ten queue : Nat) : Statement (.unload ten queue) := ofEvent rfl

/-- PREEMPT. -/
theorem preempt (ten queue : Nat) : Statement (.preempt ten queue) := ofEvent rfl

/-- CONTEXT_SAVE. -/
theorem contextSave (wg : Nat) : Statement (.contextSave wg) := ofEvent rfl

/-- RESUME. -/
theorem resume (ten queue : Nat) : Statement (.resume ten queue) := ofEvent rfl

/-- SIGNAL. -/
theorem signal (ten queue : Nat) : Statement (.signal ten queue) := ofEvent rfl

/-- BARRIER. -/
theorem barrier (ten queue : Nat) : Statement (.barrier ten queue) := ofEvent rfl

/-- TRAPRES. -/
theorem trapres (ten queue : Nat) : Statement (.trapres ten queue) := ofEvent rfl

/-- KILL. -/
theorem kill (ten queue : Nat) : Statement (.kill ten queue) := ofEvent rfl

/-- CASK. -/
theorem cask (ten queue : Nat) : Statement (.cask ten queue) := ofEvent rfl

/-- MIGRATE. -/
theorem migrate (ten queue : Nat) : Statement (.migrate ten queue) := ofEvent rfl

/-- MIGRATION_COPY. -/
theorem migrationCopy (mig : Nat) : Statement (.migrationCopy mig) := ofEvent rfl

/-- INVAL. -/
theorem inval (ten queue : Nat) : Statement (.inval ten queue) := ofEvent rfl

/-- TENCFG. -/
theorem tencfg (ten queue : Nat) : Statement (.tencfg ten queue) := ofEvent rfl

/-- TENANCY_CREATE. -/
theorem tenancyCreate (cfg : TenancySpec) : Statement (.tenancyCreate cfg) := ofEvent rfl

/-- TENANCY_RESET. -/
theorem tenancyReset (ten : Nat) : Statement (.tenancyReset ten) := ofEvent rfl

/-- FRAME_ASSIGN. -/
theorem frameAssign (kind : FrameKind) (frame ten : Nat) : Statement (.frameAssign kind frame ten) := ofEvent rfl

/-- CORE_SET_JOIN. -/
theorem coreSetJoin (core ten : Nat) : Statement (.coreSetJoin core ten) := ofEvent rfl

/-- KEY_SLOT_LOAD. -/
theorem keySlotLoad (slot ten gen : Nat) : Statement (.keySlotLoad slot ten gen) := ofEvent rfl

/-- HOST_CXL_MEM_ACCESS. -/
theorem hostCxlMemAccess (acc : CxlAccess) : Statement (.hostCxlMemAccess acc) := ofEvent rfl

/-- PACKAGE_RESET. -/
theorem packageReset : Statement .packageReset := ofEvent rfl

/-- LEVEL_ADVANCE. -/
theorem levelAdvance : Statement .levelAdvance := ofEvent rfl

/-- UNCORRECTABLE_SOFT_ERROR. -/
theorem uncorrectableSoftError (loc len : Nat) : Statement (.uncorrectableSoftError loc len) := ofEvent rfl

/-- DROOP_EVENT_EXPIRY. -/
theorem droopEventExpiry (core : Nat) : Statement (.droopEventExpiry core) := ofEvent rfl

/-- HOME_NODE_REMOTE_REQUEST. -/
theorem homeNodeRemoteRequest (req : RemoteRequest) : Statement (.homeNodeRemoteRequest req) := ofEvent rfl

/-- REMOTE_BLOCK_FETCH. -/
theorem remoteBlockFetch (who : BlockAsker) (die global : Nat) : Statement (.remoteBlockFetch who die global) := ofEvent rfl

end Roundtrip

end Sys2Proof.Laws
end

