-- ==== Sys2Proof/Laws/Words.lean ====
section
/-! SUPPORT. A word on its way: what holds of its warp and of the other warps between the start of its meaning and its end, and what
operand reads, results and operations keep of it. -/

namespace Sys2Proof.Machine

/-- `t` is a state that a word's meaning has reached from `s`: its warp is now `w`, whose splits are those it had but for groups and
latches, the word's own not parked, and maybe holding more words of its clause; the cycle is as it was. -/
structure OnWay (s : State) (cx : Cx) (t : State) (w : Warp) : Prop where
  focus : focus s = some cx
  warp : warpAt t cx.k = some w
  split : ∃ sp, tget w.splits cx.j = some sp ∧ sp.stance = ({ cx.sp with park := .running } : Split).stance
  siblings : ∀ n, n ≠ cx.j → (tget w.splits n).map Split.core = (tget cx.w.splits n).map Split.core
  now : t.now = s.now

/-- Every warp but that of slot `k` is as it was. -/
def OthersSame (s t : State) (k : Nat) : Prop := ∀ n, n ≠ k → warpAt t n = warpAt s n

/-- Every warp but that of slot `k` is as it was but for the cycles of its results (R98). -/
def OthersLater (s t : State) (k : Nat) : Prop := ∀ n, n ≠ k → (warpAt t n).map Warp.untimed = (warpAt s n).map Warp.untimed

theorem OthersSame.later {s t : State} {k : Nat} (h : OthersSame s t k) : OthersLater s t k := fun n hn => by rw [h n hn]

theorem OthersSame.trans {s t u : State} {k : Nat} (h : OthersSame s t k) (h' : OthersSame t u k) : OthersSame s u k :=
  fun n hn => (h' n hn).trans (h n hn)

theorem OthersLater.trans {s t u : State} {k : Nat} (h : OthersLater s t k) (h' : OthersLater t u k) : OthersLater s u k :=
  fun n hn => (h' n hn).trans (h n hn)

theorem OthersSame.of_warps {s t : State} (k : Nat) (h : t.warps = s.warps) : OthersSame s t k := fun n _ => by
  unfold warpAt
  rw [h]

theorem OthersSame.updWarp (s : State) (k : Nat) (f : Warp → Warp) : OthersSame s (updWarp s k f) k := fun _ hn =>
  warpAt_updWarp_ne s k f hn

theorem updWarp_now' (s : State) (k : Nat) (f : Warp → Warp) : (updWarp s k f).now = s.now := by rw [updWarp_rest]

theorem enterGroup_rest (w : Warp) (j : Nat) :
    enterGroup w j = { w with groups := (enterGroup w j).groups, splits := (enterGroup w j).splits } := by
  unfold enterGroup
  split
  · rfl
  · split
    · rw [Warp.updSplit_rest]
    · rfl

theorem enterGroup_core (w : Warp) (j n : Nat) :
    (tget (enterGroup w j).splits n).map Split.core = (tget w.splits n).map Split.core := by
  unfold enterGroup
  split
  · rfl
  · split
    · rw [tget_updSplit]
      split
      · rename_i h
        subst h
        cases tget w.splits n <;> simp [Split.core]
      · rfl
    · rfl

theorem AccessFrame.onWay {s t u : State} {cx : Cx} {w : Warp} (h : OnWay s cx t w) (f : AccessFrame t u) : OnWay s cx u w :=
  { h with warp := by rw [f.warpAt]; exact h.warp, now := by rw [f.now]; exact h.now }

/-- Changes of other parts of the state keep a word on its way. -/
theorem OnWay.of_warps {s t u : State} {cx : Cx} {w : Warp} (h : OnWay s cx t w) (hw : u.warps = t.warps) (hn : u.now = t.now) :
    OnWay s cx u w :=
  { h with warp := by unfold warpAt; rw [hw]; exact h.warp, now := by rw [hn]; exact h.now }

/-- A change of the word's own warp that keeps its splits. -/
theorem OnWay.updWarp {s t : State} {cx : Cx} {w : Warp} (h : OnWay s cx t w) (f : Warp → Warp)
    (hf : ∀ n, (tget (f w).splits n).map Split.core = (tget w.splits n).map Split.core) :
    OnWay s cx (updWarp t cx.k f) (f w) where
  focus := h.focus
  warp := warpAt_updWarp_same _ h.warp
  split := by
    obtain ⟨sp, hs, he⟩ := h.split
    obtain ⟨sp', hs', hc⟩ := core_some (hf cx.j) hs
    exact ⟨sp', hs', (stance_of_core hc).trans he⟩
  siblings := fun n hn => (hf n).trans (h.siblings n hn)
  now := by rw [updWarp_now']; exact h.now

/-- A change of what the word's own split holds of its clause. -/
theorem OnWay.hold {s t : State} {cx : Cx} {w : Warp} (h : OnWay s cx t w) (f : Option Clause → Option Clause) :
    OnWay s cx (updSplit t cx.k cx.j fun sp => { sp with clause := f sp.clause })
      (w.updSplit cx.j fun sp => { sp with clause := f sp.clause }) where
  focus := h.focus
  warp := warpAt_updWarp_same _ h.warp
  split := by
    obtain ⟨sp, hs, he⟩ := h.split
    exact ⟨{ sp with clause := f sp.clause }, by rw [tget_updSplit]; simp [hs], he⟩
  siblings := fun n hn => by rw [tget_updSplit, if_neg hn]; exact h.siblings n hn
  now := by unfold updSplit; rw [updWarp_now']; exact h.now

theorem onWay_unpark {s : State} {cx : Cx} (h : focus s = some cx) :
    OnWay s cx (unpark s cx) { cx.base with splits := tset cx.w.splits cx.j { cx.sp with park := .running } } where
  focus := h
  warp := warpAt_unpark h
  split := ⟨_, tget_tset_same _ _ _, rfl⟩
  siblings := fun n hn => by rw [tget_tset_ne _ _ _ hn]
  now := by unfold unpark; rw [updWarp_now']

theorem OnWay.useSlot {s t : State} {cx : Cx} {w : Warp} (h : OnWay s cx t w) (rule : IssueRule) :
    OnWay s cx (useSlot rule t cx.k) w := by
  cases rule <;> exact h.of_warps rfl rfl

theorem useSlot_warps (rule : IssueRule) (t : State) (k : Nat) : (useSlot rule t k).warps = t.warps := by cases rule <;> rfl

/-- The word's meaning starts on its way, and no other warp has changed. -/
theorem Issues.onWay {rule : IssueRule} {excl : Bool} {i : Instr} {s t : State} {cx : Cx} {ls : List Word}
    (h : Issues rule excl i s cx ls t) :
    ∃ w, OnWay s cx (Machine.useSlot rule t cx.k) w ∧ w = { cx.base with groups := w.groups, splits := w.splits }
      ∧ OthersSame s (Machine.useSlot rule t cx.k) cx.k := by
  obtain ⟨u, hl, rfl⟩ := h.lits
  obtain ⟨w, h1, e1, o1⟩ : ∃ w, OnWay s cx u w ∧ w = { cx.base with groups := w.groups, splits := w.splits } ∧ OthersSame s u cx.k := by
    have h0 := onWay_unpark h.focus
    have o0 : OthersSame s (unpark s cx) cx.k := OthersSame.updWarp _ _ _
    rcases fetchLits_cases hl with rfl | ⟨v, xs, f, rfl⟩
    · exact ⟨_, h0, rfl, o0⟩
    · refine ⟨_, (f.onWay h0).hold fun c => c.map fun cl => cl.hold xs, ?_, ?_⟩
      · rw [Warp.updSplit_rest]
      · exact (o0.trans (.of_warps _ f.warps)).trans (OthersSame.updWarp _ _ _)
  have e2 := useSlot_warps rule (entered excl u cx) cx.k
  unfold entered at e2 ⊢
  split
  · refine ⟨_, (h1.updWarp (fun w => enterGroup w cx.j) (fun n => enterGroup_core _ _ _)).useSlot rule, ?_, ?_⟩
    · rw [enterGroup_rest, e1]
    · rw [if_pos ‹_›] at e2
      exact (o1.trans (OthersSame.updWarp _ _ _)).trans (.of_warps _ e2)
  · refine ⟨w, h1.useSlot rule, e1, ?_⟩
    rw [if_neg ‹_›] at e2
    exact o1.trans (.of_warps _ e2)

/-- A word on its way goes on with the next word. -/
theorem OnWay.seq {s t : State} {cx : Cx} {w : Warp} (h : OnWay s cx t w) (n : Nat) :
    ∃ w' sp, warpAt (finishNext t cx n .seq) cx.k = some w' ∧ w' = { w with groups := w'.groups, splits := w'.splits }
      ∧ tget w'.splits cx.j = some sp ∧ sp.stance = (({ cx.sp with park := .running } : Split).advance s.now n).stance
      ∧ ∀ j, j ≠ cx.j → (tget w'.splits j).map Split.core = (tget cx.w.splits j).map Split.core := by
  obtain ⟨sp1, hs1, hc1⟩ := h.split
  obtain ⟨w2, e2, r2, ⟨sp2, hs2, hc2⟩, c2⟩ := finishNext_seq n h.warp hs1
  refine ⟨w2, sp2, e2, r2, hs2, ?_, fun j hj => (c2 j hj).trans (h.siblings j hj)⟩
  rw [hc2, h.now, advance_stance, hc1, ← advance_stance]

/-- A word on its way goes on at the target of its transfer. -/
theorem OnWay.jump {s t : State} {cx : Cx} {w : Warp} (h : OnWay s cx t w) (n : Nat) (pc : DWord) :
    ∃ w' sp, warpAt (finishNext t cx n (.jump pc)) cx.k = some w' ∧ w' = { w with groups := w'.groups, splits := w'.splits }
      ∧ tget w'.splits cx.j = some sp ∧ sp.stance = (({ cx.sp with park := .running } : Split).jump s.now pc).stance
      ∧ ∀ j, j ≠ cx.j → (tget w'.splits j).map Split.core = (tget cx.w.splits j).map Split.core := by
  obtain ⟨sp1, hs1, hc1⟩ := h.split
  obtain ⟨w2, e2, r2, ⟨sp2, hs2, hc2⟩, c2⟩ := finishNext_jump n pc h.warp hs1
  refine ⟨w2, sp2, e2, r2, hs2, ?_, fun j hj => (c2 j hj).trans (h.siblings j hj)⟩
  rw [hc2, h.now, jump_stance, hc1, ← jump_stance]

/-- What stands after a word or a transfer, of a split of that stance. -/
theorem stance_place {sp x : Split} (h : sp.stance = x.stance) : sp.pc = x.pc ∧ sp.mask = x.mask ∧ sp.park = x.park ∧ sp.path = x.path := by
  have e : ∀ y : Split, (y.stance.pc, y.stance.mask, y.stance.park, y.stance.path) = (y.pc, y.mask, y.park, y.path) := fun _ => rfl
  have := (e sp).symm.trans ((congrArg (fun y : Split => (y.pc, y.mask, y.park, y.path)) h).trans (e x))
  simpa only [Prod.mk.injEq] using this

theorem finishNext_others (s : State) (cx : Cx) (n : Nat) (nx : Next) : OthersSame s (finishNext s cx n nx) cx.k := fun _ hk =>
  finishNext_warpAt_ne s cx n nx hk

/-- A word that goes on with the next word is done there. -/
theorem OnWay.completes {s t : State} {cx : Cx} {w : Warp} (h : OnWay s cx t w) (o : OthersSame s t cx.k) (n : Nat) :
    ∃ w', Completes s (finishNext t cx n .seq) cx (nextPc cx n) w' ∧ w' = { w with groups := w'.groups, splits := w'.splits } := by
  obtain ⟨w', sp, e, r, hs, hc, c⟩ := h.seq n
  exact ⟨w', ⟨e, ⟨sp, hs, stance_place hc⟩, c, o.trans (finishNext_others _ _ _ _)⟩, r⟩

/-- A taken transfer is done at its target, a clause start. -/
theorem OnWay.transfers {s t : State} {cx : Cx} {w : Warp} (h : OnWay s cx t w) (o : OthersSame s t cx.k) (n : Nat) (pc : DWord) :
    ∃ w', Completes s (finishNext t cx n (.jump pc)) cx pc w' ∧ w' = { w with groups := w'.groups, splits := w'.splits } := by
  obtain ⟨w', sp, e, r, hs, hc, c⟩ := h.jump n pc
  exact ⟨w', ⟨e, ⟨sp, hs, stance_place hc⟩, c, o.trans (finishNext_others _ _ _ _)⟩, r⟩

/-- A vector word that goes on with the next word is done there. -/
theorem OnWay.completesV {s t : State} {cx : Cx} {w : Warp} (h : OnWay s cx t w) (o : OthersLater s t cx.k) (n : Nat) :
    ∃ w', CompletesV s (finishNext t cx n .seq) cx (nextPc cx n) w' ∧ w' = { w with groups := w'.groups, splits := w'.splits } := by
  obtain ⟨w', sp, e, r, hs, hc, c⟩ := h.seq n
  exact ⟨w', ⟨e, ⟨sp, hs, stance_place hc⟩, c, o.trans (finishNext_others _ _ _ _).later⟩, r⟩

/-! Results and operations of a word on its way. -/

theorem emit_none (s : State) (k j : Nat) (x : Payload) (m : Mask) (lat : Nat) :
    emit s k j .none x m lat = dropName (Machine.updWarp s k fun w => w) := rfl

theorem OnWay.emit {s t : State} {cx : Cx} {w : Warp} (h : OnWay s cx t w) (j : Nat) (d : Dest) (x : Payload) (m : Mask) (lat : Nat) :
    ∃ w', OnWay s cx (emit t cx.k j d x m lat) w'
      ∧ w' = { w with pend := w'.pend, splits := w'.splits, deferPresence := w'.deferPresence }
      ∧ (if d = .none then w'.pend = w.pend else Results w w' d x m (s.now + lat)) := by
  by_cases hd : d = .none
  · subst hd
    refine ⟨w, ?_, rfl, by simp⟩
    rw [emit_none]
    exact (h.updWarp (fun w => w) fun _ => rfl).of_warps rfl rfl
  · obtain ⟨w', e, r, p, c⟩ := emit_warp j d x m lat h.warp hd
    refine ⟨w', ⟨h.focus, e, ?_, fun n hn => (c n).trans (h.siblings n hn), ?_⟩, r, ?_⟩
    · obtain ⟨sp, hs, he⟩ := h.split
      obtain ⟨sp', hs', hc⟩ := core_some (c cx.j) hs
      exact ⟨sp', hs', (stance_of_core hc).trans he⟩
    · rw [emit_rest]
      exact h.now
    · rw [if_neg hd, ← h.now]
      exact p

/-- A new operation of the word. -/
theorem OnWay.addOp {s t : State} {cx : Cx} {w : Warp} (h : OnWay s cx t w) (flag : Option Nat) (due : Nat) (blocks : Bool) (d : Dest)
    (kd : OpKind) :
    ∃ w', OnWay s cx (addOp t cx flag due blocks d kd) w'
      ∧ w' = { w with ops := w.ops ++ [opOf t cx flag due blocks kd], splits := w'.splits, deferPresence := w'.deferPresence } := by
  obtain ⟨dp, hdp⟩ : ∃ dp, notePresence w d = { w with deferPresence := dp } := ⟨_, notePresence_rest w d⟩
  obtain ⟨ss, hss⟩ : ∃ ss, (notePresence w d).unlatch d = { notePresence w d with splits := ss } := ⟨_, unlatch_rest _ d⟩
  have h' : OnWay s cx (unlatchOthers t cx.k d) w :=
    { h with warp := (unlatchOthers_same t cx.k d).trans h.warp, now := by rw [unlatchOthers_rest]; exact h.now }
  refine ⟨_, (h'.updWarp (fun w =>
      let w := (notePresence w d).unlatch d
      { w with ops := w.ops ++ [opOf t cx flag due blocks kd] }) ?_).of_warps rfl rfl, ?_⟩
  · intro n
    show (tget ((notePresence w d).unlatch d).splits n).map Split.core = _
    rw [unlatch_core, notePresence_rest]
  · simp only
    rw [hss, hdp]

/-! What a word reads when its meaning starts is what it reads in the state before. -/

theorem OperandFrame.refl (s : State) (cx : Cx) : OperandFrame s s cx := ⟨rfl, fun _ => rfl, OnlySlots.refl s, fun _ _ => rfl⟩

theorem SlotFrame.refl (s : State) : SlotFrame s s := ⟨rfl, fun _ => rfl, OnlySlots.refl s⟩

theorem SlotFrame.elim {s t : State} (h : SlotFrame s t) : ∃ w c n, t = { s with warps := w, cores := c, nextId := n } := ⟨_, _, _, h.rest⟩

theorem SlotFrame.trans {s t u : State} (h : SlotFrame s t) (h' : SlotFrame t u) : SlotFrame s u := by
  refine ⟨?_, fun c => ?_, h.quads.trans h'.quads⟩
  · obtain ⟨_, _, _, rfl⟩ := h.elim
    obtain ⟨_, _, _, rfl⟩ := h'.elim
    rfl
  · have e := h'.cores c
    rw [← h.cores c, ← e]

/-- Changes of warps and names keep the frame. -/
theorem SlotFrame.of_warps {s u t : State} (h : SlotFrame s u) (ht : t = { u with warps := t.warps, nextId := t.nextId }) :
    SlotFrame s t := by
  obtain ⟨w, n, rfl⟩ : ∃ w n, t = { u with warps := w, nextId := n } := ⟨_, _, ht⟩
  refine ⟨?_, h.cores, h.quads⟩
  rw [h.rest]

theorem SlotFrame.setQuad (s : State) (c q : Nat) (x : Quad)
    (h : { x with passes := (quadAt s c q).passes, scalarAt := (quadAt s c q).scalarAt } = quadAt s c q) :
    SlotFrame s (setQuad s c q x) := ⟨rfl, fun d => setQuad_core s c q x d, OnlySlots.setQuad s c q x h⟩

theorem useScalar_frame (s : State) (k : Nat) : SlotFrame s (useScalar s k) := SlotFrame.setQuad _ _ _ _ rfl

theorem bookPasses_frame (s : State) (k : Nat) (ps : List Pass) : SlotFrame s (bookPasses s k ps) := SlotFrame.setQuad _ _ _ _ rfl

theorem updWarp_frame (s : State) (k : Nat) (f : Warp → Warp) : SlotFrame s (Machine.updWarp s k f) :=
  (SlotFrame.refl s).of_warps (by rw [updWarp_rest])

theorem finishNext_frame (s : State) (cx : Cx) (n : Nat) (nx : Next) : SlotFrame s (finishNext s cx n nx) :=
  (SlotFrame.refl s).of_warps (by rw [finishNext_rest])

theorem emit_frame (s : State) (k j : Nat) (d : Dest) (x : Payload) (m : Mask) (lat : Nat) : SlotFrame s (Machine.emit s k j d x m lat) :=
  (SlotFrame.refl s).of_warps (by rw [emit_rest])

theorem useSlot_frame (rule : IssueRule) (s : State) (k : Nat) : SlotFrame s (Machine.useSlot rule s k) := by
  cases rule <;> first | exact SlotFrame.refl s | exact useScalar_frame s k

theorem SlotFrame.foldl {α : Type} (f : State → α → State) (hf : ∀ s a, SlotFrame s (f s a)) (l : List α) (s : State) :
    SlotFrame s (l.foldl f s) := by
  induction l generalizing s with
  | nil => exact .refl s
  | cons a l ih => exact (hf s a).trans (ih _)

theorem SlotFrame.brew {s t : State} (h : SlotFrame s t) (c : Nat) : (coreAt t c).brew = (coreAt s c).brew := by
  rw [← h.cores c]

/-! Stalls of other quadrants (R98). -/

theorem stallPass_frame (s : State) (c q t : Nat) (p : Pass) : SlotFrame s (stallPass s c q t p) := by
  unfold stallPass
  simp only
  refine SlotFrame.trans ?_ (updWarp_frame _ _ _)
  exact SlotFrame.setQuad _ _ _ _ rfl

theorem holdUp_frame (s : State) (c q t : Nat) : SlotFrame s (holdUp s c q t) :=
  SlotFrame.foldl _ (fun s p => stallPass_frame s c q t p) _ s

theorem holdUpAll_frame (s : State) (k : Nat) (ps : List Pass) : SlotFrame s (holdUpAll s k ps) := by
  unfold holdUpAll
  split
  · exact .refl s
  · exact SlotFrame.foldl _ (fun s q => SlotFrame.foldl _ (fun s i => holdUp_frame s _ _ _) _ s) _ s

/-- A pass held up moves the results of its word and nothing else of any warp, and of no other warp anything. -/
theorem stallPass_warps (s : State) (c q t k : Nat) (p : Pass) :
    (warpAt (stallPass s c q t p) k).map Warp.untimed = (warpAt s k).map Warp.untimed
      ∧ (k ≠ p.slot → warpAt (stallPass s c q t p) k = warpAt s k) := by
  unfold stallPass
  simp only
  by_cases hk : k = p.slot
  · subst hk
    refine ⟨?_, fun h => absurd rfl h⟩
    cases hw : warpAt s p.slot with
    | none =>
      rw [show ∀ x f, Machine.updWarp (setQuad s c q x) p.slot f = setQuad s c q x from fun x f => by
        unfold Machine.updWarp
        rw [show warpAt (setQuad s c q x) p.slot = none from hw]]
      rw [show ∀ x, warpAt (setQuad s c q x) p.slot = warpAt s p.slot from fun _ => rfl, hw]
    | some w =>
      rw [warpAt_updWarp_same _ (show warpAt (setQuad s c q _) p.slot = some w from hw)]
      simp only [Option.map_some, Warp.untimed, List.map_map]
      congr 2
      apply List.map_congr_left
      intro r _
      simp only [Function.comp]
      split <;> rfl
  · rw [warpAt_updWarp_ne _ _ _ hk]
    exact ⟨rfl, fun _ => rfl⟩

/-- Passes held up move the results of their words and nothing else of any warp, and of no warp in another quadrant anything. -/
theorem holdUp_warps (s : State) (c q t k : Nat) :
    (warpAt (holdUp s c q t) k).map Warp.untimed = (warpAt s k).map Warp.untimed
      ∧ (k / 16 ≠ 4 * c + q → warpAt (holdUp s c q t) k = warpAt s k) := by
  unfold holdUp
  have hl : ∀ p ∈ ((quadAt s c q).passes.filter fun p =>
      decide (p.cycle = t) && decide (p.slot / 16 = 4 * c + q) && crossed s p.slot p.reads t), p.slot / 16 = 4 * c + q := by
    intro p hp
    have := (List.mem_filter.mp hp).2
    simp only [Bool.and_eq_true, decide_eq_true_eq] at this
    exact this.1.2
  generalize ((quadAt s c q).passes.filter fun p =>
      decide (p.cycle = t) && decide (p.slot / 16 = 4 * c + q) && crossed s p.slot p.reads t) = l at hl
  induction l generalizing s with
  | nil => exact ⟨rfl, fun _ => rfl⟩
  | cons p l ih =>
    have h1 := stallPass_warps s c q t k p
    have h2 := ih (stallPass s c q t p) fun x hx => hl x (List.mem_cons_of_mem p hx)
    refine ⟨h2.1.trans h1.1, fun h => (h2.2 h).trans (h1.2 fun e => h ?_)⟩
    rw [e]
    exact hl p List.mem_cons_self

theorem foldl_warps {α : Type} (k : Nat) (f : State → α → State) (l : List α)
    (hf : ∀ s, ∀ a ∈ l, warpAt (f s a) k = warpAt s k ∧ OthersLater s (f s a) k) (s : State) :
    warpAt (l.foldl f s) k = warpAt s k ∧ OthersLater s (l.foldl f s) k := by
  induction l generalizing s with
  | nil => exact ⟨rfl, fun _ _ => rfl⟩
  | cons a l ih =>
    have h1 := hf s a List.mem_cons_self
    have h2 := ih (fun s b hb => hf s b (List.mem_cons_of_mem a hb)) (f s a)
    exact ⟨h2.1.trans h1.1, h1.2.trans h2.2⟩

theorem holdUpAll_warps (s : State) (k : Nat) (ps : List Pass) :
    warpAt (holdUpAll s k ps) k = warpAt s k ∧ OthersLater s (holdUpAll s k ps) k := by
  have hk : ∀ q, quadOfSlot k < q → k / 16 ≠ 4 * coreOfSlot k + q := by
    intro q hq
    unfold quadOfSlot at hq
    unfold coreOfSlot
    omega
  unfold holdUpAll
  split
  · exact ⟨rfl, fun _ _ => rfl⟩
  · refine foldl_warps k _ _ (fun u q hq => foldl_warps k _ _ (fun v i _ => ?_) u) s
    have hq' : quadOfSlot k < q := by simpa using (List.mem_filter.mp hq).2
    exact ⟨(holdUp_warps v _ q _ k).2 (hk q hq'), fun n _ => (holdUp_warps v _ q _ n).1⟩

/-! Operands. -/

/-- What a read of operands changes: the workgroup's kegs, the passes booked and those they hold up, the split's latches, a name and a
free value. -/
theorem readOperands_state {t : State} {cx : Cx} {i : Instr} {ls : List Word} {v : VSpec} {x : VIn}
    (hr : readOperands i cx ls v t = .ok x) :
    ∃ g ps la, x.s = dropFresh (updSplit (holdUpAll (bookPasses (dropName (setWg t cx.w.wg g)) cx.k ps) cx.k ps) cx.k cx.j
      fun sp => { sp with latches := la }) := by
  unfold readOperands at hr
  simp only at hr
  repeat' (split at hr; try (cases hr; done))
  all_goals cases hr <;> exact ⟨_, _, _, rfl⟩

theorem latches_core (w : Warp) (j : Nat) (la : List (Option Nat)) (n : Nat) :
    (tget (w.updSplit j fun sp => { sp with latches := la }).splits n).map Split.core = (tget w.splits n).map Split.core := by
  rw [tget_updSplit]
  split
  · rename_i h
    subst h
    cases tget w.splits n <;> rfl
  · rfl

/-- A word goes on after its operands are read; other warps' results may come later (R98). -/
theorem readOperands_onWay {s t : State} {cx : Cx} {w : Warp} {i : Instr} {ls : List Word} {v : VSpec} {x : VIn}
    (h : OnWay s cx t w) (hr : readOperands i cx ls v t = .ok x) :
    ∃ w', OnWay s cx x.s w' ∧ w' = { w with splits := w'.splits } ∧ OthersLater t x.s cx.k := by
  obtain ⟨g, ps, la, hx⟩ := readOperands_state hr
  have h1 : OnWay s cx (bookPasses (dropName (setWg t cx.w.wg g)) cx.k ps) w := h.of_warps rfl rfl
  obtain ⟨e, o⟩ := holdUpAll_warps (bookPasses (dropName (setWg t cx.w.wg g)) cx.k ps) cx.k ps
  have hn : (holdUpAll (bookPasses (dropName (setWg t cx.w.wg g)) cx.k ps) cx.k ps).now = t.now := by
    rw [(holdUpAll_frame _ _ _).rest]
    rfl
  have h2 : OnWay s cx (holdUpAll (bookPasses (dropName (setWg t cx.w.wg g)) cx.k ps) cx.k ps) w :=
    { h1 with warp := by rw [e]; exact h1.warp, now := by rw [hn]; exact h.now }
  refine ⟨w.updSplit cx.j fun sp => { sp with latches := la }, ?_, Warp.updSplit_rest .., ?_⟩
  · rw [hx]
    exact (h2.updWarp (fun w => w.updSplit cx.j fun sp => { sp with latches := la }) fun n => latches_core w cx.j la n).of_warps rfl rfl
  · rw [hx]
    exact (show OthersLater t _ cx.k from o).trans (OthersSame.updWarp _ _ _).later

/-- The frame of an operand read. -/
theorem readOperands_frame {t : State} {cx : Cx} {i : Instr} {ls : List Word} {v : VSpec} {x : VIn}
    (hr : readOperands i cx ls v t = .ok x) : OperandFrame t x.s cx := by
  obtain ⟨g, ps, la, hx⟩ := readOperands_state hr
  have f : SlotFrame (dropName (setWg t cx.w.wg g)) (updSplit (holdUpAll (bookPasses (dropName (setWg t cx.w.wg g)) cx.k ps) cx.k ps)
      cx.k cx.j fun sp => { sp with latches := la }) :=
    ((bookPasses_frame _ _ _).trans (holdUpAll_frame _ _ _)).trans (updWarp_frame _ _ _)
  refine ⟨?_, ?_, ?_, ?_⟩
  · rw [hx, f.rest]
    rfl
  · rw [hx]
    exact f.cores
  · rw [hx]
    exact f.quads
  · intro n hn
    unfold wgAt
    rw [hx, f.rest]
    exact tget_tset_ne _ _ _ hn

/-- Changes of warps and names keep the frame of an operand read. -/
theorem OperandFrame.of_warps {t0 u t : State} {cx : Cx} (h : OperandFrame t0 u cx)
    (ht : t = { u with warps := t.warps, nextId := t.nextId }) : OperandFrame t0 t cx := by
  obtain ⟨w, n, rfl⟩ : ∃ w n, t = { u with warps := w, nextId := n } := ⟨_, _, ht⟩
  refine ⟨?_, h.cores, h.quads, h.wgs⟩
  rw [h.rest]

/-- The effective mask when a word's meaning starts is that of the state before. -/
theorem Issues.eff {rule : IssueRule} {excl : Bool} {i : Instr} {s t : State} {cx : Cx} {ls : List Word}
    (h : Issues rule excl i s cx ls t) : Machine.eff (Machine.useSlot rule t cx.k) cx = Machine.eff s cx := by
  apply eff_brew
  obtain ⟨u, hl, rfl⟩ := h.lits
  have hu : (coreAt u (coreOfSlot cx.k)).brew = (coreAt s (coreOfSlot cx.k)).brew := by
    rcases fetchLits_cases hl with rfl | ⟨v, xs, f, rfl⟩
    · exact (updWarp_frame _ _ _).brew _
    · exact ((updWarp_frame _ _ _).brew _).trans ((f.brew _).trans ((updWarp_frame _ _ _).brew _))
  rw [(useSlot_frame rule _ _).brew, ← hu]
  unfold entered
  split
  · exact (updWarp_frame _ _ _).brew _
  · rfl

/-! Whole words. -/

theorem SlotFrame.slot (s : State) (cx : Cx) : SlotFrame s (useScalar (unpark s cx) cx.k) :=
  (updWarp_frame _ _ _).trans (useScalar_frame _ _)

/-- A word without literals in the scalar slot, whose meaning leaves the state as it is: only scheduling changes. -/
theorem SlotFrame.of_scalar (s : State) (cx : Cx) (n : Nat) (nx : Next) :
    SlotFrame s (finishNext (useScalar (unpark s cx) cx.k) cx n nx) := (SlotFrame.slot s cx).trans (finishNext_frame _ _ _ _)

/-- THE RESULT OF A WORD WITHOUT LITERALS in the scalar slot: it completes with one pending result, and changes nothing else. -/
theorem runWord_result {i : Instr} {s : State} {cx : Cx} (h : Ready i s cx) (hn : litCount i = 0) {d : Dest} {x : Payload} {m : Mask}
    {lat : Nat} (hd : d ≠ .none) (hbr : ∀ sl, d ≠ .brew sl) {body : Cx → List Word → State → Except Stop (State × Next)}
    (hb : body cx [] (useScalar (unpark s cx) cx.k) = .ok (Machine.emit (useScalar (unpark s cx) cx.k) cx.k cx.j d x m lat, .seq)) :
    ∃ t w', runWord .scalar false i s body = .next t ∧ Completes s t cx (nextPc cx 0) w' ∧ SameWarp cx.j cx.w w'
      ∧ Results cx.w w' d x m (s.now + lat) ∧ SlotFrame s t := by
  have hi := h.issues hn .scalar false
  have hrun := runWord_of_issues hi (body := body) hb
  rw [hn] at hrun
  obtain ⟨w0, h0, e0, o0⟩ := hi.onWay
  obtain ⟨w1, h1, e1, p1⟩ := h0.emit cx.j d x m lat
  have o1 := o0.trans fun n hn => emit_warpAt_ne (useScalar (unpark s cx) cx.k) cx.k cx.j hbr x m lat hn
  obtain ⟨w2, h2, e2⟩ := h1.completes o1 0
  rw [if_neg hd] at p1
  obtain ⟨r, a, b⟩ := p1
  refine ⟨_, w2, hrun, h2, ?_, ⟨r, ?_, b⟩, ((SlotFrame.slot s cx).trans (emit_frame _ _ _ _ _ _ _)).trans (finishNext_frame _ _ _ _)⟩
  · unfold SameWarp
    rw [e2, e1, e0]
    rfl
  · rw [e2, a, e0]
    rfl

/-- THE RESULT OF A VECTOR WORD with one result row. -/
theorem vectorRow_of_issues {i : Instr} {s t0 : State} {cx : Cx} {ls : List Word} {x : VIn} {v : VSpec} {lat : Nat} {ok : Half → Bool}
    {f : State → Cx → VIn → Row} (hi : Issues (.vector v.both) false i s cx ls t0) (hok : ok cx.w.mode = true)
    (hr : readOperands i cx ls v t0 = .ok x) :
    ∃ t w', vectorRow i v lat ok f s = .next t ∧ CompletesV s t cx (nextPc cx (litCount i)) w' ∧ SameWarp cx.j cx.w w'
      ∧ OperandFrame t0 t cx ∧ (x.dest = .none → w'.pend = cx.w.pend)
      ∧ (x.dest ≠ .none → Results cx.w w' x.dest (.row (f t0 cx x)) (eff s cx) (s.now + (lat + x.stalls))) := by
  obtain ⟨w0, h0, e0, o0⟩ := hi.onWay
  obtain ⟨w1, h1, e1, o1⟩ := readOperands_onWay h0 hr
  have he : eff t0 cx = eff s cx := hi.eff
  obtain ⟨w2, h2, e2, p2⟩ := h1.emit cx.j x.dest (.row (f t0 cx x)) (eff s cx) (lat + x.stalls)
  have o2 : OthersLater x.s (Machine.emit x.s cx.k cx.j x.dest (.row (f t0 cx x)) (eff s cx) (lat + x.stalls)) cx.k :=
    fun n hn => emit_untimed_ne _ _ _ _ _ _ _ hn
  obtain ⟨w3, h3, e3⟩ := h2.completesV ((o0.later.trans o1).trans o2) (litCount i)
  refine ⟨_, w3, runWord_of_issues hi (s3 := Machine.emit x.s cx.k cx.j x.dest (.row (f t0 cx x)) (eff s cx) (lat + x.stalls))
    (nx := .seq) ?_, h3, ?_, ?_, ?_, ?_⟩
  · show (if !ok cx.w.mode then _ else _) = _
    rw [hok]
    show (match readOperands i cx ls v t0 with
      | .error e => _
      | .ok x => _) = _
    rw [hr]
    show Except.ok (Machine.emit x.s cx.k cx.j x.dest (.row (f t0 cx x)) (eff t0 cx) (lat + x.stalls), Next.seq) = _
    rw [he]
  · unfold SameWarp
    rw [e3, e2, e1, e0]
    rfl
  · refine (readOperands_frame hr).of_warps ?_
    rw [finishNext_rest, emit_rest]
  · intro hd
    rw [if_pos hd] at p2
    rw [e3, p2, e1, e0]
    rfl
  · intro hd
    rw [if_neg hd] at p2
    obtain ⟨r, a, b⟩ := p2
    refine ⟨r, ?_, b⟩
    rw [e3, a, e1, e0]
    rfl

/-- Lane `l` of a row made by a function is its value there. -/
theorem lane_rowOf (f : Nat → Word) {l : Nat} (h : l < 64) : lane (rowOf f) l = f l := by
  unfold lane rowOf
  simp [List.getD_eq_getElem?_getD, h]

@[simp] theorem rowOf_length (f : Nat → Word) : (rowOf f).length = 64 := by simp [rowOf]

end Sys2Proof.Machine
end

