-- ==== Sys2Proof/Tests/Slice0.lean ====
section
/-! SUPPORT. The model's own tests: decoding from words written out from the manual's encodings, well-formedness, single steps, and for
every statement with hypotheses a witness that meets them together. -/

namespace Sys2Proof.Tests

set_option Elab.async false

open Sys2Proof Sys2Proof.Machine

/-! Small states. -/

/-- The word `w` stands before the step, in a clause of its own, with every lane active and every register of no special use zero
(entry 21). -/
def at0 (w : Nat) : State := State.reset.withFetchWord 32 w

/-- The same with the one warp changed. -/
def atW (w : Nat) (f : Warp → Warp) : State := updWarp (at0 w) 0 f

/-- The same with its workgroup changed. -/
def atG (w : Nat) (f : Workgroup → Workgroup) : State :=
  { at0 w with wgs := (at0 w).wgs.map fun e => (e.1, f e.2) }

/-- The word of the instruction `i` stands before the step, the one warp changed. -/
def placed (i : Instr) (f : Warp → Warp) : State := atW ((encodeWord i).getD 0).toNat f

/-- Scalars set. -/
def setS (xs : List (Nat × Word)) (w : Warp) : Warp := { w with s := xs.foldl (fun r x => r.set x.1 x.2) w.s }

/-- The result is there and meets the test. -/
def okAnd {ε α : Type} (e : Except ε α) (q : α → Bool) : Bool :=
  match e with
  | .ok x => q x
  | .error _ => false

theorem okAnd_ok {ε α : Type} {e : Except ε α} {q : α → Bool} (h : okAnd e q = true) : ∃ x, e = .ok x ∧ q x = true := by
  cases e with
  | error _ => exact absurd h (by simp [okAnd])
  | ok x => exact ⟨x, rfl, h⟩

theorem any_some {α : Type} {o : Option α} {q : α → Bool} (h : o.any q = true) : ∃ x, o = some x ∧ q x = true := by
  cases o with
  | none => exact absurd h (by simp)
  | some x => exact ⟨x, rfl, by simpa using h⟩

/-- A ready word with a further test. -/
theorem ready_any {i : Instr} {s : State} {q : Cx → Prop} [DecidablePred q]
    (h : ((focus s).any fun cx => decide (eff s cx ≠ 0 ∧ legal i = true ∧ 1 ≤ wordsLeft cx.sp ∧ q cx)) = true) :
    ∃ cx, Ready i s cx ∧ q cx := by
  obtain ⟨cx, hf, hq⟩ := any_some h
  obtain ⟨h1, h2, h3, h4⟩ := of_decide_eq_true hq
  exact ⟨cx, ⟨hf, h1, h2, h3⟩, h4⟩

/-- A split in focus with a further test. -/
theorem focus_any {s : State} {q : Cx → Prop} [DecidablePred q] (h : ((focus s).any fun cx => decide (q cx)) = true) :
    ∃ cx, focus s = some cx ∧ q cx := by
  obtain ⟨cx, hf, hq⟩ := any_some h
  exact ⟨cx, hf, of_decide_eq_true hq⟩

/-- A word that reaches its meaning, with a further test. -/
theorem issues_any {rule : IssueRule} {excl : Bool} {i : Instr} {s : State} {q : Cx → List Word → State → Prop}
    [∀ cx ls t, Decidable (q cx ls t)]
    (h : ((focus s).any fun cx => decide (wordLanes rule s cx ≠ 0 ∧ legal i = true ∧ litCount i + 1 ≤ wordsLeft cx.sp)
      && okAnd (fetchLits cx (litCount i) (unpark s cx)) fun r => decide (q cx r.1 (entered excl r.2 cx))) = true) :
    ∃ cx ls t, Issues rule excl i s cx ls t ∧ q cx ls t := by
  obtain ⟨cx, hf, hq⟩ := any_some h
  rw [Bool.and_eq_true] at hq
  obtain ⟨h1, h2, h3⟩ := of_decide_eq_true hq.1
  obtain ⟨r, hr, h4⟩ := okAnd_ok hq.2
  exact ⟨cx, r.1, _, ⟨hf, h1, h2, h3, ⟨r.2, hr, rfl⟩⟩, of_decide_eq_true h4⟩

theorem test_decode_V0 :
    decodeWord 0b00_000000000_1000001_0100010_0010100 = .nop 0b1000001 0b0100010 0b0010100
    ∧ decodeWord 0b00_000000001_1000001_0100010_0010100 = .vadd 0b1000001 0b0100010 0b0010100
    ∧ decodeWord 0b00_000000010_1000001_0100010_0010100 = .vsub 0b1000001 0b0100010 0b0010100
    ∧ decodeWord 0b00_000000011_1000001_0100010_0010100 = .vmul 0b1000001 0b0100010 0b0010100
    ∧ decodeWord 0b00_000000100_1000001_0100010_0010100 = .vmin 0b1000001 0b0100010 0b0010100
    ∧ decodeWord 0b00_000000101_1000001_0100010_0010100 = .vmax 0b1000001 0b0100010 0b0010100
    ∧ decodeWord 0b00_000000110_1000001_0100010_0010100 = .vabsd 0b1000001 0b0100010 0b0010100
    ∧ decodeWord 0b00_000001000_1000001_0100010_0010100 = .vand 0b1000001 0b0100010 0b0010100
    ∧ decodeWord 0b00_000001001_1000001_0100010_0010100 = .vor 0b1000001 0b0100010 0b0010100
    ∧ decodeWord 0b00_000001010_1000001_0100010_0010100 = .vxor 0b1000001 0b0100010 0b0010100
    ∧ decodeWord 0b00_000001011_1000001_0100010_0010100 = .vandn 0b1000001 0b0100010 0b0010100
    ∧ decodeWord 0b00_000001100_1000001_0100010_0010100 = .vshl 0b1000001 0b0100010 0b0010100
    ∧ decodeWord 0b00_000001101_1000001_0100010_0010100 = .vshr 0b1000001 0b0100010 0b0010100
    ∧ decodeWord 0b00_000001110_1000001_0100010_0010100 = .vsra 0b1000001 0b0100010 0b0010100 := by
  decide

theorem test_decode_V1 :
    decodeWord 0b00_000010000_1000001_0100010_0010100 = .vcmpEq 0b1000001 0b0100010 0b0010100
    ∧ decodeWord 0b00_000010001_1000001_0100010_0010100 = .vcmpNe 0b1000001 0b0100010 0b0010100
    ∧ decodeWord 0b00_000010010_1000001_0100010_0010100 = .vcmpLt 0b1000001 0b0100010 0b0010100
    ∧ decodeWord 0b00_000010011_1000001_0100010_0010100 = .vcmpLe 0b1000001 0b0100010 0b0010100
    ∧ decodeWord 0b00_000010100_1000001_0100010_0010100 = .vcmpGt 0b1000001 0b0100010 0b0010100
    ∧ decodeWord 0b00_000010101_1000001_0100010_0010100 = .vcmpGe 0b1000001 0b0100010 0b0010100
    ∧ decodeWord 0b00_000010110_1000001_0100010_0010100 = .vcmpUn 0b1000001 0b0100010 0b0010100
    ∧ decodeWord 0b00_000010111_1000001_0100010_0010100 = .vcmpOrd 0b1000001 0b0100010 0b0010100
    ∧ decodeWord 0b00_000011000_1000001_0100010_0010100 = .vcvt 0b1000001 0b0100010 0b0010100 := by
  decide

theorem test_decode_V2 :
    decodeWord 0b00_000100000_1000001_0100010_0010100 = .vrcp 0b1000001 0b0100010 0b0010100
    ∧ decodeWord 0b00_000100001_1000001_0100010_0010100 = .vrsq 0b1000001 0b0100010 0b0010100
    ∧ decodeWord 0b00_000100010_1000001_0100010_0010100 = .vsqrt 0b1000001 0b0100010 0b0010100
    ∧ decodeWord 0b00_000100011_1000001_0100010_0010100 = .vex2 0b1000001 0b0100010 0b0010100
    ∧ decodeWord 0b00_000100100_1000001_0100010_0010100 = .vlg2 0b1000001 0b0100010 0b0010100
    ∧ decodeWord 0b00_000100101_1000001_0100010_0010100 = .vsin 0b1000001 0b0100010 0b0010100
    ∧ decodeWord 0b00_000100110_1000001_0100010_0010100 = .vcos 0b1000001 0b0100010 0b0010100
    ∧ decodeWord 0b00_000100111_1000001_0100010_0010100 = .vtnh 0b1000001 0b0100010 0b0010100
    ∧ decodeWord 0b00_000101000_1000001_0100010_0010100 = .vshup 0b1000001 0b0100010 0b0010100
    ∧ decodeWord 0b00_000101001_1000001_0100010_0010100 = .vshdn 0b1000001 0b0100010 0b0010100
    ∧ decodeWord 0b00_000101010_1000001_0100010_0010100 = .vshxor 0b1000001 0b0100010 0b0010100
    ∧ decodeWord 0b00_000101011_1000001_0100010_0010100 = .vshidx 0b1000001 0b0100010 0b0010100 := by
  decide

theorem test_decode_V3 :
    decodeWord 0b00_000110000_1000001_0100010_0010100 = .vlredAdd 0b1000001 0b0100010 0b0010100
    ∧ decodeWord 0b00_000110001_1000001_0100010_0010100 = .vlredMin 0b1000001 0b0100010 0b0010100
    ∧ decodeWord 0b00_000110010_1000001_0100010_0010100 = .vlredMax 0b1000001 0b0100010 0b0010100
    ∧ decodeWord 0b00_000110011_1000001_0100010_0010100 = .vlredAnd 0b1000001 0b0100010 0b0010100
    ∧ decodeWord 0b00_000110100_1000001_0100010_0010100 = .vlredOr 0b1000001 0b0100010 0b0010100
    ∧ decodeWord 0b00_000110101_1000001_0100010_0010100 = .vlredXor 0b1000001 0b0100010 0b0010100
    ∧ decodeWord 0b00_000110110_1000001_0100010_0010100 = .vscanAdd 0b1000001 0b0100010 0b0010100
    ∧ decodeWord 0b00_000110111_1000001_0100010_0010100 = .vscanMax 0b1000001 0b0100010 0b0010100
    ∧ decodeWord 0b00_000111000_1000001_0100010_0010100 = .vpopc 0b1000001 0b0100010 0b0010100
    ∧ decodeWord 0b00_000111001_1000001_0100010_0010100 = .vclz 0b1000001 0b0100010 0b0010100
    ∧ decodeWord 0b00_000111010_1000001_0100010_0010100 = .vbrev 0b1000001 0b0100010 0b0010100
    ∧ decodeWord 0b00_000111100_1000001_0100010_0010100 = .vpklo 0b1000001 0b0100010 0b0010100
    ∧ decodeWord 0b00_000111101_1000001_0100010_0010100 = .vpkhi 0b1000001 0b0100010 0b0010100
    ∧ decodeWord 0b00_000111110_1000001_0100010_0010100 = .vunlo 0b1000001 0b0100010 0b0010100
    ∧ decodeWord 0b00_000111111_1000001_0100010_0010100 = .vunhi 0b1000001 0b0100010 0b0010100 := by
  decide

theorem test_decode_V4 :
    decodeWord 0b00_001000000_1000001_0100010_0010100 = .vldB 0b1000001 0b0100010 0b0010100
    ∧ decodeWord 0b00_001000001_1000001_0100010_0010100 = .vldH 0b1000001 0b0100010 0b0010100
    ∧ decodeWord 0b00_001000010_1000001_0100010_0010100 = .vldW 0b1000001 0b0100010 0b0010100
    ∧ decodeWord 0b00_001000011_1000001_0100010_0010100 = .vldD 0b1000001 0b0100010 0b0010100
    ∧ decodeWord 0b00_001000100_1000001_0100010_0010100 = .vldQ 0b1000001 0b0100010 0b0010100
    ∧ decodeWord 0b00_001001000_1000001_0100010_0010100 = .vstB 0b1000001 0b0100010 0b0010100
    ∧ decodeWord 0b00_001001001_1000001_0100010_0010100 = .vstH 0b1000001 0b0100010 0b0010100
    ∧ decodeWord 0b00_001001010_1000001_0100010_0010100 = .vstW 0b1000001 0b0100010 0b0010100
    ∧ decodeWord 0b00_001001011_1000001_0100010_0010100 = .vstD 0b1000001 0b0100010 0b0010100
    ∧ decodeWord 0b00_001001100_1000001_0100010_0010100 = .vstQ 0b1000001 0b0100010 0b0010100 := by
  decide

theorem test_decode_V5 :
    decodeWord 0b00_001010000_1000001_0100010_0010100 = .ldfA 0b1000001 0b0100010 0b0010100
    ∧ decodeWord 0b00_001010001_1000001_0100010_0010100 = .ldfB 0b1000001 0b0100010 0b0010100
    ∧ decodeWord 0b00_001010010_1000001_0100010_0010100 = .ldfC 0b1000001 0b0100010 0b0010100
    ∧ decodeWord 0b00_001010011_1000001_0100010_0010100 = .stfC 0b1000001 0b0100010 0b0010100
    ∧ decodeWord 0b00_001011000_1000001_0100010_0010100 = .vldaWg 0b1000001 0b0100010 0b0010100
    ∧ decodeWord 0b00_001011001_1000001_0100010_0010100 = .vldaDie 0b1000001 0b0100010 0b0010100
    ∧ decodeWord 0b00_001011010_1000001_0100010_0010100 = .vldaPkg 0b1000001 0b0100010 0b0010100
    ∧ decodeWord 0b00_001011011_1000001_0100010_0010100 = .vldaDom 0b1000001 0b0100010 0b0010100
    ∧ decodeWord 0b00_001011100_1000001_0100010_0010100 = .vstrWg 0b1000001 0b0100010 0b0010100
    ∧ decodeWord 0b00_001011101_1000001_0100010_0010100 = .vstrDie 0b1000001 0b0100010 0b0010100
    ∧ decodeWord 0b00_001011110_1000001_0100010_0010100 = .vstrPkg 0b1000001 0b0100010 0b0010100
    ∧ decodeWord 0b00_001011111_1000001_0100010_0010100 = .vstrDom 0b1000001 0b0100010 0b0010100 := by
  decide

theorem test_decode_V6 :
    decodeWord 0b00_001100000_1000001_0100010_0010100 = .vatomWgAdd 0b1000001 0b0100010 0b0010100
    ∧ decodeWord 0b00_001100001_1000001_0100010_0010100 = .vatomWgMin 0b1000001 0b0100010 0b0010100
    ∧ decodeWord 0b00_001100010_1000001_0100010_0010100 = .vatomWgMax 0b1000001 0b0100010 0b0010100
    ∧ decodeWord 0b00_001100011_1000001_0100010_0010100 = .vatomWgAnd 0b1000001 0b0100010 0b0010100
    ∧ decodeWord 0b00_001100100_1000001_0100010_0010100 = .vatomWgOr 0b1000001 0b0100010 0b0010100
    ∧ decodeWord 0b00_001100101_1000001_0100010_0010100 = .vatomWgXor 0b1000001 0b0100010 0b0010100
    ∧ decodeWord 0b00_001100110_1000001_0100010_0010100 = .vatomWgXchg 0b1000001 0b0100010 0b0010100
    ∧ decodeWord 0b00_001100111_1000001_0100010_0010100 = .vatomWgCas 0b1000001 0b0100010 0b0010100
    ∧ decodeWord 0b00_001101000_1000001_0100010_0010100 = .vatomDieAdd 0b1000001 0b0100010 0b0010100
    ∧ decodeWord 0b00_001101001_1000001_0100010_0010100 = .vatomDieMin 0b1000001 0b0100010 0b0010100
    ∧ decodeWord 0b00_001101010_1000001_0100010_0010100 = .vatomDieMax 0b1000001 0b0100010 0b0010100
    ∧ decodeWord 0b00_001101011_1000001_0100010_0010100 = .vatomDieAnd 0b1000001 0b0100010 0b0010100
    ∧ decodeWord 0b00_001101100_1000001_0100010_0010100 = .vatomDieOr 0b1000001 0b0100010 0b0010100
    ∧ decodeWord 0b00_001101101_1000001_0100010_0010100 = .vatomDieXor 0b1000001 0b0100010 0b0010100
    ∧ decodeWord 0b00_001101110_1000001_0100010_0010100 = .vatomDieXchg 0b1000001 0b0100010 0b0010100
    ∧ decodeWord 0b00_001101111_1000001_0100010_0010100 = .vatomDieCas 0b1000001 0b0100010 0b0010100 := by
  decide

theorem test_decode_V7 :
    decodeWord 0b00_001110000_1000001_0100010_0010100 = .vatomPkgAdd 0b1000001 0b0100010 0b0010100
    ∧ decodeWord 0b00_001110001_1000001_0100010_0010100 = .vatomPkgMin 0b1000001 0b0100010 0b0010100
    ∧ decodeWord 0b00_001110010_1000001_0100010_0010100 = .vatomPkgMax 0b1000001 0b0100010 0b0010100
    ∧ decodeWord 0b00_001110011_1000001_0100010_0010100 = .vatomPkgAnd 0b1000001 0b0100010 0b0010100
    ∧ decodeWord 0b00_001110100_1000001_0100010_0010100 = .vatomPkgOr 0b1000001 0b0100010 0b0010100
    ∧ decodeWord 0b00_001110101_1000001_0100010_0010100 = .vatomPkgXor 0b1000001 0b0100010 0b0010100
    ∧ decodeWord 0b00_001110110_1000001_0100010_0010100 = .vatomPkgXchg 0b1000001 0b0100010 0b0010100
    ∧ decodeWord 0b00_001110111_1000001_0100010_0010100 = .vatomPkgCas 0b1000001 0b0100010 0b0010100
    ∧ decodeWord 0b00_001111000_1000001_0100010_0010100 = .vatomDomAdd 0b1000001 0b0100010 0b0010100
    ∧ decodeWord 0b00_001111001_1000001_0100010_0010100 = .vatomDomMin 0b1000001 0b0100010 0b0010100
    ∧ decodeWord 0b00_001111010_1000001_0100010_0010100 = .vatomDomMax 0b1000001 0b0100010 0b0010100
    ∧ decodeWord 0b00_001111011_1000001_0100010_0010100 = .vatomDomAnd 0b1000001 0b0100010 0b0010100
    ∧ decodeWord 0b00_001111100_1000001_0100010_0010100 = .vatomDomOr 0b1000001 0b0100010 0b0010100
    ∧ decodeWord 0b00_001111101_1000001_0100010_0010100 = .vatomDomXor 0b1000001 0b0100010 0b0010100
    ∧ decodeWord 0b00_001111110_1000001_0100010_0010100 = .vatomDomXchg 0b1000001 0b0100010 0b0010100
    ∧ decodeWord 0b00_001111111_1000001_0100010_0010100 = .vatomDomCas 0b1000001 0b0100010 0b0010100 := by
  decide

theorem test_decode_V8 :
    decodeWord 0b00_010000000_1000001_0100010_0010100 = .nmredAdd 0b1000001 0b0100010 0b0010100
    ∧ decodeWord 0b00_010000001_1000001_0100010_0010100 = .nmredMin 0b1000001 0b0100010 0b0010100
    ∧ decodeWord 0b00_010000010_1000001_0100010_0010100 = .nmredMax 0b1000001 0b0100010 0b0010100
    ∧ decodeWord 0b00_010001000_1000001_0100010_0010100 = .mma 0b1000001 0b0100010 0b0010100
    ∧ decodeWord 0b00_010001001_1000001_0100010_0010100 = .mmac 0b1000001 0b0100010 0b0010100
    ∧ decodeWord 0b00_010001010_1000001_0100010_0010100 = .mmaz 0b1000001 0b0100010 0b0010100 := by
  decide

theorem test_decode_V9 :
    decodeWord 0b00_010010000_1000001_0100010_0010100 = .hcvt 0b1000001 0b0100010 0b0010100
    ∧ decodeWord 0b00_010010001_1000001_0100010_0010100 = .hcvtb 0b1000001 0b0100010 0b0010100
    ∧ decodeWord 0b00_010010010_1000001_0100010_0010100 = .hexp 0b1000001 0b0100010 0b0010100
    ∧ decodeWord 0b00_010010011_1000001_0100010_0010100 = .hadd 0b1000001 0b0100010 0b0010100
    ∧ decodeWord 0b00_010010100_1000001_0100010_0010100 = .hsub 0b1000001 0b0100010 0b0010100
    ∧ decodeWord 0b00_010010101_1000001_0100010_0010100 = .hneg 0b1000001 0b0100010 0b0010100
    ∧ decodeWord 0b00_010010110_1000001_0100010_0010100 = .hscl 0b1000001 0b0100010 0b0010100
    ∧ decodeWord 0b00_010010111_1000001_0100010_0010100 = .hdot 0b1000001 0b0100010 0b0010100
    ∧ decodeWord 0b00_010011000_1000001_0100010_0010100 = .hdotn 0b1000001 0b0100010 0b0010100
    ∧ decodeWord 0b00_010011001_1000001_0100010_0010100 = .hrot 0b1000001 0b0100010 0b0010100 := by
  decide

theorem test_decode_Va :
    decodeWord 0b00_010100000_1000001_0100010_0010100 = .sadd 0b1000001 0b0100010 0b0010100
    ∧ decodeWord 0b00_010100001_1000001_0100010_0010100 = .ssub 0b1000001 0b0100010 0b0010100
    ∧ decodeWord 0b00_010100010_1000001_0100010_0010100 = .smul 0b1000001 0b0100010 0b0010100
    ∧ decodeWord 0b00_010100011_1000001_0100010_0010100 = .sand 0b1000001 0b0100010 0b0010100
    ∧ decodeWord 0b00_010100100_1000001_0100010_0010100 = .sor 0b1000001 0b0100010 0b0010100
    ∧ decodeWord 0b00_010100101_1000001_0100010_0010100 = .sxor 0b1000001 0b0100010 0b0010100
    ∧ decodeWord 0b00_010100110_1000001_0100010_0010100 = .sshl 0b1000001 0b0100010 0b0010100
    ∧ decodeWord 0b00_010100111_1000001_0100010_0010100 = .sshr 0b1000001 0b0100010 0b0010100
    ∧ decodeWord 0b00_010101000_1000001_0100010_0010100 = .ssra 0b1000001 0b0100010 0b0010100
    ∧ decodeWord 0b00_010101001_1000001_0100010_0010100 = .smin 0b1000001 0b0100010 0b0010100
    ∧ decodeWord 0b00_010101010_1000001_0100010_0010100 = .smax 0b1000001 0b0100010 0b0010100 := by
  decide

theorem test_decode_Vb :
    decodeWord 0b00_010110000_1000001_0100010_0010100 = .scmpEq 0b1000001 0b0100010 0b0010100
    ∧ decodeWord 0b00_010110001_1000001_0100010_0010100 = .scmpNe 0b1000001 0b0100010 0b0010100
    ∧ decodeWord 0b00_010110010_1000001_0100010_0010100 = .scmpLt 0b1000001 0b0100010 0b0010100
    ∧ decodeWord 0b00_010110011_1000001_0100010_0010100 = .scmpLe 0b1000001 0b0100010 0b0010100
    ∧ decodeWord 0b00_010110100_1000001_0100010_0010100 = .scmpGt 0b1000001 0b0100010 0b0010100
    ∧ decodeWord 0b00_010110101_1000001_0100010_0010100 = .scmpGe 0b1000001 0b0100010 0b0010100
    ∧ decodeWord 0b00_010110110_1000001_0100010_0010100 = .scmpLtu 0b1000001 0b0100010 0b0010100
    ∧ decodeWord 0b00_010110111_1000001_0100010_0010100 = .scmpGeu 0b1000001 0b0100010 0b0010100 := by
  decide

theorem test_decode_Vc :
    decodeWord 0b00_011000000_1000001_0100010_0010100 = .vcalli 0b1000001 0b0100010 0b0010100
    ∧ decodeWord 0b00_011001000_1000001_0100010_0010100 = .pand 0b1000001 0b0100010 0b0010100
    ∧ decodeWord 0b00_011001001_1000001_0100010_0010100 = .por 0b1000001 0b0100010 0b0010100
    ∧ decodeWord 0b00_011001010_1000001_0100010_0010100 = .pxor 0b1000001 0b0100010 0b0010100
    ∧ decodeWord 0b00_011001011_1000001_0100010_0010100 = .pandn 0b1000001 0b0100010 0b0010100 := by
  decide

theorem test_decode_Q :
    decodeWord 0b01_00_1000001_0100010_0010100_0000101 = .fma 0b1000001 0b0100010 0b0010100 0b0000101
    ∧ decodeWord 0b01_01_1000001_0100010_0010100_0000101 = .fms 0b1000001 0b0100010 0b0010100 0b0000101
    ∧ decodeWord 0b01_10_1000001_0100010_0010100_0000101 = .sel 0b1000001 0b0100010 0b0010100 0b0000101
    ∧ decodeWord 0b01_11_1000001_0100010_0010100_0000101 = .imad 0b1000001 0b0100010 0b0010100 0b0000101 := by
  decide

theorem test_decode_S0 :
    decodeWord 0b10_00000000_100001_1001000000000110 = .smovi 0b100001 0b1001000000000110
    ∧ decodeWord 0b10_00000001_100001_1001000000000110 = .smovhi 0b100001 0b1001000000000110
    ∧ decodeWord 0b10_00000010_100001_1001000000000110 = .saddi 0b100001 0b1001000000000110
    ∧ decodeWord 0b10_00000011_100001_1001000000000110 = .sandi 0b100001 0b1001000000000110
    ∧ decodeWord 0b10_00000100_100001_1001000000000110 = .mode 0b100001 0b1001000000000110
    ∧ decodeWord 0b10_00001000_100001_1001000000000110 = .br 0b100001 0b1001000000000110
    ∧ decodeWord 0b10_00001001_100001_1001000000000110 = .brz 0b100001 0b1001000000000110
    ∧ decodeWord 0b10_00001010_100001_1001000000000110 = .brnz 0b100001 0b1001000000000110
    ∧ decodeWord 0b10_00001011_100001_1001000000000110 = .brany 0b100001 0b1001000000000110
    ∧ decodeWord 0b10_00001100_100001_1001000000000110 = .brall 0b100001 0b1001000000000110
    ∧ decodeWord 0b10_00001101_100001_1001000000000110 = .brdiv 0b100001 0b1001000000000110
    ∧ decodeWord 0b10_00001110_100001_1001000000000110 = .call 0b100001 0b1001000000000110
    ∧ decodeWord 0b10_00001111_100001_1001000000000110 = .calli 0b100001 0b1001000000000110 := by
  decide

theorem test_decode_S1 :
    decodeWord 0b10_00010000_100001_1001000000000110 = .ret 0b100001 0b1001000000000110
    ∧ decodeWord 0b10_00010001_100001_1001000000000110 = .rjoin 0b100001 0b1001000000000110
    ∧ decodeWord 0b10_00010010_100001_1001000000000110 = .exit 0b100001 0b1001000000000110
    ∧ decodeWord 0b10_00010011_100001_1001000000000110 = .exitl 0b100001 0b1001000000000110
    ∧ decodeWord 0b10_00011000_100001_1001000000000110 = .sbal 0b100001 0b1001000000000110
    ∧ decodeWord 0b10_00011001_100001_1001000000000110 = .pset 0b100001 0b1001000000000110
    ∧ decodeWord 0b10_00011010_100001_1001000000000110 = .pcnt 0b100001 0b1001000000000110 := by
  decide

theorem test_decode_S2 :
    decodeWord 0b10_00100000_100001_1001000000000110 = .sld 0b100001 0b1001000000000110
    ∧ decodeWord 0b10_00100001_100001_1001000000000110 = .sst 0b100001 0b1001000000000110
    ∧ decodeWord 0b10_00100010_100001_1001000000000110 = .sldd 0b100001 0b1001000000000110
    ∧ decodeWord 0b10_00101000_100001_1001000000000110 = .vrget 0b100001 0b1001000000000110
    ∧ decodeWord 0b10_00101001_100001_1001000000000110 = .vrset 0b100001 0b1001000000000110 := by
  decide

theorem test_decode_S3 :
    decodeWord 0b10_00110000_100001_1001000000000110 = .brew 0b100001 0b1001000000000110
    ∧ decodeWord 0b10_00110001_100001_1001000000000110 = .xrel 0b100001 0b1001000000000110
    ∧ decodeWord 0b10_00110010_100001_1001000000000110 = .claim 0b100001 0b1001000000000110
    ∧ decodeWord 0b10_00110011_100001_1001000000000110 = .surr 0b100001 0b1001000000000110
    ∧ decodeWord 0b10_00111000_100001_1001000000000110 = .bara 0b100001 0b1001000000000110
    ∧ decodeWord 0b10_00111001_100001_1001000000000110 = .barw 0b100001 0b1001000000000110
    ∧ decodeWord 0b10_00111010_100001_1001000000000110 = .baraw 0b100001 0b1001000000000110
    ∧ decodeWord 0b10_00111011_100001_1001000000000110 = .barq 0b100001 0b1001000000000110
    ∧ decodeWord 0b10_00111100_100001_1001000000000110 = .barwg 0b100001 0b1001000000000110 := by
  decide

theorem test_decode_S4 :
    decodeWord 0b10_01000000_100001_1001000000000110 = .fenceWgAcq 0b100001 0b1001000000000110
    ∧ decodeWord 0b10_01000001_100001_1001000000000110 = .fenceWgRel 0b100001 0b1001000000000110
    ∧ decodeWord 0b10_01000010_100001_1001000000000110 = .fenceWgFull 0b100001 0b1001000000000110
    ∧ decodeWord 0b10_01000011_100001_1001000000000110 = .fenceDieAcq 0b100001 0b1001000000000110
    ∧ decodeWord 0b10_01000100_100001_1001000000000110 = .fenceDieRel 0b100001 0b1001000000000110
    ∧ decodeWord 0b10_01000101_100001_1001000000000110 = .fenceDieFull 0b100001 0b1001000000000110
    ∧ decodeWord 0b10_01000110_100001_1001000000000110 = .fencePkgAcq 0b100001 0b1001000000000110
    ∧ decodeWord 0b10_01000111_100001_1001000000000110 = .fencePkgRel 0b100001 0b1001000000000110
    ∧ decodeWord 0b10_01001000_100001_1001000000000110 = .fencePkgFull 0b100001 0b1001000000000110
    ∧ decodeWord 0b10_01001001_100001_1001000000000110 = .fenceDomAcq 0b100001 0b1001000000000110
    ∧ decodeWord 0b10_01001010_100001_1001000000000110 = .fenceDomRel 0b100001 0b1001000000000110
    ∧ decodeWord 0b10_01001011_100001_1001000000000110 = .fenceDomFull 0b100001 0b1001000000000110
    ∧ decodeWord 0b10_01001100_100001_1001000000000110 = .nmfenceWg 0b100001 0b1001000000000110
    ∧ decodeWord 0b10_01001101_100001_1001000000000110 = .nmfenceDie 0b100001 0b1001000000000110
    ∧ decodeWord 0b10_01001110_100001_1001000000000110 = .nmfencePkg 0b100001 0b1001000000000110
    ∧ decodeWord 0b10_01001111_100001_1001000000000110 = .nmfenceDom 0b100001 0b1001000000000110 := by
  decide

theorem test_decode_S5 :
    decodeWord 0b10_01010000_100001_1001000000000110 = .tfenceWg 0b100001 0b1001000000000110
    ∧ decodeWord 0b10_01010001_100001_1001000000000110 = .tfenceDie 0b100001 0b1001000000000110
    ∧ decodeWord 0b10_01010010_100001_1001000000000110 = .tfencePkg 0b100001 0b1001000000000110
    ∧ decodeWord 0b10_01010011_100001_1001000000000110 = .tfenceDom 0b100001 0b1001000000000110
    ∧ decodeWord 0b10_01011000_100001_1001000000000110 = .batchK 0b100001 0b1001000000000110
    ∧ decodeWord 0b10_01011001_100001_1001000000000110 = .batchA 0b100001 0b1001000000000110
    ∧ decodeWord 0b10_01011010_100001_1001000000000110 = .batchN 0b100001 0b1001000000000110
    ∧ decodeWord 0b10_01011011_100001_1001000000000110 = .batchG 0b100001 0b1001000000000110
    ∧ decodeWord 0b10_01011100_100001_1001000000000110 = .waitbK 0b100001 0b1001000000000110
    ∧ decodeWord 0b10_01011101_100001_1001000000000110 = .waitbA 0b100001 0b1001000000000110
    ∧ decodeWord 0b10_01011110_100001_1001000000000110 = .waitbN 0b100001 0b1001000000000110
    ∧ decodeWord 0b10_01011111_100001_1001000000000110 = .waitbG 0b100001 0b1001000000000110 := by
  decide

theorem test_decode_S6 :
    decodeWord 0b10_01100000_100001_1001000000000110 = .kld 0b100001 0b1001000000000110
    ∧ decodeWord 0b10_01100001_100001_1001000000000110 = .kst 0b100001 0b1001000000000110
    ∧ decodeWord 0b10_01100010_100001_1001000000000110 = .klut 0b100001 0b1001000000000110
    ∧ decodeWord 0b10_01101000_100001_1001000000000110 = .lqry 0b100001 0b1001000000000110
    ∧ decodeWord 0b10_01101001_100001_1001000000000110 = .lapp 0b100001 0b1001000000000110
    ∧ decodeWord 0b10_01101010_100001_1001000000000110 = .lctl 0b100001 0b1001000000000110
    ∧ decodeWord 0b10_01101011_100001_1001000000000110 = .lpf 0b100001 0b1001000000000110 := by
  decide

theorem test_decode_S7 :
    decodeWord 0b10_01110000_100001_1001000000000110 = .qpush 0b100001 0b1001000000000110
    ∧ decodeWord 0b10_01110001_100001_1001000000000110 = .qpop 0b100001 0b1001000000000110
    ∧ decodeWord 0b10_01110010_100001_1001000000000110 = .qtry 0b100001 0b1001000000000110
    ∧ decodeWord 0b10_01110011_100001_1001000000000110 = .dcset 0b100001 0b1001000000000110
    ∧ decodeWord 0b10_01110100_100001_1001000000000110 = .dcdec 0b100001 0b1001000000000110
    ∧ decodeWord 0b10_01110101_100001_1001000000000110 = .dcatt 0b100001 0b1001000000000110
    ∧ decodeWord 0b10_01111000_100001_1001000000000110 = .mark 0b100001 0b1001000000000110
    ∧ decodeWord 0b10_01111001_100001_1001000000000110 = .cut 0b100001 0b1001000000000110
    ∧ decodeWord 0b10_01111010_100001_1001000000000110 = .graft 0b100001 0b1001000000000110
    ∧ decodeWord 0b10_01111011_100001_1001000000000110 = .unmark 0b100001 0b1001000000000110
    ∧ decodeWord 0b10_01111100_100001_1001000000000110 = .enter 0b100001 0b1001000000000110 := by
  decide

theorem test_decode_S8 :
    decodeWord 0b10_10000000_100001_1001000000000110 = .svc 0b100001 0b1001000000000110
    ∧ decodeWord 0b10_10000001_100001_1001000000000110 = .bkpt 0b100001 0b1001000000000110
    ∧ decodeWord 0b10_10000010_100001_1001000000000110 = .srd 0b100001 0b1001000000000110
    ∧ decodeWord 0b10_10000011_100001_1001000000000110 = .swr 0b100001 0b1001000000000110
    ∧ decodeWord 0b10_10000101_100001_1001000000000110 = .yield 0b100001 0b1001000000000110
    ∧ decodeWord 0b10_10000110_100001_1001000000000110 = .tret 0b100001 0b1001000000000110
    ∧ decodeWord 0b10_10001000_100001_1001000000000110 = .shln 0b100001 0b1001000000000110
    ∧ decodeWord 0b10_10001001_100001_1001000000000110 = .hsetn 0b100001 0b1001000000000110 := by
  decide

theorem test_decode_WAKEW :
    decodeWord 0b10_10000100_000100_0000000000000000 = .wakewSignal 0b000100 0
    ∧ decodeWord 0b10_10000100_000000_0000000000000001 = .wakewWait 0
    ∧ decodeWord 0b10_10000100_100001_1001000000000110 = .wakewSignal 0b100001 0b1001000000000110 := by
  decide

/-! Witnesses: words of the scalar slot. -/

/-- ScalarResults: SADD S1 = S2 + S3, the sum wrapping. -/
theorem witness_ScalarResults : ∃ cx, Ready (.sadd 1 2 3) (atW 0x14004103 (setS [(2, 0xFFFFFFFF), (3, 2)])) cx
    ∧ scalarResult (atW 0x14004103 (setS [(2, 0xFFFFFFFF), (3, 2)])) cx (.sadd 1 2 3) = some (.s 1, .word 1) :=
  ready_any (by decide +kernel)

/-- ScalarResults, MODE: no lane is active under the guard P0. -/
theorem witness_ScalarResults_mode : ∃ cx, focus (atW 0x81000000 fun w => { w with mode := 0x4000 }) = some cx
    ∧ eff (atW 0x81000000 fun w => { w with mode := 0x4000 }) cx = 0 ∧ legal (.mode 0 0) = true ∧ 1 ≤ wordsLeft cx.sp :=
  focus_any (by decide +kernel)

/-- Branches: BRZ S1 backwards, taken. -/
theorem witness_Branches : ∃ cx, Ready (.brz 1 0xFFFF) (at0 0x8241FFFF) cx
    ∧ branchOf (at0 0x8241FFFF) cx (.brz 1 0xFFFF) = some (true, 0xFFFF) :=
  ready_any (by decide +kernel)

/-- Branches: BRNZ S1, not taken. -/
theorem witness_Branches_not : ∃ cx, Ready (.brnz 1 2) (at0 0x82810002) cx ∧ branchOf (at0 0x82810002) cx (.brnz 1 2) = some (false, 2) :=
  ready_any (by decide +kernel)

/-- A store of split 0 that is not yet performed, to the word at `loc`. -/
def storeAt (id loc : Nat) : Op :=
  { id := id, seq := 0, split := 0, order := [0], flag := some 0, pc := 0x1000, due := 9, blocks := false, present := false
    kind := .access (mkAccess .store .nowhere 1 [{ mkPiece 0 0 4 0x8000 [1, 2, 3, 4] with
      at? := some { loc := loc, kind := 0, key := none, counter := none } }]) }

/-- The warp with an operation. -/
def withOp (o : Op) (w : Warp) : Warp := { w with ops := [o] }

/-- OrderingWords: FENCE.DOM.FULL with nothing outstanding. -/
theorem witness_OrderingWords : ∃ cx, Ready (.fenceDomFull 0 0) (at0 0x92C00000) cx
    ∧ noEffect (at0 0x92C00000) cx (.fenceDomFull 0 0) = true :=
  ready_any (by decide +kernel)

/-- OrderingWords: FENCE.WG.REL after a store that is not performed. -/
theorem witness_OrderingWords_waits : ∃ cx, Ready (.fenceWgRel 0 0) (atW 0x90400000 (withOp (storeAt 7 (hbmLoc 0x40008000)))) cx
    ∧ orderReady (atW 0x90400000 (withOp (storeAt 7 (hbmLoc 0x40008000)))) cx (.fenceWgRel 0 0) = some false :=
  ready_any (by decide +kernel)

/-- OrderingWords: TFENCE.PKG with nothing outstanding. -/
theorem witness_OrderingWords_tfence : ∃ cx, Ready (.tfencePkg 0 0) (at0 0x94800000) cx
    ∧ tfenceOf (.tfencePkg 0 0) = some .pkg ∧ storesDone (at0 0x94800000) cx .pkg = true :=
  ready_any (by decide +kernel)

/-! Witnesses: words of the vector slot. -/

/-- VectorRows: VADD V1 = V2 + V3. -/
theorem witness_VectorRows : ∃ cx ls t, Issues (.vector false) false (.vadd 1 2 3) (at0 0x00204103) cx ls t
    ∧ okAnd (readOperands (.vadd 1 2 3) cx ls (specAB 1 2 3) t) (fun x =>
        (rowWord cx (eff (at0 0x00204103) cx) x (.vadd 1 2 3)).any fun r => r.legal && decide (r.spec.dst = some 1)) = true :=
  issues_any (by decide +kernel)

/-- The workgroup's keg 0 is empty, and keg 1 holds one written entry. -/
def atKegs (i : Instr) : State :=
  atG ((encodeWord i).getD 0).toNat fun g => { g with
    kegs := (g.kegs.set 0 { base := 8, cap := 4, next := 2, entries := [] }).set 1
      { base := 0, cap := 4, next := 1, entries := [{ id := 3, place := 0, written := true }] } }

/-- VectorRows, the operands: a keg and a literal to a keg; brew registers of two ages and the iteration index to the own block; the lane
index and 64 to no place. -/
theorem witness_VectorRows_kegs : ∃ cx ls t, Issues (.vector false) false (.vadd 112 113 127) (atKegs (.vadd 112 113 127)) cx ls t
    ∧ okAnd (readOperands (.vadd 112 113 127) cx ls (specAB 112 113 127) t) (fun x => decide (x.dest = .keg 0 t.nextId)) = true :=
  issues_any (by decide +kernel)

/-- The warp before the word of `i` is iteration warp `n` of a brew of two ages, its own block and all others present. -/
def inBrew (i : Instr) (n : Nat) : State :=
  let s := placed i fun x => { x with iter := some n }
  setCore s 0 { coreAt s 0 with
    presence := BitVec.allOnes 256
    brew := some { wg := 0, host := 63, n := 3, stages := 2, fresh := 2, ages := 2, blocks := 1, depth := 4, resume := 0x4000, start := 0x2000
                   next := 2, regs := List.replicate 64 0, mode := 0, lastSpawn := some 1, requested := false } }
theorem witness_VectorRows_brew : ∃ cx ls t, Issues (.vector false) false (.vadd 80 82 122) (inBrew (.vadd 80 82 122) 1) cx ls t
    ∧ (cx.w.iter = some 1 ∧ okAnd (readOperands (.vadd 80 82 122) cx ls (specAB 80 82 122) t) (fun x => decide (x.dest = .brew 2)) = true) :=
  issues_any (by decide +kernel)
theorem witness_VectorRows_before : ∃ cx ls t, Issues (.vector false) false (.vadd 81 83 120) (inBrew (.vadd 81 83 120) 0) cx ls t
    ∧ (cx.w.iter = some 0 ∧ okAnd (readOperands (.vadd 81 83 120) cx ls (specAB 81 83 120) t) (fun x => decide (x.dest = .brew 1)) = true) :=
  issues_any (by decide +kernel)
theorem witness_VectorRows_none : ∃ cx ls t, Issues (.vector false) false (.vsub 120 121 123) (placed (.vsub 120 121 123) id) cx ls t
    ∧ okAnd (readOperands (.vsub 120 121 123) cx ls (specAB 120 121 123) t) (fun x => decide (x.dest = .none)) = true :=
  issues_any (by decide +kernel)

/-- VectorCompares: VCMP.LT P1 = V2 < V3 under I32. -/
theorem witness_VectorCompares : ∃ cx ls t, Issues (.vector false) false (.vcmpLt 1 2 3) (at0 0x02404103) cx ls t
    ∧ (cmpOf (.vcmpLt 1 2 3) = some (1, 2, 3, .lt) ∧ wideMode cx.w.mode = true
      ∧ okAnd (readOperands (.vcmpLt 1 2 3) cx ls { specAB 1 2 3 with dst := none } t) (fun _ => true) = true) :=
  issues_any (by decide +kernel)

/-- SpecialFunctions: VRCP V1 = 1 / V2 under F32. -/
theorem witness_SpecialFunctions : ∃ cx ls t,
    Issues (.vector false) false (.vrcp 1 2 0) (atW 0x04004100 fun w => { w with mode := 0x100 }) cx ls t
    ∧ (f32Mode cx.w.mode = true
      ∧ okAnd (readOperands (.vrcp 1 2 0) cx ls { VSpec.unary 1 2 0 with port := some .sfu, long := some false } t) (fun _ => true) = true) :=
  issues_any (by decide +kernel)

/-- IntegerArithmetic: VSRA V1 = V2 >> V3 under I32. -/
theorem witness_IntegerArithmetic : ∃ cx ls t, Issues (.vector false) false (.vsra 1 2 3) (at0 0x01C04103) cx ls t
    ∧ ((intWord (.vsra 1 2 3)).isSome = true ∧ etOf cx.w.mode = .i32 ∧ satOf cx.w.mode = false
      ∧ okAnd (readOperands (.vsra 1 2 3) cx ls (specAB 1 2 3) t) (fun x => decide (x.dest ≠ .none)) = true) :=
  issues_any (by decide +kernel)

/-- MemoryWords: VLD.Q of four registers from the address of V4 and S2. -/
theorem witness_MemoryWords : ∃ cx ls t, Issues (.vector false) false (.vldQ 8 4 2) (atW 0x08820202 (setS [(2, 0x8000)])) cx ls t
    ∧ okAnd (readOperands (.vldQ 8 4 2) cx ls { memSpec 4 with more := [8, 9, 10, 11] } t) (fun x =>
        (memWord t cx x (.vldQ 8 4 2)).any fun m => m.ready && decide (m.spec.more = [8, 9, 10, 11])
          && decide (bufferUsed x.s cx.k < 64)
          && okAnd (translateAccess x.s cx m.access (fun _ => true)) fun tr => !tr.faulted) = true :=
  issues_any (by decide +kernel)

/-- MemoryWords: SST of S1 to the address of the pair S2. -/
theorem witness_MemoryWords_scalar : ∃ cx, Ready (.sst 1 0x0800) (atW 0x88410800 (setS [(2, 0x8000)])) cx
    ∧ ((scalarAccess (useScalar (unpark (atW 0x88410800 (setS [(2, 0x8000)])) cx) cx.k) cx (.sst 1 0x0800)).any fun a =>
        (cxFlag cx true).isSome && decide (bufferUsed (useScalar (unpark (atW 0x88410800 (setS [(2, 0x8000)])) cx) cx.k) cx.k < 64)
        && okAnd (translateAccess (useScalar (unpark (atW 0x88410800 (setS [(2, 0x8000)])) cx) cx.k) cx a (fun _ => true)) fun tr => !tr.faulted)
      = true :=
  ready_any (by decide +kernel)

/-- MemoryWords: the same with an unmapped page; SST to one. -/
theorem witness_MemoryWords_faults : ∃ cx ls t, Issues (.vector false) false (.vldQ 8 4 2) (atW 0x08820202 (setS [(2, 0x40008000)])) cx ls t
    ∧ okAnd (readOperands (.vldQ 8 4 2) cx ls { memSpec 4 with more := [8, 9, 10, 11] } t) (fun x =>
        (memWord t cx x (.vldQ 8 4 2)).any fun m => m.ready && decide (bufferUsed x.s cx.k < 64)
          && okAnd (translateAccess x.s cx m.access (fun _ => true)) fun tr => tr.faulted) = true :=
  issues_any (by decide +kernel)
theorem witness_MemoryWords_scalar_faults : ∃ cx, Ready (.sst 1 0x0800) (atW 0x88410800 (setS [(2, 0x40008000)])) cx
    ∧ ((scalarAccess (useScalar (unpark (atW 0x88410800 (setS [(2, 0x40008000)])) cx) cx.k) cx (.sst 1 0x0800)).any fun a =>
        (cxFlag cx true).isSome && decide (bufferUsed (useScalar (unpark (atW 0x88410800 (setS [(2, 0x40008000)])) cx) cx.k) cx.k < 64)
        && okAnd (translateAccess (useScalar (unpark (atW 0x88410800 (setS [(2, 0x40008000)])) cx) cx.k) cx a (fun _ => true)) fun tr =>
          tr.faulted) = true :=
  ready_any (by decide +kernel)

/-- MemoryWords, where an address leads: space 1 has no descriptor; core 0, not core 1, is the tenancy's; with no core to cache for it,
the walk of address 0 ends at the leaf of its first GiB, and that of the next GiB where the entry is invalid. -/
def someReq (core : Option Nat) (len : Nat) : Req := { asid := 0, ten := 0, core := core, slot := len, svc := false, acc := .load, path := .plain }
theorem witness_MemoryWords_leads : (at0 0).level = 2 ∧ inCoreSet (at0 0) 0 0 = true ∧ inCoreSet (at0 0) 0 1 = false
    ∧ (descriptor (at0 0) 1).valid = false ∧ (descriptor (at0 0) 0).valid = true ∧ (descriptor (at0 0) 0).ten = 0 := by decide +kernel
theorem witness_MemoryWords_afresh : Afresh (at0 0) (someReq none 0) ∧ Afresh (at0 0) (someReq (some 1) 0) :=
  ⟨fun _ h => (nomatch h), fun c h => by cases h; decide +kernel⟩
theorem witness_MemoryWords_leaf : Walked (at0 0) 0 0 ((descriptor (at0 0) 0).root / 4096 * 4096) false (.leaf placedLeaf 30) 1 :=
  .down 0 _ false (entryAt (at0 0) 0x100000) _ _ (by decide +kernel) (by decide +kernel) (by decide +kernel) (by decide) (by decide +kernel)
    (.leaf 1 _ _ placedLeaf (by decide +kernel) (by decide) (by decide) (by decide) (by decide))
theorem witness_MemoryWords_invalid : Walked (at0 0) (2 ^ 30) 0 ((descriptor (at0 0) 0).root / 4096 * 4096) false (.fault .notValid) 1 :=
  .down 0 _ false (entryAt (at0 0) 0x100000) _ _ (by decide +kernel) (by decide +kernel) (by decide +kernel) (by decide) (by decide +kernel)
    (.invalid 1 _ _ 0 (by decide +kernel) (by decide))

/-- The check stops so. -/
def stopsWith {α : Type} (e : Except Bad α) (q : Bad → Bool) : Bool :=
  match e with
  | .error b => q b
  | .ok _ => false

/-- MemoryWords: pieces that are sound, trap, and fault; a piece that lies in one location. -/
theorem witness_MemoryWords_checks :
    okAnd (checkPiece (at0 0) (someReq (some 0) 0) false (mkPiece 0 0 4 0x8004 [])) (fun r => match r with
      | [(0, 4, x)] => decide (x.1.loc = hbmLoc (2 ^ 30 + 0x8004))
      | _ => false) = true
    ∧ stopsWith (checkPiece (at0 0) (someReq (some 0) 0) false (mkPiece 0 0 4 0xDEAD000000000000 [])) (fun b =>
      decide (b = .trap .dangle 0xDEAD0000)) = true
    ∧ stopsWith (checkPiece (at0 0) (someReq (some 0) 0) true (mkPiece 0 0 4 0x8002 [])) (fun b => decide (b = .trap .align 0x8002)) = true
    ∧ stopsWith (checkPiece (at0 0) (someReq (some 0) 0) false (mkPiece 0 0 4 0x40000000 [])) (fun b => match b with
      | .faults [f] => decide (f.cause = .notValid)
      | _ => false) = true := by decide +kernel

/-- MemoryWords: a slot that is not loaded, and a control page read 16 bytes at once. -/
theorem witness_MemoryWords_slot : ¬SlotHeld (at0 0) 0 (some 7) ∧ SlotHeld (at0 0) 0 none
    ∧ ¬KindAllows (someReq none 0) (4 * 2 ^ 12) 0x8000 16 ∧ KindAllows (someReq none 0) 0 0x8000 16 :=
  by
  refine ⟨fun h => ?_, fun _ h => ?_, fun h => ?_, ⟨fun h => ?_, fun h => ?_, fun h => ?_⟩⟩
  · obtain ⟨x, hx, _⟩ := h 7 rfl
    cases hx
  · cases h
  · exact absurd (h.2.2 (by decide)) (by decide)
  · exact absurd h (by decide)
  · exact absurd h (by decide)
  · exact absurd h (by decide)

/-- MemoryWords, what a leaf gives: entries of 4 KiB pages with an unknown kind, for service only, migrating, without R, W or X; a page
of an encrypted space whose slot is not loaded; a control page read 16 bytes at once. -/
theorem witness_MemoryWords_leaves : leafSound (5 * 2 ^ 12 + 3) 12 = false ∧ leafSound 0x23 12 = true ∧ pteBit 0x23 5 = true
    ∧ leafSound 0x80F 12 = true ∧ pteBit 0x80F 11 = true ∧ leafSound 3 12 = true ∧ pteBit 3 5 = false ∧ pteBit 3 11 = false
    ∧ pteBit 3 2 = false ∧ pteBit 3 3 = false ∧ pteBit 3 4 = false := by decide +kernel

/-- RegisterMoves: VRGET of V3 to V1. -/
theorem witness_RegisterMoves : ∃ cx ls t, Issues (.vector false) false (.vrget 4 0x0203) (at0 0x8A040203) cx ls t
    ∧ (ls = [] ∧ moveOf t cx (.vrget 4 0x0203) = some (3, 3, 1)
      ∧ okAnd (readOperands (.vrget 4 0x0203) cx [] { VSpec.simple 1 [] with popD := some 3, long := none } t) (fun _ => true) = true) :=
  issues_any (by decide +kernel)

/-- Four warps of one quad, the first before the word `w`. -/
def quadOf4 (w : Nat) (f : Warp → Warp) : State :=
  let s := atW w f
  match warpAt s 0 with
  | none => s
  | some x =>
    { s with
      warps := [0, 16, 32, 48].map fun k => (k, { x with index := k / 16 })
      wgs := s.wgs.map fun e => (e.1, { e.2 with
        n := 4, warps := [(0, 0), (1, 16), (2, 32), (3, 48)], slots := [0, 16, 32, 48], quads := [[]] }) }

/-- MatrixWords: MMAZ V4 from V8 and V12, in a whole quad. -/
theorem witness_MatrixWords : ∃ cx ls t, Issues (.vector true) false (.mmaz 4 8 12) (quadOf4 0x1141040C id) cx ls t
    ∧ ((quadAt t (coreOfSlot cx.k) (quadOfSlot cx.k)).arrayFree ≤ t.now ∧ matrixBound t cx 4 8 12 = none ∧ quadForbidden cx = false
      ∧ eff (quadOf4 0x1141040C id) cx = BitVec.allOnes 64 ∧ (cxFlag cx false).isSome = true
      ∧ (coreAt t (coreOfSlot cx.k)).quads.length = 4) :=
  issues_any (by decide +kernel)

/-- HeadingArithmetic: HNEG H1 of H2. -/
theorem witness_HeadingArithmetic : ∃ cx ls t, Issues (.vector true) false (.hneg 1 2 0) (at0 0x12A04100) cx ls t
    ∧ okAnd (readOperands (.hneg 1 2 0) cx ls { VSpec.simple 1 [] with dst := none, both := true, port := some .heading } t)
        (fun x => (headingOf t cx x (.hneg 1 2 0)).isSome) = true :=
  issues_any (by decide +kernel)

/-- HeadingReads: HDOT to V1. -/
theorem witness_HeadingReads : ∃ cx ls t, Issues (.vector true) false (.hdot 1 2 3) (at0 0x12E04103) cx ls t
    ∧ ((dotOf cx (.hdot 1 2 3)).isSome = true
      ∧ okAnd (readOperands (.hdot 1 2 3) cx ls { VSpec.simple 1 [] with both := true, port := some .heading } t)
          (fun x => decide (x.dest ≠ .none)) = true) :=
  issues_any (by decide +kernel)

/-- HeadingReads: HEXP to V4 and V5. -/
theorem witness_HeadingReads_components : ∃ cx ls t, Issues (.vector true) false (.hexp 4 2 0) (at0 0x12410100) cx ls t
    ∧ okAnd (readOperands (.hexp 4 2 0) cx ls
        { VSpec.simple 4 [] with dst := none, more := [4, 5], both := true, port := some .heading } t) (fun _ => true) = true :=
  issues_any (by decide +kernel)

/-- HeadingReads: HSETN of heading 15. -/
theorem witness_HeadingReads_norm : ∃ cx, Ready (.hsetn 1 15) (at0 0xA241000F) cx ∧ True :=
  ready_any (by decide +kernel)

/-! Witnesses: stack words, divisions and ends. -/

/-- FramePush: CALL, MARK. The header is stored. -/
def pushable (i : Instr) (s : State) (cx : Cx) (u : State) (cold : Bool := false) : Bool :=
  let t0 := useSlot .scalar u cx.k
  (pushOf t0 cx i).any fun p => p.ready && quietSplit cx && decide (cx.w.s.length = 64)
    && decide ((stOf cx.w).toNat + 32 ≤ (slimOf cx.w).toNat)
    && okAnd (storeNow t0 (cx.req .store .plain) (stackVa cx.w (stOf cx.w)) (Frame.bytes
      { link := stOf cx.w - fbOf cx.w, rpc := p.rpc, mode := cx.w.mode, markw := p.markw, pmap := 0, mask := cx.sp.mask }))
      fun _ => decide (s.now = u.now ∧ asleep t0 (slicesOf t0 (cx.req .store .plain) (stackVa cx.w (stOf cx.w)) 32) = cold)

/-- FramePush: CALL 16 words ahead. -/
theorem witness_FramePush : ∃ cx ls t, Issues .scalar true (.call 0 16) (at0 0x83800010) cx ls t
    ∧ (ls = [] ∧ pushable (.call 0 16) (at0 0x83800010) cx t = true) :=
  issues_any (by decide +kernel)

/-- Core 1 is of the core set, and its clock is stopped. -/
def gatedOne (s : State) : State :=
  setCore { s with tenancies := [(0, { placedTenancy with coreSet := [0, 1] })] } 1 { coreAt s 1 with gatedAt := some 0 }

/-- The warp's stack lies in the slice of core 1. -/
def stackInOne (w : Warp) : Warp :=
  { setS [(60, 0x100400), (61, 0x100400), (62, 0x100000), (63, 0x100C00)] w with stkhi := 0x7F00, sbase := 0x101000 }

/-- FramePush: CALL, the header in the slice of a core whose clock is stopped. -/
theorem witness_FramePush_asleep : ∃ cx ls t, Issues .scalar true (.call 0 16) (gatedOne (atW 0x83800010 stackInOne)) cx ls t
    ∧ (ls = [] ∧ pushable (.call 0 16) (gatedOne (atW 0x83800010 stackInOne)) cx t true = true) :=
  issues_any (by decide +kernel)

/-- FramePush: MARK with tag 0xFFFF. -/
theorem witness_FramePush_mark : ∃ cx ls t, Issues .scalar true (.mark 1 0xFFFF) (at0 0x9E01FFFF) cx ls t
    ∧ (ls = [] ∧ pushable (.mark 1 0xFFFF) (at0 0x9E01FFFF) cx t = true) :=
  issues_any (by decide +kernel)

/-- FramePush, ENTER: the extent ends at SLIM. -/
theorem witness_FramePush_enter : ∃ cx, Ready (.enter 0 0x0800) (at0 0x9F000800) cx
    ∧ (cx.w.s.length = 64 ∧ (fbOf cx.w).toNat + 32 + 0x800 = (slimOf cx.w).toNat) :=
  ready_any (by decide +kernel)

/-- A frame at ST with the header `f`, already pushed: FB at it, ST after it. -/
def atFrame (w : Nat) (f : Frame) : State :=
  let s := at0 w
  match warpAt s 0 with
  | none => s
  | some x =>
    updWarp { s with mem := memWrite s.mem (hbmLoc (2 ^ 30 + (stOf x).toNat)) f.bytes } 0
      (setS [(60, stOf x), (61, stOf x + 32)])

/-- A plain frame: back to 0x2000 with MODE 0x0800 and every lane. -/
def plainFrame : Frame := { link := 32, rpc := 0x2000, mode := 0x0800, markw := 0, pmap := 0, mask := BitVec.allOnes 64 }

/-- A mark frame with tag 9. -/
def markFrame : Frame := { plainFrame with markw := 0x80000009 }

/-- FramePop: RET from a plain frame. -/
theorem witness_FramePop : ∃ cx, Ready (.ret 0 0) (atFrame 0x84000000 plainFrame) cx
    ∧ (quietSplit cx = true ∧ cx.w.s.length = 64 ∧ inBase cx.w = false
      ∧ okAnd (readFrame (useScalar (unpark (atFrame 0x84000000 plainFrame) cx) cx.k) cx (fbOf cx.w)) (fun r =>
          !r.1.marked && !r.1.rpc.getLsbD 0 && decide (restoredMask cx.w cx.j r.1.mask ≠ 0) && decide (r.1 = plainFrame)) = true) :=
  ready_any (by decide +kernel)

/-- FramePop: UNMARK from a mark frame. -/
theorem witness_FramePop_unmark : ∃ cx ls t, Issues .scalar true (.unmark 0 0) (atFrame 0x9EC00000 markFrame) cx ls t
    ∧ (ls = [] ∧ quietSplit cx = true ∧ cx.w.s.length = 64 ∧ inBase cx.w = false
      ∧ okAnd (readFrame (useSlot .scalar t cx.k) cx (fbOf cx.w)) (fun r => r.1.marked) = true) :=
  issues_any (by decide +kernel)

/-- A VCALLI of the pair S4 with offset V5 at 0x3000 has called all lanes, of which lanes 0 and 2 to 63 go to 0x2000 and lane 1 to
0x2000 + `off`; the frame of the first call, the record below it at ST, is on the stack. -/
def groupFrame : Frame := { plainFrame with link := 48, rpc := 0x3001 }
def atGroup (off : Word) : State :=
  let s := at0 0x84000000
  match warpAt s 0 with
  | none => s
  | some x =>
    let m := memWrite s.mem (hbmLoc (2 ^ 30 + (stOf x).toNat)) (leBytes 8 0x2000 ++ leBytes 8 (2 ^ 64 - 1) ++ groupFrame.bytes)
    updWarp { s with mem := memWrite m (hbmLoc (2 ^ 30 + 0x3000)) (leBytes 4 0x18000284) } 0 fun w =>
      setS [(4, 0x2000), (60, stOf x + 16), (61, stOf x + 48)] { w with v := w.v.set 5 (rowOf fun l => if l = 1 then off else 0) }

/-- What RET meets of that call: the context after the pop, the record, the offsets, the state then. -/
def groupReads (s2 : State) (cx : Cx) (q : Cx → List Byte → Row → State → Bool) : Bool :=
  (cxAt (popped s2 cx groupFrame) cx.k cx.j).any fun c1 =>
    let c : Cx := { c1 with sp := { c1.sp with pc := cx.sp.pc, clause := cx.sp.clause } }
    okAnd (fetchWord (popped s2 cx groupFrame) c (groupFrame.rpc - 1)) fun w =>
      decide (decodeWord w.1 = .vcalli 0 5 4)
        && okAnd (stackLoad w.2 c (stackVa c.w (stOf c.w - 16)) 16) fun b =>
          okAnd (laterOffsets b.2 c (groupFrame.rpc - 1) 5 (stOf c.w - 16)) fun o => q c b.1 o.1 o.2

theorem groupReturn_of {s2 : State} {cx : Cx} {q : Cx → List Byte → Row → State → Bool} (h : groupReads s2 cx q = true) :
    ∃ c bs row s5, GroupReturn s2 s5 cx c groupFrame 0 5 4 (stOf c.w - 16) bs row ∧ q c bs row s5 = true := by
  obtain ⟨c1, hc, h⟩ := any_some h
  obtain ⟨w, hw, h⟩ := okAnd_ok h
  rw [Bool.and_eq_true] at h
  obtain ⟨b, hb, h'⟩ := okAnd_ok h.2
  obtain ⟨o, ho, h''⟩ := okAnd_ok h'
  exact ⟨_, b.1, o.1, o.2, ⟨⟨c1, hc, rfl⟩, by decide, rfl, ⟨w.1, w.2, b.2, hw, of_decide_eq_true h.1, hb, ho⟩⟩, h''⟩

/-- RET meets that frame, with a further test. -/
def ReturnsFrom (off : Word) (q : Cx → Cx → List Byte → Row → State → Bool) : Prop :=
  ∃ cx s2 c bs row s5, Ready (.ret 0 0) (atGroup off) cx ∧ quietSplit cx = true ∧ cx.w.s.length = 64 ∧ inBase cx.w = false
    ∧ readFrame (useScalar (unpark (atGroup off) cx) cx.k) cx (fbOf cx.w) = .ok (groupFrame, s2)
    ∧ restoredMask cx.w cx.j groupFrame.mask ≠ 0 ∧ GroupReturn s2 s5 cx c groupFrame 0 5 4 (stOf c.w - 16) bs row
    ∧ q cx c bs row s5 = true
theorem returnsFrom_of {off : Word} {q : Cx → Cx → List Byte → Row → State → Bool}
    (h : ((focus (atGroup off)).any fun cx => decide (eff (atGroup off) cx ≠ 0 ∧ legal (.ret 0 0) = true ∧ 1 ≤ wordsLeft cx.sp
      ∧ quietSplit cx = true ∧ cx.w.s.length = 64 ∧ inBase cx.w = false)
      && okAnd (readFrame (useScalar (unpark (atGroup off) cx) cx.k) cx (fbOf cx.w)) fun r =>
        decide (r.1 = groupFrame ∧ restoredMask cx.w cx.j groupFrame.mask ≠ 0) && groupReads r.2 cx (q cx)) = true) : ReturnsFrom off q := by
  obtain ⟨cx, hf, h⟩ := any_some h
  rw [Bool.and_eq_true] at h
  obtain ⟨h1, h2, h3, h4, h5, h6⟩ := of_decide_eq_true h.1
  obtain ⟨r, hr, h⟩ := okAnd_ok h.2
  rw [Bool.and_eq_true] at h
  obtain ⟨e, m⟩ := of_decide_eq_true h.1
  obtain ⟨c, bs, row, s5, g, hq⟩ := groupReturn_of h.2
  exact ⟨cx, r.2, c, bs, row, s5, ⟨hf, h1, h2, h3⟩, h4, h5, h6, by rw [hr, ← e], m, g, hq⟩

/-- FramePop: RET from the frame of a VCALLI, no target left, and one more. -/
theorem witness_FramePop_last : ReturnsFrom 0 fun _ c bs row s5 =>
  decide (nextTarget (calledLanes c bs) (groupTarget s5 c 4 row) (some (BitVec.ofNat 64 (field bs 0 8))) = none) :=
  returnsFrom_of (by decide +kernel)
theorem witness_FramePop_next : ReturnsFrom 0x100 fun cx c bs row s5 =>
  decide (nextTarget (calledLanes c bs) (groupTarget s5 c 4 row) (some (BitVec.ofNat 64 (field bs 0 8))) = some 0x2100
    ∧ (fbOf cx.w).toNat + 32 ≤ (slimOf cx.w).toNat) && !unbound s5 c 0x2100
    && okAnd (stackStore s5 c (stackVa cx.w (stOf c.w - 16)) (leBytes 8 0x2100)) fun s6 =>
      okAnd (stackStore s6 c (stackVa cx.w (fbOf cx.w)) (Frame.bytes
        { link := groupFrame.link, rpc := groupFrame.rpc, mode := groupFrame.mode &&& 0xFFFC, markw := 0, pmap := 0
          mask := restoredMask cx.w cx.j groupFrame.mask })) fun _ => true :=
  returnsFrom_of (by decide +kernel)

/-- A mark frame with tag 9 at ST, and a plain frame above it; the slice's buffer of 4096 bytes is at 0x8000. -/
def atSlice (w : Nat) : State :=
  let s := atFrame w markFrame
  match warpAt s 0 with
  | none => s
  | some x =>
    updWarp { s with mem := memWrite s.mem (hbmLoc (2 ^ 30 + (stOf x).toNat)) plainFrame.bytes } 0
      (setS [(60, stOf x), (61, stOf x + 32), (4, 0x8000), (6, 4096)])

/-- CUT meets the hypotheses of SliceCut from its walk on. -/
def cuttable (cx : Cx) (t0 : State) : Bool :=
  let buf := readPair t0 cx.w 4
  okAnd (cutWalk cx 9 ((fbOf cx.w).toNat + 1) (fbOf cx.w) none 0 t0) fun x =>
    match x.1.mark, x.1.low with
    | some (_, fh), some origin =>
      decide (128 + (stOf cx.w - origin).toNat ≤ (readS t0 cx.w 6).toNat)
        && !rangesMeet buf.toNat (128 + (stOf cx.w - origin).toNat) (stackVa cx.w origin).toNat (stOf cx.w - origin).toNat
        && (okAnd (stackLoad x.2 cx (stackVa cx.w origin) (stOf cx.w - origin).toNat) fun y =>
          okAnd (stackStore y.2 cx buf ((cutHeader t0 cx 9 x.1 origin).bytes
            ++ leBytes 4 (crc32c ((cutHeader t0 cx 9 x.1 origin).bytes ++ y.1)).toNat ++ y.1)) fun _ => true)
        && decide (restoredMask cx.w cx.j fh.mask ≠ 0) && decide (buf.toNat % 8 = 0)
    | _, _ => false

/-- SliceCut: CUT of one frame above the mark. -/
theorem witness_SliceCut : ∃ cx ls t, Issues .scalar true (.cut 4 9) (atSlice 0x9E440009) cx ls t
    ∧ (ls = [] ∧ (cxFlag cx true).isSome = true ∧ cx.w.iter = none ∧ quietSplit cx = true ∧ cx.w.s.length = 64
      ∧ cuttable cx (useSlot .scalar t cx.k) = true) :=
  issues_any (by decide +kernel)

/-- The header of a slice of one plain frame whose stack address was 0x10680. -/
def sliceHeader : SliceHeader :=
  { asid := 0, frames := 1, tag := 9, size := 32, fboff := 0, origin := 0x10680, resume := 0x3000, mask := BitVec.allOnes 64
    sreg := (List.range 16).map fun n => BitVec.ofNat 32 n, mode := 0 }

/-- Its checksum, as it stands in the header. -/
def sliceCrc : List Byte := [0x66, 0xC4, 0xA9, 0x6F]

/-- The bytes the checksum covers. -/
def sliceBytes : List Byte := sliceHeader.bytes ++ plainFrame.bytes

/-- A part of them. -/
def slicePart (n : Nat) : List Byte := (sliceBytes.drop (26 * n)).take 26

theorem slice_parts : sliceBytes = slicePart 0 ++ slicePart 1 ++ slicePart 2 ++ slicePart 3 ++ slicePart 4 ++ slicePart 5 := by
  decide +kernel
theorem slice_part0 : (slicePart 0).foldl crcByte 0xFFFFFFFF = 0x85151359 := by decide +kernel
theorem slice_part1 : (slicePart 1).foldl crcByte 0x85151359 = 0x486E1A12 := by decide +kernel
theorem slice_part2 : (slicePart 2).foldl crcByte 0x486E1A12 = 0x97ED2E38 := by decide +kernel
theorem slice_part3 : (slicePart 3).foldl crcByte 0x97ED2E38 = 0x03AD7C2C := by decide +kernel
theorem slice_part4 : (slicePart 4).foldl crcByte 0x03AD7C2C = 0x4D6B9474 := by decide +kernel
theorem slice_part5 : (slicePart 5).foldl crcByte 0x4D6B9474 = 0x90563B99 := by decide +kernel

/-- The checksum is that of the slice. -/
theorem witness_SliceGraft_crc : crc32c ((sliceHeader.bytes ++ sliceCrc).take 124 ++ plainFrame.bytes)
    = BitVec.ofNat 32 (field (sliceHeader.bytes ++ sliceCrc) 124 4) := by
  have h : (sliceHeader.bytes ++ sliceCrc).take 124 ++ plainFrame.bytes = sliceBytes := by decide +kernel
  rw [h, crc32c, slice_parts]
  simp only [List.foldl_append, slice_part0, slice_part1, slice_part2, slice_part3, slice_part4, slice_part5]
  decide +kernel

/-- That slice in memory at 0x8000, its address in S4. -/
def atGraft (w : Nat) : State :=
  let s := atW w (setS [(4, 0x8000)])
  { s with mem := memWrite s.mem (hbmLoc (2 ^ 30 + 0x8000)) (sliceHeader.bytes ++ sliceCrc ++ plainFrame.bytes) }

/-- GRAFT meets the hypotheses of SliceGraft; `witness_SliceGraft_crc` is the one of the checksum. -/
def graftable (cx : Cx) (t0 : State) : Bool :=
  let a := readPair t0 cx.w 4
  okAnd (stackLoad t0 cx a 128) fun x =>
    let h := x.1
    decide (a.toNat % 8 = 0 ∧ field h 0 4 = 0x534C4943 ∧ field h 4 4 = 1 ∧ field h 8 2 = cx.w.asid
      ∧ (stOf cx.w).toNat + field h 16 4 ≤ (slimOf cx.w).toNat ∧ field h 20 4 + 32 ≤ field h 16 4 ∧ field h 16 4 % 8 = 0
      ∧ field h 20 4 % 8 = 0)
    && okAnd (stackLoad x.2 cx (a + 128) (field h 16 4)) fun y =>
      decide (h = sliceHeader.bytes ++ sliceCrc ∧ y.1 = plainFrame.bytes)
        && (match sliceFrames y.1 (field h 10 2) (field h 20 4) with
          | none => false
          | some offs =>
            okAnd (stackStore y.2 cx (stackVa cx.w (stOf cx.w))
              (patch (patch (remapAll (BitVec.ofNat 64 (field h 24 8)) (field h 16 4)
                (stackVa cx.w (stOf cx.w) - BitVec.ofNat 64 (field h 24 8)) offs (field h 16 4) y.1) 0
                  (leBytes 4 (stOf cx.w - fbOf cx.w).toNat ++ leBytes 8 (cx.sp.pc + 4).toNat ++ leBytes 4 cx.w.mode.toNat))
                24 (leBytes 8 cx.sp.mask.toNat))) fun _ => true)
        && decide (restoredMask cx.w cx.j (BitVec.ofNat 64 (field h 40 8) &&& cx.sp.mask) ≠ 0)

/-- SliceGraft: GRAFT of a slice of one frame. -/
theorem witness_SliceGraft : ∃ cx ls t, Issues .scalar true (.graft 4 0) (atGraft 0x9E840000) cx ls t
    ∧ (ls = [] ∧ lastInClause cx (.graft 4 0) = true ∧ (cxFlag cx true).isSome = true ∧ cx.w.iter = none ∧ quietSplit cx = true
      ∧ cx.w.s.length = 64 ∧ graftable cx (useSlot .scalar t cx.k) = true) :=
  issues_any (by decide +kernel)

/-- VCALLI meets the hypotheses of GroupCall. -/
def groupCallable (cx : Cx) (t0 : State) (ls : List Word) : Bool :=
  okAnd (readOperands (.vcalli 0 5 4) cx ls { VSpec.simple 0 [5] with dst := none } t0) fun x =>
    match nextTarget (eff t0 cx) (fun l => readPair t0 cx.w 4 + (lane (x.row 0) l).signExtend 64) none with
    | none => false
    | some g =>
      decide (g.toNat % 4 = 0 ∧ (stOf cx.w).toNat + 16 + 32 ≤ (slimOf cx.w).toNat) && !unbound t0 cx g
        && okAnd (stackStore x.s cx (stackVa cx.w (stOf cx.w)) (leBytes 8 g.toNat ++ leBytes 8 (eff t0 cx).toNat)) fun s1 =>
          okAnd (stackStore s1 cx (stackVa cx.w (stOf cx.w + 16)) (Frame.bytes
            { link := stOf cx.w + 16 - fbOf cx.w, rpc := cx.sp.pc + 1, mode := cx.w.mode, markw := 0, pmap := 0, mask := cx.sp.mask }))
            fun _ => true

/-- GroupCall: VCALLI of every lane to one target, the pair S4 with offset V5. -/
theorem witness_GroupCall : ∃ cx ls t, Issues (.vector false) true (.vcalli 0 5 4) (atW 0x18000284 (setS [(4, 0x2000)])) cx ls t
    ∧ (lastInClause cx (.vcalli 0 5 4) = true ∧ quietSplit cx = true ∧ cx.w.s.length = 64 ∧ groupCallable cx t ls = true) :=
  issues_any (by decide +kernel)

/-- The warp with predicate P1. -/
def setP1 (m : Mask) (w : Warp) : Warp := { w with p := w.p.set 1 m }

/-- SplitDivision: BRDIV with one lane taken. -/
theorem witness_SplitDivision : ∃ cx, Ready (.brdiv 1 8) (atW 0x83410008 (setP1 1)) cx
    ∧ (eff (atW 0x83410008 (setP1 1)) cx &&& cx.w.p.getD 1 0 = 1 ∧ cx.sp.mask &&& ~~~(1 : Mask) ≠ 0
      ∧ poolUsed (unpark (atW 0x83410008 (setP1 1)) cx) cx.k < 64 ∧ freeSplit cx.w = some 1) :=
  ready_any (by decide +kernel)

/-- SplitDivision: BRDIV with no lane taken. -/
theorem witness_SplitDivision_uniform : ∃ cx, Ready (.brdiv 1 8) (at0 0x83410008) cx
    ∧ eff (at0 0x83410008) cx &&& cx.w.p.getD 1 0 = 0 :=
  ready_any (by decide +kernel)

/-- Split 0 with all lanes, the other seven entries taken by splits without lanes. -/
def fullTable (w : Warp) : Warp :=
  match tget w.splits 0 with
  | none => w
  | some sp => { w with splits := (0, sp) :: (List.range 7).map fun n => (n + 1, { sp with mask := 0 }) }

/-- SplitDivision: BRDIV with one lane taken in a full table. -/
theorem witness_SplitDivision_serial : ∃ cx, Ready (.brdiv 1 8) (placed (.brdiv 1 8) fun w => fullTable (setP1 1 w)) cx
    ∧ (eff (placed (.brdiv 1 8) fun w => fullTable (setP1 1 w)) cx &&& cx.w.p.getD 1 0 = 1 ∧ cx.sp.mask &&& ~~~(1 : Mask) ≠ 0
      ∧ freeSplit cx.w = none ∧ cx.w.spills.length < 32 ∧ quietSplit cx = true
      ∧ okAnd (storeNow (useScalar (unpark (placed (.brdiv 1 8) fun w => fullTable (setP1 1 w)) cx) cx.k) (cx.req .store .plain)
          (spillVa cx.w cx.w.spills.length) (leBytes 8 (cx.sp.mask &&& ~~~(1 : Mask)).toNat
            ++ leBytes 4 ((cx.sp.pc + 4).setWidth 32 : Word).toNat ++ leBytes 4 cx.w.divCtr.toNat)) (fun _ =>
          !asleep (useScalar (unpark (placed (.brdiv 1 8) fun w => fullTable (setP1 1 w)) cx) cx.k)
            (slicesOf (useScalar (unpark (placed (.brdiv 1 8) fun w => fullTable (setP1 1 w)) cx) cx.k) (cx.req .store .plain)
              (spillVa cx.w cx.w.spills.length) 16)) = true) :=
  ready_any (by decide +kernel)

/-- SplitDivision: the same, the record in the slice of a core whose clock is stopped, or runs. -/
theorem witness_SplitDivision_asleep : ∃ cx,
    Ready (.brdiv 1 8) (gatedOne (placed (.brdiv 1 8) fun w => stackInOne (fullTable (setP1 1 w)))) cx
    ∧ (freeSplit cx.w = none ∧ quietSplit cx = true
      ∧ let u := useScalar (unpark (gatedOne (placed (.brdiv 1 8) fun w => stackInOne (fullTable (setP1 1 w)))) cx) cx.k
        okAnd (storeNow u (cx.req .store .plain) (spillVa cx.w cx.w.spills.length) (leBytes 8 (cx.sp.mask &&& ~~~(1 : Mask)).toNat
            ++ leBytes 4 ((cx.sp.pc + 4).setWidth 32 : Word).toNat ++ leBytes 4 cx.w.divCtr.toNat))
          (fun _ => asleep u (slicesOf u (cx.req .store .plain) (spillVa cx.w cx.w.spills.length) 16)) = true) :=
  ready_any (by decide +kernel)

/-- Two splits of one division: split 0 before its word with the lanes from 1 on, split 1 with lane 0. -/
def twoSplits (w : Nat) : State :=
  atW w fun x =>
    match tget x.splits 0 with
    | none => x
    | some sp =>
      let d : Division := { id := 0, serial := false, group := 0 }
      { x with splits := [(0, { sp with mask := ~~~1, path := [d] }), (1, { sp with mask := 1, path := [d], pc := 0x2000 })], divCtr := 1 }

/-- Reconvergence: RJOIN of the only split. -/
theorem witness_Reconvergence : ∃ cx, Ready (.rjoin 0 0) (at0 0x84400000) cx
    ∧ (joinForbidden cx = false ∧ othersLive cx.w cx.j = false ∧ (cx.sp.path.any fun d => d.serial) = false ∧ cx.w.deferPresence = []
      ∧ cx.w.deferXrel = false) :=
  ready_any (by decide +kernel)

/-- Reconvergence: RJOIN of the first of two splits. -/
theorem witness_Reconvergence_waits : ∃ cx, Ready (.rjoin 0 0) (twoSplits 0x84400000) cx
    ∧ (joinForbidden cx = false ∧ (tget cx.w.splits 1).isSome = true ∧ tableWf cx.w.splits = true ∧ cx.j = 0
      ∧ cx.sp.inner = some { id := 0, serial := false, group := 0 }
      ∧ ∀ e ∈ cx.w.splits, e.2.joinAddr = none ∧ e.2.descends 0 = true) :=
  ready_any (by decide +kernel)

/-- The same, split 1 parked at the RJOIN that split 0 stands before. -/
def joining : State :=
  updWarp (twoSplits 0x84400000) 0 fun w => w.updSplit 1 fun sp => { sp with pc := 0x1004, park := .rjoin 0x1004 }

/-- Reconvergence: the last of two splits of a division. -/
theorem witness_Reconvergence_merges : ∃ cx, Ready (.rjoin 0 0) joining cx
    ∧ (joinForbidden cx = false ∧ othersLive cx.w cx.j = true ∧ tableWf cx.w.splits = true
      ∧ cx.sp.inner = some { id := 0, serial := false, group := 0 } ∧ cx.j = 0 ∧ cx.sp.pc = 0x1004
      ∧ (∀ e ∈ cx.w.splits, e.1 ≠ 0 → e.2.descends 0 = true ∧ e.2.park = .rjoin 0x1004 ∧ e.2.inner = cx.sp.inner)
      ∧ cx.base.ops = [] ∧ cx.w.deferPresence = [] ∧ cx.w.deferXrel = false ∧ tget cx.w.splits 0 = some cx.sp
      ∧ cx.sp.descends 0 = true) :=
  ready_any (by decide +kernel)

/-- The record of a serialised division of the warp, of the BRDIV at 0x2004. -/
def someSpill : SpillRec := { hdr := 0x2000, hdrWord := 0, brdiv := 0x2004, mask := BitVec.allOnes 64, id := 0, joinAt := none, owner := 0 }

/-- The warp's only split has lane 0 and stands before an RJOIN, or the word `w`, in that division, whose record in memory has the lanes `m`
and the PC word `pc`. -/
def atSerial (m pc : Nat) (w : Nat := 0x84400000) : State :=
  let s := atW w fun x =>
    { x.updSplit 0 fun sp => { sp with mask := 1, path := [{ id := 0, serial := true, group := 0 }] } with spills := [someSpill], divCtr := 1 }
  match warpAt s 0 with
  | none => s
  | some w => { s with mem := memWrite s.mem (hbmLoc (2 ^ 30 + (spillVa w 0).toNat)) (leBytes 8 m ++ leBytes 4 pc ++ leBytes 4 0) }

/-- SerialJoin, decided. -/
def serialJoins (s : State) (cx : Cx) (q : List Byte → State → Bool) : Bool :=
  decide (joinForbidden cx = false ∧ cx.w.splits = [(cx.j, cx.sp)] ∧ cx.sp.inner = some { id := 0, serial := true, group := 0 }
    ∧ cx.w.spills.getLast? = some someSpill ∧ quietSplit cx = true
    ∧ asleep (atJoin s cx) (slicesOf (atJoin s cx) (cx.req .load .plain) (spillVa cx.w (cx.w.spills.length - 1)) 16) = false)
  && okAnd (loadNow (atJoin s cx) (cx.req .load .plain) (spillVa cx.w (cx.w.spills.length - 1)) 16) fun r => q r.1 r.2
theorem serialJoin_of {s : State} {cx : Cx} {q : List Byte → State → Bool} (h : serialJoins s cx q = true) :
    ∃ bs s1, SerialJoin s s1 cx someSpill bs ∧ q bs s1 = true := by
  rw [serialJoins, Bool.and_eq_true] at h
  obtain ⟨h1, h2, h3, h4, h5, h6⟩ := of_decide_eq_true h.1
  obtain ⟨r, hr, hq⟩ := okAnd_ok h.2
  exact ⟨r.1, r.2, ⟨h1, h2, ⟨_, h3, rfl, rfl⟩, h4, h5, hr, h6⟩, hq⟩

/-- Reconvergence: the taken side of a serialised division; the second side; a deferred side without lanes left. -/
theorem witness_Reconvergence_exchange : ∃ cx bs s1, Ready (.rjoin 0 0) (atSerial 6 0x2008) cx
    ∧ SerialJoin (atSerial 6 0x2008) s1 cx someSpill bs
    ∧ (decide (someSpill.lanes cx.w bs = 6 ∧ (field bs 8 4).testBit 0 = false)
      && okAnd (storeNow s1 (cx.req .store .plain) (spillVa cx.w (cx.w.spills.length - 1))
        (leBytes 8 cx.sp.mask.toNat ++ leBytes 4 ((cx.sp.pc.setWidth 32 : Word) ||| 1).toNat)) fun _ => true) = true := by
  obtain ⟨cx, h, q⟩ := ready_any (i := .rjoin 0 0) (s := atSerial 6 0x2008) (q := fun cx =>
    serialJoins (atSerial 6 0x2008) cx (fun bs s1 => decide (someSpill.lanes cx.w bs = 6 ∧ (field bs 8 4).testBit 0 = false)
      && okAnd (storeNow s1 (cx.req .store .plain) (spillVa cx.w (cx.w.spills.length - 1))
        (leBytes 8 cx.sp.mask.toNat ++ leBytes 4 ((cx.sp.pc.setWidth 32 : Word) ||| 1).toNat)) fun _ => true) = true) (by decide +kernel)
  obtain ⟨bs, s1, hs, hq⟩ := serialJoin_of q
  exact ⟨cx, bs, s1, h, hs, hq⟩
theorem witness_Reconvergence_closes : ∃ cx bs s1, Ready (.rjoin 0 0) (atSerial 6 0x1005) cx
    ∧ SerialJoin (atSerial 6 0x1005) s1 cx someSpill bs ∧ decide (cx.w.deferPresence = [] ∧ cx.w.deferXrel = false
      ∧ (field bs 8 4).testBit 0 = true ∧ (BitVec.ofNat 32 (field bs 8 4) : Word) &&& ~~~1 = cx.sp.pc.setWidth 32) = true := by
  obtain ⟨cx, h, q⟩ := ready_any (i := .rjoin 0 0) (s := atSerial 6 0x1005) (q := fun cx =>
    serialJoins (atSerial 6 0x1005) cx (fun bs _ => decide (cx.w.deferPresence = [] ∧ cx.w.deferXrel = false
      ∧ (field bs 8 4).testBit 0 = true ∧ (BitVec.ofNat 32 (field bs 8 4) : Word) &&& ~~~1 = cx.sp.pc.setWidth 32)) = true)
    (by decide +kernel)
  obtain ⟨bs, s1, hs, hq⟩ := serialJoin_of q
  exact ⟨cx, bs, s1, h, hs, hq⟩
theorem witness_Reconvergence_alone : ∃ cx bs s1, Ready (.rjoin 0 0) (atSerial 0 0x2008) cx
    ∧ SerialJoin (atSerial 0 0x2008) s1 cx someSpill bs ∧ (decide (cx.w.deferPresence = [] ∧ cx.w.deferXrel = false
      ∧ (field bs 8 4).testBit 0 = false ∧ someSpill.lanes cx.w bs = 0)
      && okAnd (storeNow s1 (cx.req .store .plain) (spillVa cx.w (cx.w.spills.length - 1))
        (leBytes 8 cx.sp.mask.toNat ++ leBytes 4 ((cx.sp.pc.setWidth 32 : Word) ||| 1).toNat)) fun _ => true) = true := by
  obtain ⟨cx, h, q⟩ := ready_any (i := .rjoin 0 0) (s := atSerial 0 0x2008) (q := fun cx =>
    serialJoins (atSerial 0 0x2008) cx (fun bs s1 => decide (cx.w.deferPresence = [] ∧ cx.w.deferXrel = false
      ∧ (field bs 8 4).testBit 0 = false ∧ someSpill.lanes cx.w bs = 0)
      && okAnd (storeNow s1 (cx.req .store .plain) (spillVa cx.w (cx.w.spills.length - 1))
        (leBytes 8 cx.sp.mask.toNat ++ leBytes 4 ((cx.sp.pc.setWidth 32 : Word) ||| 1).toNat)) fun _ => true) = true) (by decide +kernel)
  obtain ⟨bs, s1, hs, hq⟩ := serialJoin_of q
  exact ⟨cx, bs, s1, h, hs, hq⟩

/-- The warp is an iteration warp with the presence of slot 0 and an XREL deferred. -/
def deferring (s : State) : State := updWarp s 0 fun w => { w with iter := some 0, deferPresence := [0], deferXrel := true }

/-- Reconvergence: the RJOIN of the only split, and the last of two, while presence is deferred. -/
theorem witness_Reconvergence_presence : ∃ cx, Ready (.rjoin 0 0) (deferring (at0 0x84400000)) cx
    ∧ (joinForbidden cx = false ∧ cx.w.splits = [(cx.j, cx.sp)] ∧ cx.w.spills = [] ∧ (cx.sp.path.any fun d => d.serial) = false
      ∧ cx.w.deferPresence = [0] ∧ cx.w.deferXrel = true) :=
  ready_any (by decide +kernel)
theorem witness_Reconvergence_presence_merges : ∃ cx, Ready (.rjoin 0 0) (deferring joining) cx
    ∧ (joinForbidden cx = false ∧ othersLive cx.w cx.j = true ∧ tableWf cx.w.splits = true
      ∧ cx.sp.inner = some { id := 0, serial := false, group := 0 } ∧ cx.j = 0 ∧ cx.sp.pc = 0x1004 ∧ cx.w.spills = []
      ∧ (∀ e ∈ cx.w.splits, e.2.inner = cx.sp.inner ∧ (e.1 ≠ 0 → e.2.park = .rjoin 0x1004))
      ∧ cx.base.ops = [] ∧ tget cx.w.splits 0 = some cx.sp) :=
  ready_any (by decide +kernel)

/-- WarpEnd: EXIT. -/
theorem witness_WarpEnd : ∃ cx, Ready (.exit 0 0) (at0 0x84800000) cx ∧ True :=
  ready_any (by decide +kernel)

/-- WarpEnd: EXITL of lane 0 alone, under guard P1. -/
theorem witness_WarpEnd_lane : ∃ cx, Ready (.exitl 0 0) (atW 0x84C00000 fun w => { setP1 1 w with mode := 0x4800 }) cx
    ∧ cx.sp.mask &&& ~~~(eff (atW 0x84C00000 fun w => { setP1 1 w with mode := 0x4800 }) cx) = ~~~1 :=
  ready_any (by decide +kernel)

/-- WarpEnd: EXITL of every lane. -/
theorem witness_WarpEnd_lanes : ∃ cx, Ready (.exitl 0 0) (at0 0x84C00000) cx
    ∧ (cx.sp.mask &&& ~~~(eff (at0 0x84C00000) cx) = 0 ∧ othersLive cx.w cx.j = false ∧ (cx.sp.path.all fun d => !d.serial) = true) :=
  ready_any (by decide +kernel)

/-- WarpEnd: EXITL of every lane of one of two splits. -/
theorem witness_WarpEnd_split : ∃ cx, Ready (.exitl 0 0) (twoSplits 0x84C00000) cx
    ∧ (cx.sp.mask &&& ~~~(eff (twoSplits 0x84C00000) cx) = 0 ∧ tableWf cx.w.splits = true ∧ quietSplit cx = true
      ∧ othersLive cx.w cx.j = true ∧ cx.j = 0 ∧ cx.sp.inner = some { id := 0, serial := false, group := 0 }
      ∧ (tget cx.w.splits 1).any (fun o => o.descends 0) = true ∧ ∀ e ∈ cx.w.splits, e.2.joinAddr = none) :=
  ready_any (by decide +kernel)

/-- SerialExit, decided. -/
def serialExits (s : State) (cx : Cx) (q : List Byte → State → Bool) : Bool :=
  decide (cx.sp.mask &&& ~~~(eff s cx) = 0 ∧ cx.w.splits = [(cx.j, cx.sp)] ∧ cx.sp.path = [{ id := 0, serial := true, group := 0 }]
    ∧ cx.w.spills.getLast? = some someSpill ∧ quietSplit cx = true)
  && okAnd (loadNow (updWarp (useScalar (unpark s cx) cx.k) cx.k fun w => { w with exited := w.exited ||| eff s cx })
      (cx.req .load .plain) (spillVa cx.w (cx.w.spills.length - 1)) 16) fun r =>
    !asleep r.2 (slicesOf r.2 (cx.req .load .plain) (spillVa cx.w (cx.w.spills.length - 1)) 16) && q r.1 r.2
theorem serialExit_of {s : State} {cx : Cx} {q : List Byte → State → Bool} (h : serialExits s cx q = true) :
    ∃ bs s1, SerialExit s s1 cx someSpill bs { id := 0, serial := true, group := 0 } [] ∧ q bs s1 = true := by
  rw [serialExits, Bool.and_eq_true] at h
  obtain ⟨h1, h2, h3, h4, h5⟩ := of_decide_eq_true h.1
  obtain ⟨r, hr, hq⟩ := okAnd_ok h.2
  rw [Bool.and_eq_true, Bool.not_eq_true'] at hq
  exact ⟨r.1, r.2, ⟨h1, h2, ⟨h3, rfl, rfl⟩, h4, h5, hr, hq.1⟩, hq.2⟩

/-- WarpEnd: EXITL of the last lanes of the taken side of a serialised division, and of its second side. -/
theorem serial_exits {s : State} {q : Cx → List Byte → State → Bool}
    (h : ((focus s).any fun cx => decide (eff s cx ≠ 0 ∧ legal (.exitl 0 0) = true ∧ 1 ≤ wordsLeft cx.sp ∧ serialExits s cx (q cx) = true))
      = true) :
    ∃ cx bs s1, Ready (.exitl 0 0) s cx ∧ SerialExit s s1 cx someSpill bs { id := 0, serial := true, group := 0 } [] ∧ q cx bs s1 = true := by
  obtain ⟨cx, hr, hs⟩ := ready_any h
  obtain ⟨bs, s1, h1, h2⟩ := serialExit_of hs
  exact ⟨cx, bs, s1, hr, h1, h2⟩
theorem witness_WarpEnd_taken : ∃ cx bs s1, Ready (.exitl 0 0) (atSerial 6 0x2008 0x84C00000) cx
    ∧ SerialExit (atSerial 6 0x2008 0x84C00000) s1 cx someSpill bs { id := 0, serial := true, group := 0 } []
    ∧ decide (someSpill.lanes cx.w bs &&& ~~~(eff (atSerial 6 0x2008 0x84C00000) cx) = 6 ∧ (field bs 8 4).testBit 0 = false) = true :=
  serial_exits (q := fun cx bs _ => decide (someSpill.lanes cx.w bs &&& ~~~(eff (atSerial 6 0x2008 0x84C00000) cx) = 6
    ∧ (field bs 8 4).testBit 0 = false)) (by decide +kernel)
theorem witness_WarpEnd_second : ∃ cx bs s1, Ready (.exitl 0 0) (atSerial 6 0x2009 0x84C00000) cx
    ∧ SerialExit (atSerial 6 0x2009 0x84C00000) s1 cx someSpill bs { id := 0, serial := true, group := 0 } []
    ∧ decide (someSpill.lanes cx.w bs &&& ~~~(eff (atSerial 6 0x2009 0x84C00000) cx) = 6 ∧ (field bs 8 4).testBit 0 = true
      ∧ cx.w.deferPresence = [] ∧ cx.w.deferXrel = false) = true :=
  serial_exits (q := fun cx bs _ => decide (someSpill.lanes cx.w bs &&& ~~~(eff (atSerial 6 0x2009 0x84C00000) cx) = 6
    ∧ (field bs 8 4).testBit 0 = true ∧ cx.w.deferPresence = [] ∧ cx.w.deferXrel = false)) (by decide +kernel)

/-! Witnesses: register blocks, brews, barriers, batches. -/

/-- ClaimAndSurrender: CLAIM of 2 blocks by a warp with 8. -/
theorem witness_ClaimAndSurrender : ∃ cx, Ready (.claim 0 2) (atW 0x8C800002 fun w => { w with allot := 8, v := w.v.take 64 }) cx
    ∧ (cx.w.allot + 2 = 10
      ∧ (coreAt (atW 0x8C800002 fun w => { w with allot := 8, v := w.v.take 64 }) (coreOfSlot cx.k)).quads.length = 4) :=
  ready_any (by decide +kernel)

/-- ClaimAndSurrender: SURR of every block. -/
theorem witness_ClaimAndSurrender_surr : ∃ cx, Ready (.surr 0 10) (at0 0x8CC0000A) cx ∧ cx.w.allot = 10 :=
  ready_any (by decide +kernel)

/-- A workgroup with four brew slots, before the word `w`, with `n` iterations asked for in S4 and the resume offset 64 in S5. -/
def atBrew (w : Nat) (n : Word) : State :=
  let s := atW w (setS [(4, n), (5, 64)])
  { s with wgs := s.wgs.map fun e => (e.1, { e.2 with brewSlots := 4, slots := [0, 1, 2, 3, 4], freeBrew := [0, 1, 2, 3] }) }

/-- Brews: BREW of one iteration with one fresh register and one age. -/
theorem witness_Brews : ∃ cx, Ready (.brew 4 8) (atBrew 0x8C040008 1) cx
    ∧ (cx.w.iter = none ∧ othersLive cx.w cx.j = false ∧ lastInClause cx (.brew 4 8) = true
      ∧ readS (atBrew 0x8C040008 1) cx.w 4 = 1 ∧ (readS (atBrew 0x8C040008 1) cx.w 5).toNat % 4 = 0 ∧ 4 ≤ cx.g.brewSlots
      ∧ (coreAt (atBrew 0x8C040008 1) (coreOfSlot cx.k)).brew = none ∧ (coreAt (atBrew 0x8C040008 1) (coreOfSlot cx.k)).brewWait = []
      ∧ cx.g.draining = false ∧ cx.g.killed = false) :=
  ready_any (by decide +kernel)

/-- A brew of three iterations, two fresh registers and one age, whose host is slot 63. -/
def someBrew : Brew :=
  { wg := 0, host := 63, n := 3, stages := 2, fresh := 2, ages := 1, blocks := 1, depth := 4, resume := 0x4000, start := 0x2000
    next := 1, regs := List.replicate 64 0, mode := 0, lastSpawn := some 1, requested := false }

/-- The warp before the word `w` is iteration warp `n` of that brew. -/
def atIter (w n : Nat) (m : Half) : State :=
  let s := atW w fun x => { x with iter := some n, mode := m }
  setCore s 0 { coreAt s 0 with brew := some someBrew }

/-- Brews: XREL in iteration warp 0. -/
theorem witness_Brews_xrel : ∃ cx, Ready (.xrel 0 0) (atIter 0x8C400000 0 0) cx
    ∧ (cx.w.iter = some 0 ∧ brewOf (atIter 0x8C400000 0 0) cx.k = some someBrew ∧ cx.w.single = true ∧ cx.w.pend = []
      ∧ cx.base.ops = []) :=
  ready_any (by decide +kernel)

/-- Brews: XREL in a divided iteration warp. -/
theorem witness_Brews_divided : ∃ cx, Ready (.xrel 0 0) (updWarp (twoSplits 0x8C400000) 0 fun w => { w with iter := some 0 }) cx
    ∧ (cx.w.iter ≠ none ∧ cx.w.single = false) :=
  ready_any (by decide +kernel)

/-- Barriers: BARA, the first arrival of two; BARWG, the only warp. -/
theorem witness_Barriers : ∃ cx, Ready (.baraw 0 0x13) (at0 0x8E800013) cx
    ∧ (arrivalOf (.baraw 0 0x13) = some (3, 1, true) ∧ 1 ≤ cx.g.n ∧ barrierForbidden cx = false ∧ 3 < cx.g.barriers.length
      ∧ cx.w.index ∉ (barrierAt cx.g 3).arrived ∧ writesVisible cx.w = true ∧ accessesDone cx.w = true
      ∧ (barrierAt cx.g 3).arrived = [] ∧ (arrivedBarrier (barrierAt cx.g 3) cx.w.index 1).arrived.length = 1) :=
  ready_any (by decide +kernel)

/-- Barriers: an arrival that leaves the phase open. -/
theorem witness_Barriers_open : ∃ cx, Ready (.bara 0 0x4F) (atG 0x8E00004F fun g => { g with n := 4 }) cx
    ∧ (arrivalOf (.bara 0 0x4F) = some (15, 4, false) ∧ 4 ≤ cx.g.n ∧ barrierForbidden cx = false ∧ 15 < cx.g.barriers.length
      ∧ cx.w.index ∉ (barrierAt cx.g 15).arrived ∧ writesVisible cx.w = true ∧ accessesDone cx.w = true
      ∧ (barrierAt cx.g 15).arrived = [] ∧ (arrivedBarrier (barrierAt cx.g 15) cx.w.index 4).arrived.length ≠ 4) :=
  ready_any (by decide +kernel)

/-- Barriers: BARW with nothing arrived. -/
theorem witness_Barriers_wait : ∃ cx, Ready (.barw 0 3) (at0 0x8E400003) cx
    ∧ (barrierForbidden cx = false ∧ arrivedIn cx.g cx.w 3 = false) :=
  ready_any (by decide +kernel)

/-- Barriers: BARQ, three partners not yet arrived. -/
theorem witness_Barriers_quad : ∃ cx, Ready (.barq 0 0) (quadOf4 0x8EC00000 id) cx
    ∧ (cx.w.iter = none ∧ wholeQuad cx = true ∧ dividedOrSerial cx.w cx.j = false ∧ writesVisible cx.w = true
      ∧ accessesDone cx.w = true ∧ readingB cx.w (quadOf4 0x8EC00000 id).now = false ∧ cx.w.index / 4 < cx.g.quads.length
      ∧ ∃ e ∈ cx.g.warps, e.1 / 4 = cx.w.index / 4 ∧ e.1 ∉ cx.g.quads.getD (cx.w.index / 4) [] ++ [cx.w.index]) :=
  ready_any (by decide +kernel)

/-- Barriers: BARQ, the last of the quad to arrive. -/
theorem witness_Barriers_quad_last :
    ∃ cx, Ready (.barq 0 0) { quadOf4 0x8EC00000 id with
      wgs := (quadOf4 0x8EC00000 id).wgs.map fun e => (e.1, { e.2 with quads := [[1, 2, 3]] }) } cx
    ∧ (cx.w.iter = none ∧ wholeQuad cx = true ∧ dividedOrSerial cx.w cx.j = false ∧ writesVisible cx.w = true
      ∧ accessesDone cx.w = true ∧ cx.w.index / 4 < cx.g.quads.length
      ∧ ∀ e ∈ cx.g.warps, e.1 / 4 = cx.w.index / 4 → e.1 ∈ cx.g.quads.getD (cx.w.index / 4) [] ++ [cx.w.index]) :=
  ready_any (by decide +kernel)

/-- BatchWords: BATCH.N. -/
theorem witness_BatchWords : ∃ cx, Ready (.batchN 4 0) (at0 0x96840000) cx ∧ batchOf (.batchN 4 0) = some (.N, 4) :=
  ready_any (by decide +kernel)

/-- BatchWords: WAITB.K of batch 0, which is complete. -/
theorem witness_BatchWords_done : ∃ cx, Ready (.waitbK 4 0) (at0 0x97040000) cx
    ∧ ((cx.w.batches .K).doneTo (readS (at0 0x97040000) cx.w 4) = true ∧ (cx.w.batches .K).failed = []) :=
  ready_any (by decide +kernel)

/-- Batch 1 is closed, and its command 5 outstanding. -/
def oneCommand : Batches := { opened := 2, cmds := [(5, 1)], failed := [] }

/-- BatchWords: WAITB.A of batch 1, which is not. -/
theorem witness_BatchWords_waits : ∃ cx, Ready (.waitbA 4 0) (atW 0x97440000 fun w => setS [(4, 1)] { w with bA := oneCommand }) cx
    ∧ (cx.w.batches .A).doneTo (readS (atW 0x97440000 fun w => setS [(4, 1)] { w with bA := oneCommand }) cx.w 4) = false :=
  ready_any (by decide +kernel)

/-! Witnesses: engine, cask and counter words. -/

/-- The bytes `b` in memory at 0x8000, which the pair S4 names. -/
def atRecord (w : Nat) (b : List Byte) : State :=
  let s := atW w (setS [(4, 0x8000)])
  { s with mem := memWrite s.mem (hbmLoc (2 ^ 30 + 0x8000)) b }

/-- A layout record: 16 rows of 32 BF16 elements at 0x9000, tiles at the start of the core's own window. -/
def layoutRecord (rows : Nat) : List Byte :=
  leBytes 8 0x9000 ++ leBytes 4 rows ++ leBytes 4 32 ++ leBytes 8 64 ++ leBytes 8 0 ++ leBytes 4 0 ++ leBytes 4 0
    ++ leBytes 8 0x7F8000000000 ++ leBytes 16 0

/-- KLD and KST meet the hypotheses of KilnCommands; `tiles` of the record. -/
def kilnable (i : Instr) (pack : Bool) (s : State) (cx : Cx) (tiles : Nat) : Bool :=
  let u := useScalar (unpark s cx) cx.k
  decide (kilnOf i = some (pack, 4)) && quietSplit cx && (cxFlag cx true).isSome && decide ((readPair s cx.w 4).toNat % 64 = 0)
    && okAnd (wordRead u cx .plain 4 (readPair s cx.w 4) 64) fun r =>
      decide (checkLayout i pack (layoutOf r.1) (tileStop r.2 cx (layoutOf r.1)) (eff s cx) = none ∧ (layoutOf r.1).tiles = tiles)

/-- KilnCommands: KLD of one tile, and KST of none. -/
theorem witness_KilnCommands : ∃ cx, Ready (.kld 4 0) (atRecord 0x98040000 (layoutRecord 16)) cx
    ∧ kilnable (.kld 4 0) false (atRecord 0x98040000 (layoutRecord 16)) cx 1 = true :=
  ready_any (by decide +kernel)
theorem witness_KilnCommands_none : ∃ cx, Ready (.kst 4 0) (atRecord 0x98440000 (layoutRecord 0)) cx
    ∧ kilnable (.kst 4 0) true (atRecord 0x98440000 (layoutRecord 0)) cx 0 = true :=
  ready_any (by decide +kernel)

/-- KilnCommands: KLUT of table 15. -/
theorem witness_KilnCommands_table : ∃ cx, Ready (.klut 4 15) (atRecord 0x9884000F []) cx
    ∧ (quietSplit cx = true ∧ (cxFlag cx true).isSome = true ∧ (readPair (atRecord 0x9884000F []) cx.w 4).toNat % 1024 = 0
      ∧ okAnd (wordRead (useScalar (unpark (atRecord 0x9884000F []) cx) cx.k) cx .kiln 4 (readPair (atRecord 0x9884000F []) cx.w 4) 1024)
          (fun r => decide (r.1.length = 1024)) = true) :=
  ready_any (by decide +kernel)

/-- A Lantern word meets the hypotheses of LanternCommands. -/
def lanternable (i : Instr) (op : LanternOp) (s : State) (cx : Cx) : Bool :=
  let u := useScalar (unpark s cx) cx.k
  decide (lanternOf i = some (op, 4) ∧ s.level = 2 ∧ (readPair s cx.w 4).toNat % 64 = 0) && quietSplit cx && (cxFlag cx true).isSome
    && okAnd (wordRead u cx .plain 6 (readPair s cx.w 4) 64) fun r =>
      recLegal op r.1 && decide (dieOf s op cx.w.ten r.1 < s.lanterns.length)
        && (recAligned op r.1).all fun e => decide (e.1.toNat % e.2 = 0)

/-- LanternCommands: LCTL CREATE on die 1, LAPP of one token. -/
theorem witness_LanternCommands : ∃ cx, Ready (.lctl 4 0) (atRecord 0x9A840000 ([0, 0, 0, 0, 9, 0, 0, 0, 1, 1, 0, 1] ++ leBytes 52 0)) cx
    ∧ lanternable (.lctl 4 0) .control (atRecord 0x9A840000 ([0, 0, 0, 0, 9, 0, 0, 0, 1, 1, 0, 1] ++ leBytes 52 0)) cx = true :=
  ready_any (by decide +kernel)
theorem witness_LanternCommands_append : ∃ cx, Ready (.lapp 4 0) (atRecord 0x9A440000 ([9, 0, 0, 0, 1, 1, 1, 0] ++ leBytes 56 0)) cx
    ∧ lanternable (.lapp 4 0) .append (atRecord 0x9A440000 ([9, 0, 0, 0, 1, 1, 1, 0] ++ leBytes 56 0)) cx = true :=
  ready_any (by decide +kernel)

/-- No warp is parked on cask `c`, decided. -/
theorem caskQuiet_of {s : State} {c : Nat}
    (h : (s.warps.all fun e => match e.2.park with
      | some (.cask d _) => decide (d ≠ c)
      | _ => true) = true) : caskQuiet s c := by
  intro e he ws hp
  have := List.all_eq_true.mp h e he
  simp [hp] at this

/-- Cask 3 of core 0 enabled, with the records `rs`. -/
def atCask (w : Nat) (rs : List (List Word)) (pri : Bool) : State :=
  setCask (atW w (setS [(4, 3)])) 3 { Cask.empty with en := true, pri := pri, recs := rs }

theorem atCask_quiet (w : Nat) (rs : List (List Word)) (pri : Bool)
    (h : ((atCask w rs pri).warps.all fun e => decide (e.2.park = none)) = true) (c : Nat) : caskQuiet (atCask w rs pri) c := by
  apply caskQuiet_of
  rw [List.all_eq_true] at h ⊢
  intro e he
  have hp := of_decide_eq_true (h e he)
  simp [hp]

/-- Reaches1, decided. -/
theorem reaches_of {s : State} {cx : Cx} {x : BitVec 6} {n per : Nat}
    (h : (readS s cx.w x.toNat).toNat = n ∧ inCoreSet s cx.w.ten (n / per) = true ∧ running s (n / per) = true) : Reaches1 s cx x n per :=
  ⟨h.1, h.2.1, h.2.2⟩

/-- CaskWords: QPUSH to an empty cask. -/
theorem witness_CaskWords : ∃ cx, Ready (.qpush 4 0) (atCask 0x9C040000 [] false) cx ∧ Reaches1 (atCask 0x9C040000 [] false) cx 4 3 4
    ∧ (cxFlag cx true).isSome = true ∧ caskOn (atCask 0x9C040000 [] false) 3 = true ∧ accessesDone cx.w = true
    ∧ caskQuiet (atCask 0x9C040000 [] false) 3 ∧ (caskAt (atCask 0x9C040000 [] false) 3).spilled = 0
    ∧ (caskAt (atCask 0x9C040000 [] false) 3).recs.length < 32 := by
  obtain ⟨cx, h, a, b⟩ := ready_any (i := .qpush 4 0) (s := atCask 0x9C040000 [] false)
    (q := fun cx => ((readS (atCask 0x9C040000 [] false) cx.w 4).toNat = 3
      ∧ inCoreSet (atCask 0x9C040000 [] false) cx.w.ten 0 = true ∧ running (atCask 0x9C040000 [] false) 0 = true)
      ∧ (cxFlag cx true).isSome = true ∧ accessesDone cx.w = true) (by decide +kernel)
  exact ⟨cx, h, reaches_of a, b.1, by decide +kernel, b.2, atCask_quiet _ _ _ (by decide +kernel) _, by decide +kernel, by decide +kernel⟩

/-- A record of level `n`. -/
def recordOf (n : Word) : List Word := (List.range 8).map fun i => if i = 0 then n else 0

/-- CaskWords: QPOP of the second of two records, whose level is lower. -/
theorem witness_CaskWords_pop : ∃ cx, Ready (.qpop 4 0) (atCask 0x9C440000 [recordOf 7, recordOf 2] true) cx
    ∧ Reaches1 (atCask 0x9C440000 [recordOf 7, recordOf 2] true) cx 4 3 4 ∧ (cxFlag cx true).isSome = true
    ∧ caskOn (atCask 0x9C440000 [recordOf 7, recordOf 2] true) 3 = true ∧ caskQuiet (atCask 0x9C440000 [recordOf 7, recordOf 2] true) 3
    ∧ lowestRec (caskAt (atCask 0x9C440000 [recordOf 7, recordOf 2] true) 3).recs = 1
    ∧ (caskAt (atCask 0x9C440000 [recordOf 7, recordOf 2] true) 3).recs[1]? = some (recordOf 2) := by
  obtain ⟨cx, h, a, b⟩ := ready_any (i := .qpop 4 0) (s := atCask 0x9C440000 [recordOf 7, recordOf 2] true)
    (q := fun cx => ((readS (atCask 0x9C440000 [recordOf 7, recordOf 2] true) cx.w 4).toNat = 3
      ∧ inCoreSet (atCask 0x9C440000 [recordOf 7, recordOf 2] true) cx.w.ten 0 = true
      ∧ running (atCask 0x9C440000 [recordOf 7, recordOf 2] true) 0 = true) ∧ (cxFlag cx true).isSome = true) (by decide +kernel)
  exact ⟨cx, h, reaches_of a, b, by decide +kernel, atCask_quiet _ _ _ (by decide +kernel) _, by decide +kernel, by decide +kernel⟩

/-- CaskWords: QTRY of an empty cask. -/
theorem witness_CaskWords_try : ∃ cx, Ready (.qtry 4 0) (atCask 0x9C840000 [] false) cx ∧ Reaches1 (atCask 0x9C840000 [] false) cx 4 3 4
    ∧ (cxFlag cx true).isSome = true ∧ caskOn (atCask 0x9C840000 [] false) 3 = true ∧ caskQuiet (atCask 0x9C840000 [] false) 3
    ∧ (caskAt (atCask 0x9C840000 [] false) 3).recs = [] := by
  obtain ⟨cx, h, a, b⟩ := ready_any (i := .qtry 4 0) (s := atCask 0x9C840000 [] false)
    (q := fun cx => ((readS (atCask 0x9C840000 [] false) cx.w 4).toNat = 3
      ∧ inCoreSet (atCask 0x9C840000 [] false) cx.w.ten 0 = true ∧ running (atCask 0x9C840000 [] false) 0 = true)
      ∧ (cxFlag cx true).isSome = true) (by decide +kernel)
  exact ⟨cx, h, reaches_of a, b, by decide +kernel, atCask_quiet _ _ _ (by decide +kernel) _, by decide +kernel⟩

/-- Cask 3 of core 0 full on chip, its ring of two at 0x8000 with `n` records; the warp in slot 0 names it. -/
def atFullCask (w : Nat) (n : Nat) : State :=
  setCask (atW w (setS [(4, 3)])) 3
    { Cask.empty with en := true, spill := 0x8000, scap := 2, asid := 0, ten := 0, recs := List.replicate 32 (recordOf 1), spilled := n }

/-- CaskWords: QPUSH to the last place of the ring, and with none left; QPOP of an empty cask; QTRY of one with a record. -/
theorem witness_CaskWords_spill : ∃ cx, Ready (.qpush 4 0) (atFullCask 0x9C040000 1) cx ∧ Reaches1 (atFullCask 0x9C040000 1) cx 4 3 4
    ∧ (cxFlag cx true).isSome = true ∧ accessesDone cx.w = true ∧ caskOn (atFullCask 0x9C040000 1) 3 = true
    ∧ (caskAt (atFullCask 0x9C040000 1) 3).spilled < (caskAt (atFullCask 0x9C040000 1) 3).scap
    ∧ okAnd (writeRange (markIssued (useScalar (unpark (atFullCask 0x9C040000 1) cx) cx.k) cx)
        (spillReq 3 (caskAt (atFullCask 0x9C040000 1) 3) .store) (spillPlace (caskAt (atFullCask 0x9C040000 1) 3) 1)
        (((List.range 8).map fun n => readS (atFullCask 0x9C040000 1) cx.w (8 + n)).flatMap fun w => leBytes 4 w.toNat)) (fun _ => true)
      = true := by
  obtain ⟨cx, h, a, b, c, d⟩ := ready_any (i := .qpush 4 0) (s := atFullCask 0x9C040000 1)
    (q := fun cx => ((readS (atFullCask 0x9C040000 1) cx.w 4).toNat = 3
      ∧ inCoreSet (atFullCask 0x9C040000 1) cx.w.ten 0 = true ∧ running (atFullCask 0x9C040000 1) 0 = true)
      ∧ (cxFlag cx true).isSome = true ∧ accessesDone cx.w = true
      ∧ okAnd (writeRange (markIssued (useScalar (unpark (atFullCask 0x9C040000 1) cx) cx.k) cx)
        (spillReq 3 (caskAt (atFullCask 0x9C040000 1) 3) .store) (spillPlace (caskAt (atFullCask 0x9C040000 1) 3) 1)
        (((List.range 8).map fun n => readS (atFullCask 0x9C040000 1) cx.w (8 + n)).flatMap fun w => leBytes 4 w.toNat)) (fun _ => true)
      = true) (by decide +kernel)
  exact ⟨cx, h, reaches_of a, b, c, by decide +kernel, by decide +kernel, d⟩
theorem witness_CaskWords_full : ∃ cx, Ready (.qpush 4 0) (atFullCask 0x9C040000 2) cx ∧ Reaches1 (atFullCask 0x9C040000 2) cx 4 3 4
    ∧ (cxFlag cx true).isSome = true ∧ accessesDone cx.w = true ∧ caskOn (atFullCask 0x9C040000 2) 3 = true
    ∧ (caskAt (atFullCask 0x9C040000 2) 3).takes = false ∧ caskQuiet (atFullCask 0x9C040000 2) 3 := by
  obtain ⟨cx, h, a, b, c⟩ := ready_any (i := .qpush 4 0) (s := atFullCask 0x9C040000 2)
    (q := fun cx => ((readS (atFullCask 0x9C040000 2) cx.w 4).toNat = 3
      ∧ inCoreSet (atFullCask 0x9C040000 2) cx.w.ten 0 = true ∧ running (atFullCask 0x9C040000 2) 0 = true)
      ∧ (cxFlag cx true).isSome = true ∧ accessesDone cx.w = true) (by decide +kernel)
  exact ⟨cx, h, reaches_of a, b, c, by decide +kernel, by decide +kernel, caskQuiet_of (by decide +kernel)⟩
theorem witness_CaskWords_empty : ∃ cx, Ready (.qpop 4 0) (atCask 0x9C440000 [] false) cx ∧ Reaches1 (atCask 0x9C440000 [] false) cx 4 3 4
    ∧ (cxFlag cx true).isSome = true ∧ caskOn (atCask 0x9C440000 [] false) 3 = true ∧ caskQuiet (atCask 0x9C440000 [] false) 3
    ∧ (caskAt (atCask 0x9C440000 [] false) 3).recs = [] := by
  obtain ⟨cx, h, a, b⟩ := ready_any (i := .qpop 4 0) (s := atCask 0x9C440000 [] false)
    (q := fun cx => ((readS (atCask 0x9C440000 [] false) cx.w 4).toNat = 3
      ∧ inCoreSet (atCask 0x9C440000 [] false) cx.w.ten 0 = true ∧ running (atCask 0x9C440000 [] false) 0 = true)
      ∧ (cxFlag cx true).isSome = true) (by decide +kernel)
  exact ⟨cx, h, reaches_of a, b, by decide +kernel, atCask_quiet _ _ _ (by decide +kernel) _, by decide +kernel⟩
theorem witness_CaskWords_took : ∃ cx, Ready (.qtry 4 0) (atCask 0x9C840000 [recordOf 7] false) cx
    ∧ Reaches1 (atCask 0x9C840000 [recordOf 7] false) cx 4 3 4 ∧ (cxFlag cx true).isSome = true
    ∧ caskOn (atCask 0x9C840000 [recordOf 7] false) 3 = true ∧ caskQuiet (atCask 0x9C840000 [recordOf 7] false) 3
    ∧ (caskAt (atCask 0x9C840000 [recordOf 7] false) 3).recs[0]? = some (recordOf 7) := by
  obtain ⟨cx, h, a, b⟩ := ready_any (i := .qtry 4 0) (s := atCask 0x9C840000 [recordOf 7] false)
    (q := fun cx => ((readS (atCask 0x9C840000 [recordOf 7] false) cx.w 4).toNat = 3
      ∧ inCoreSet (atCask 0x9C840000 [recordOf 7] false) cx.w.ten 0 = true ∧ running (atCask 0x9C840000 [recordOf 7] false) 0 = true)
      ∧ (cxFlag cx true).isSome = true) (by decide +kernel)
  exact ⟨cx, h, reaches_of a, b, by decide +kernel, atCask_quiet _ _ _ (by decide +kernel) _, by decide +kernel⟩

/-- Counter 255 of core 0 in S4, its value 1, cask 3 enabled and in S5; the counter's attachment. -/
def atCounter (w : Nat) (att : Option (List Word × Nat)) : State :=
  setCounter (setCask (atW w (setS [(4, 255), (5, 3)])) 3 { Cask.empty with en := true }) 255 { value := 1, att := att }

/-- CounterWords: DCSET to 0xFFFF. -/
theorem witness_CounterWords : ∃ cx, Ready (.dcset 4 0xFFFF) (atCounter 0x9CC4FFFF none) cx
    ∧ Reaches1 (atCounter 0x9CC4FFFF none) cx 4 255 256 := by
  obtain ⟨cx, h, a⟩ := ready_any (i := .dcset 4 0xFFFF) (s := atCounter 0x9CC4FFFF none)
    (q := fun cx => (readS (atCounter 0x9CC4FFFF none) cx.w 4).toNat = 255
      ∧ inCoreSet (atCounter 0x9CC4FFFF none) cx.w.ten 0 = true ∧ running (atCounter 0x9CC4FFFF none) 0 = true) (by decide +kernel)
  exact ⟨cx, h, reaches_of a⟩

/-- CounterWords: DCATT of cask 3. -/
theorem witness_CounterWords_attach : ∃ cx, Ready (.dcatt 4 0) (atCounter 0x9D440000 none) cx
    ∧ Reaches1 (atCounter 0x9D440000 none) cx 4 255 256 ∧ readS (atCounter 0x9D440000 none) cx.w 5 = 3
    ∧ caskOn (atCounter 0x9D440000 none) 3 = true ∧ inCoreSet (atCounter 0x9D440000 none) cx.w.ten 0 = true := by
  obtain ⟨cx, h, a, b, c⟩ := ready_any (i := .dcatt 4 0) (s := atCounter 0x9D440000 none)
    (q := fun cx => ((readS (atCounter 0x9D440000 none) cx.w 4).toNat = 255
      ∧ inCoreSet (atCounter 0x9D440000 none) cx.w.ten 0 = true ∧ running (atCounter 0x9D440000 none) 0 = true)
      ∧ readS (atCounter 0x9D440000 none) cx.w 5 = 3 ∧ inCoreSet (atCounter 0x9D440000 none) cx.w.ten 0 = true) (by decide +kernel)
  exact ⟨cx, h, reaches_of a, b, by decide +kernel, c⟩

/-- CounterWords: DCDEC from 1 with an attachment. -/
theorem witness_CounterWords_zero : ∃ cx, Ready (.dcdec 4 0) (atCounter 0x9D040000 (some (recordOf 1, 3))) cx
    ∧ Reaches1 (atCounter 0x9D040000 (some (recordOf 1, 3))) cx 4 255 256 ∧ accessesDone cx.w = true
    ∧ (counterAt (atCounter 0x9D040000 (some (recordOf 1, 3))) 255).value = 1
    ∧ (counterAt (atCounter 0x9D040000 (some (recordOf 1, 3))) 255).att = some (recordOf 1, 3) := by
  obtain ⟨cx, h, a, b⟩ := ready_any (i := .dcdec 4 0) (s := atCounter 0x9D040000 (some (recordOf 1, 3)))
    (q := fun cx => ((readS (atCounter 0x9D040000 (some (recordOf 1, 3))) cx.w 4).toNat = 255
      ∧ inCoreSet (atCounter 0x9D040000 (some (recordOf 1, 3))) cx.w.ten 0 = true
      ∧ running (atCounter 0x9D040000 (some (recordOf 1, 3))) 0 = true) ∧ accessesDone cx.w = true) (by decide +kernel)
  exact ⟨cx, h, reaches_of a, b, by decide +kernel, by decide +kernel⟩

/-- WakeWords: a warp wakes itself; a wait with the latch set, and with it clear. -/
theorem witness_WakeWords : ∃ cx, Ready (.wakewSignal 4 0) (at0 0xA1040000) cx
    ∧ (readS (at0 0xA1040000) cx.w 4 = 0 ∧ inCoreSet (at0 0xA1040000) cx.w.ten 0 = true ∧ accessesDone cx.w = true
      ∧ running (at0 0xA1040000) 0 = true) :=
  ready_any (by decide +kernel)
theorem witness_WakeWords_latched : ∃ cx, Ready (.wakewWait 0) (atW 0xA1000001 fun w => { w with waking := true }) cx
    ∧ cx.w.waking = true :=
  ready_any (by decide +kernel)
theorem witness_WakeWords_clear : ∃ cx, Ready (.wakewWait 0) (at0 0xA1000001) cx ∧ cx.w.waking = false :=
  ready_any (by decide +kernel)

/-! Witnesses: status registers, traps and the return. -/

/-- The warp in service mode. -/
def inService (w : Warp) : Warp := { w with service := true }

/-- StatusRegisters: SRD of CLK, and of a service register in service mode. -/
theorem witness_StatusRegisters : ∃ cx, Ready (.srd 4 2) (at0 0xA0840002) cx
    ∧ (statusReg 2 = some .clk ∧ StatusReg.clk.service = false) :=
  ready_any (by decide +kernel)
theorem witness_StatusRegisters_service : ∃ cx, Ready (.srd 4 0x32) (atW 0xA0840032 inService) cx
    ∧ (statusReg 0x32 = some .svsp ∧ StatusReg.svsp.service = true ∧ cx.w.service = true) :=
  ready_any (by decide +kernel)

/-- StatusRegisters: SWR of a keg descriptor of 16 entries that ends at the end of the SRAM. -/
theorem witness_StatusRegisters_keg : ∃ cx, Ready (.swr 4 0x10) (atW 0xA0C40010 fun w => inService (setS [(4, 0x00010000)] w)) cx
    ∧ (statusReg 0x10 = some (.keg 0) ∧ cx.w.service = true
      ∧ kegFits cx.g (readS (atW 0xA0C40010 fun w => inService (setS [(4, 0x00010000)] w)) cx.w 4) = true ∧ 0 < cx.g.kegs.length) :=
  ready_any (by decide +kernel)

/-- StatusRegisters: SWR of TVBHI. -/
theorem witness_StatusRegisters_tvb : ∃ cx, Ready (.swr 4 0x31) (atW 0xA0C40031 inService) cx
    ∧ (statusReg 0x31 = some .tvbhi ∧ cx.w.service = true ∧ (tenAt (atW 0xA0C40031 inService) cx.w.ten).isSome = true) :=
  ready_any (by decide +kernel)

/-- StatusRegisters: SWR of SVSP. -/
theorem witness_StatusRegisters_svsp : ∃ cx, Ready (.swr 4 0x32) (atW 0xA0C40032 fun w => inService (setS [(4, 0x10040)] w)) cx
    ∧ (statusReg 0x32 = some .svsp ∧ cx.w.service = true
      ∧ (readS (atW 0xA0C40032 fun w => inService (setS [(4, 0x10040)] w)) cx.w 4).toNat % 64 = 0) :=
  ready_any (by decide +kernel)

/-- The tenancy with handlers at 0x40000. -/
def handled (s : State) : State := { s with tenancies := s.tenancies.map fun e => (e.1, { e.2 with tvb := 0x40000 }) }

/-- TrapRoom, decided, for the trap `tr` of the split `cx` in `s`, with PC `pc` and NPC `npc`. -/
def trapRoom (s : State) (cx : Cx) (tr : Trap) (pc npc hdr : DWord) (deferred : Bool) : Bool :=
  ((warpAt s cx.k).all fun w => !w.bars cx.j)
    && (cxAt (interrupted s cx) cx.k cx.j).any fun cx' => (tenAt s cx'.w.ten).any fun tn =>
    decide (tn.tvb ≠ 0 ∧ cx'.w.svsp.toNat + 64 ≤ (cx'.w.sbase - 512).toNat)
      && okAnd (storeNow (interrupted s cx) { cx'.req .store .plain with svc := true } (cx'.w.stkhi ++ cx'.w.svsp)
        (frameBytes cx' tr pc npc hdr deferred false 0)) fun _ => true

theorem trapRoom_of {s : State} {cx : Cx} {tr : Trap} {pc npc hdr : DWord} {deferred : Bool}
    (h : trapRoom s cx tr pc npc hdr deferred = true) : ∃ cx' tn s2, TrapRoom s cx cx' tn tr pc npc hdr deferred s2 := by
  rw [trapRoom, Bool.and_eq_true] at h
  obtain ⟨hb, h⟩ := h
  obtain ⟨cx', hc, h⟩ := any_some h
  obtain ⟨tn, ht, h⟩ := any_some h
  rw [Bool.and_eq_true] at h
  obtain ⟨h1, h2⟩ := of_decide_eq_true h.1
  obtain ⟨r, hs, _⟩ := okAnd_ok h.2
  refine ⟨cx', tn, _, fun w hw => ?_, hc, ht, h1, h2, r.1, r.2, hs, rfl⟩
  rw [hw, Option.all_some, Bool.not_eq_true'] at hb
  rw [← bars_iff, hb]
  exact Bool.false_ne_true

/-- TrapWords: an SVC with handlers. -/
theorem witness_TrapWords : ∃ cx cx' tn s2, Ready (.svc 0 7) (handled (at0 0xA0000007)) cx
    ∧ trapWordOf (.svc 0 7) = some (.scalar, .svc, 7)
    ∧ TrapRoom (trapState .scalar (unpark (handled (at0 0xA0000007)) cx) cx) cx cx' tn
        { cls := .svc, info := 7, lanes := eff (handled (at0 0xA0000007)) cx } cx.sp.pc (nextPc cx 0) (hdrFor cx.sp (nextPc cx 0)) false s2 := by
  obtain ⟨cx, h, q⟩ := ready_any (i := .svc 0 7) (s := handled (at0 0xA0000007)) (q := fun cx =>
    trapRoom (trapState .scalar (unpark (handled (at0 0xA0000007)) cx) cx) cx
      { cls := .svc, info := 7, lanes := eff (handled (at0 0xA0000007)) cx } cx.sp.pc (nextPc cx 0) (hdrFor cx.sp (nextPc cx 0)) false = true)
    (by decide +kernel)
  obtain ⟨cx', tn, s2, ht⟩ := trapRoom_of q
  exact ⟨cx, cx', tn, s2, h, rfl, ht⟩

/-- TrapWords: SRD of a service register, and TRET, in user mode. -/
theorem witness_TrapWords_srd : ∃ cx cx' tn s2, Ready (.srd 4 0x32) (handled (at0 0xA0840032)) cx ∧ statusReg 0x32 = some .svsp
    ∧ cx.w.service = false
    ∧ TrapRoom (trapState .scalar (unpark (handled (at0 0xA0840032)) cx) cx) cx cx' tn
        { cls := .priv, info := (0x32 : Half).setWidth 32, lanes := eff (handled (at0 0xA0840032)) cx } cx.sp.pc (nextPc cx 0)
        (hdrFor cx.sp (nextPc cx 0)) false s2 := by
  obtain ⟨cx, h, u, q⟩ := ready_any (i := .srd 4 0x32) (s := handled (at0 0xA0840032)) (q := fun cx => cx.w.service = false ∧
    trapRoom (trapState .scalar (unpark (handled (at0 0xA0840032)) cx) cx) cx
      { cls := .priv, info := (0x32 : Half).setWidth 32, lanes := eff (handled (at0 0xA0840032)) cx } cx.sp.pc (nextPc cx 0)
      (hdrFor cx.sp (nextPc cx 0)) false = true)
    (by decide +kernel)
  obtain ⟨cx', tn, s2, ht⟩ := trapRoom_of q
  exact ⟨cx, cx', tn, s2, h, rfl, u, ht⟩
theorem witness_TrapWords_tret : ∃ cx cx' tn s2, focus (handled (at0 0xA1800000)) = some cx ∧ cx.sp.mask ≠ 0
    ∧ legal (.tret 0 0) = true ∧ 1 ≤ wordsLeft cx.sp ∧ cx.w.service = false
    ∧ TrapRoom (trapState .scalar (unpark (handled (at0 0xA1800000)) cx) cx) cx cx' tn
        { cls := .priv, info := 0x86, lanes := cx.sp.mask } cx.sp.pc (nextPc cx 0) (hdrFor cx.sp (nextPc cx 0)) false s2 := by
  obtain ⟨cx, h, ⟨m, l, u⟩, q⟩ := focus_any (s := handled (at0 0xA1800000)) (q := fun cx =>
    (cx.sp.mask ≠ 0 ∧ 1 ≤ wordsLeft cx.sp ∧ cx.w.service = false)
    ∧ trapRoom (trapState .scalar (unpark (handled (at0 0xA1800000)) cx) cx) cx
      { cls := .priv, info := 0x86, lanes := cx.sp.mask } cx.sp.pc (nextPc cx 0) (hdrFor cx.sp (nextPc cx 0)) false = true)
    (by decide +kernel)
  obtain ⟨cx', tn, s2, ht⟩ := trapRoom_of q
  exact ⟨cx, cx', tn, s2, h, m, by decide, l, u, ht⟩

/-- TrapWords: an unassigned opcode without handlers. -/
theorem witness_TrapWords_ring : ∃ cx, Ready (.unassignedOpcode 0x00E00000) (at0 0x00E00000) cx
    ∧ (trapWordOf (.unassignedOpcode 0x00E00000) = some (.vector false, .und, 0x00E00000)
      ∧ ((warpAt (trapState (.vector false) (unpark (at0 0x00E00000) cx) cx) cx.k).all fun w => !w.bars cx.j) = true
      ∧ ((cxAt (interrupted (trapState (.vector false) (unpark (at0 0x00E00000) cx) cx) cx) cx.k cx.j).any fun cx' =>
          (tenAt (at0 0x00E00000) cx'.w.ten).any fun tn => decide (tn.tvb = 0)) = true) :=
  ready_any (by decide +kernel)

/-- The trap `t` of the split can be entered, its word with `n` literals; the same, decided. -/
def CanTrap (rule : IssueRule) (u : State) (cx : Cx) (n : Nat) (t : Trap) : Prop :=
  ∃ cx' tn s2, TrapRoom (trapState rule u cx) cx cx' tn t cx.sp.pc (nextPc cx n) (hdrFor cx.sp (nextPc cx n)) false s2
def canTrap (rule : IssueRule) (u : State) (cx : Cx) (n : Nat) (t : Trap) : Bool :=
  trapRoom (trapState rule u cx) cx t cx.sp.pc (nextPc cx n) (hdrFor cx.sp (nextPc cx n)) false

/-- A ready word of the scalar slot that can trap, and a word that reaches its meaning and can. -/
theorem ready_traps {i : Instr} {s : State} {q : Cx → Prop} [DecidablePred q] {rule : IssueRule} {t : Cx → Trap}
    (h : ((focus s).any fun cx => decide (eff s cx ≠ 0 ∧ legal i = true ∧ 1 ≤ wordsLeft cx.sp ∧ q cx)
      && canTrap rule (unpark s cx) cx 0 (t cx)) = true) :
    ∃ cx, Ready i s cx ∧ q cx ∧ CanTrap rule (unpark s cx) cx 0 (t cx) := by
  obtain ⟨cx, hf, h⟩ := any_some h
  rw [Bool.and_eq_true] at h
  obtain ⟨h1, h2, h3, h4⟩ := of_decide_eq_true h.1
  exact ⟨cx, ⟨hf, h1, h2, h3⟩, h4, trapRoom_of h.2⟩
theorem issues_traps {i : Instr} {s : State} {q : Cx → List Word → State → Prop} [∀ cx ls u, Decidable (q cx ls u)] {rule : IssueRule}
    {t : Cx → List Word → State → Trap}
    (h : ((focus s).any fun cx => decide (wordLanes rule s cx ≠ 0 ∧ legal i = true ∧ litCount i + 1 ≤ wordsLeft cx.sp)
      && okAnd (fetchLits cx (litCount i) (unpark s cx)) fun r =>
        decide (q cx r.1 r.2) && canTrap rule r.2 cx (litCount i) (t cx r.1 r.2)) = true) :
    ∃ cx ls u, Issues rule false i s cx ls u ∧ q cx ls u ∧ CanTrap rule u cx (litCount i) (t cx ls u) := by
  obtain ⟨cx, hf, h⟩ := any_some h
  rw [Bool.and_eq_true] at h
  obtain ⟨h1, h2, h3⟩ := of_decide_eq_true h.1
  obtain ⟨r, hr, h4⟩ := okAnd_ok h.2
  rw [Bool.and_eq_true] at h4
  exact ⟨cx, r.1, r.2, ⟨hf, h1, h2, h3, ⟨r.2, hr, rfl⟩⟩, of_decide_eq_true h4.1, trapRoom_of h4.2⟩

/-- TrapWords, ILLOP: a branch whose C field is not zero; a word with a literal beyond its clause. -/
theorem illop_of {i : Instr} {s : State} (h : ((focus s).any fun cx => decide (lanesFor s cx i ≠ 0
      ∧ (legal i = false ∨ wordsLeft cx.sp ≤ litCount i))
      && canTrap .scalar (unpark s cx) cx (min (litCount i) (wordsLeft cx.sp - 1))
        { cls := .illop, info := (encodeWord i).getD 0, lanes := lanesFor s cx i }) = true) :
    ∃ cx, focus s = some cx ∧ lanesFor s cx i ≠ 0 ∧ (legal i = false ∨ wordsLeft cx.sp ≤ litCount i)
      ∧ CanTrap .scalar (unpark s cx) cx (min (litCount i) (wordsLeft cx.sp - 1))
        { cls := .illop, info := (encodeWord i).getD 0, lanes := lanesFor s cx i } := by
  obtain ⟨cx, hf, h⟩ := any_some h
  rw [Bool.and_eq_true] at h
  obtain ⟨h1, h2⟩ := of_decide_eq_true h.1
  exact ⟨cx, hf, h1, h2, trapRoom_of h.2⟩
theorem witness_TrapWords_illop : ∃ cx, focus (handled (placed (.br 1 0) id)) = some cx
    ∧ lanesFor (handled (placed (.br 1 0) id)) cx (.br 1 0) ≠ 0 ∧ (legal (.br 1 0) = false ∨ wordsLeft cx.sp ≤ litCount (.br 1 0))
    ∧ CanTrap .scalar (unpark (handled (placed (.br 1 0) id)) cx) cx (min (litCount (.br 1 0)) (wordsLeft cx.sp - 1))
      { cls := .illop, info := (encodeWord (.br 1 0)).getD 0, lanes := lanesFor (handled (placed (.br 1 0) id)) cx (.br 1 0) } :=
  illop_of (by decide +kernel)

/-- The split's clause ends with its word; it names no flag. -/
def lastWordOnly (w : Warp) : Warp := w.updSplit 0 fun sp => { sp with clause := sp.clause.map fun c => { c with left := 1 } }
def noFlags (w : Warp) : Warp :=
  w.updSplit 0 fun sp =>
    { sp with clause := sp.clause.map fun c => { c with word := encodeHeader { wm := 0, sa := 15, sb := 15, sp := 0, len := 0 } } }

theorem witness_TrapWords_illop_room : ∃ cx, focus (handled (placed (.vadd 1 127 3) lastWordOnly)) = some cx
    ∧ lanesFor (handled (placed (.vadd 1 127 3) lastWordOnly)) cx (.vadd 1 127 3) ≠ 0
    ∧ (legal (.vadd 1 127 3) = false ∨ wordsLeft cx.sp ≤ litCount (.vadd 1 127 3))
    ∧ CanTrap .scalar (unpark (handled (placed (.vadd 1 127 3) lastWordOnly)) cx) cx (min (litCount (.vadd 1 127 3)) (wordsLeft cx.sp - 1))
      { cls := .illop, info := (encodeWord (.vadd 1 127 3)).getD 0
        lanes := lanesFor (handled (placed (.vadd 1 127 3) lastWordOnly)) cx (.vadd 1 127 3) } :=
  illop_of (by decide +kernel)

/-- What a vector word names stops it. -/
def NamesStop (i : Instr) (v : VSpec) (s : State) (c : TrapClass) (info : Word) : Prop :=
  ∃ cx ls u, Issues (.vector v.both) false i s cx ls u
    ∧ (operandSpec u cx i = some v ∧ (resolveAll u cx (v.srcs ++ v.popD.toList) ls).isSome = true
      ∧ (v.dst.all fun d => (resolveDest u cx d u.nextId).isSome) = true ∧ NameTrap i v cx c info)
    ∧ CanTrap (.vector v.both) u cx (litCount i) { cls := c, info := info, lanes := eff s cx }
theorem namesStop_of {i : Instr} {v : VSpec} {s : State} {c : TrapClass} {info : Word} {q : Cx → Prop} [DecidablePred q]
    (hq : ∀ cx, q cx → NameTrap i v cx c info)
    (h : ((focus s).any fun cx => decide (wordLanes (.vector v.both) s cx ≠ 0 ∧ legal i = true ∧ litCount i + 1 ≤ wordsLeft cx.sp)
      && okAnd (fetchLits cx (litCount i) (unpark s cx)) fun r =>
        decide (operandSpec r.2 cx i = some v ∧ (resolveAll r.2 cx (v.srcs ++ v.popD.toList) r.1).isSome = true
          ∧ (v.dst.all fun d => (resolveDest r.2 cx d r.2.nextId).isSome) = true ∧ q cx)
        && canTrap (.vector v.both) r.2 cx (litCount i) { cls := c, info := info, lanes := eff s cx }) = true) :
    NamesStop i v s c info := by
  obtain ⟨cx, ls, u, h, ⟨a, b, d, e⟩, f⟩ := issues_traps (t := fun cx _ _ => { cls := c, info := info, lanes := eff s cx })
    (q := fun cx ls u => operandSpec u cx i = some v ∧ (resolveAll u cx (v.srcs ++ v.popD.toList) ls).isSome = true
      ∧ (v.dst.all fun d => (resolveDest u cx d u.nextId).isSome) = true ∧ q cx) h
  exact ⟨cx, ls, u, h, ⟨a, b, d, hq cx e⟩, f⟩

/-- TrapWords: a load in a clause without flags; a register beyond 9 blocks; a keg that is not configured. -/
theorem witness_TrapWords_clause : NamesStop (.vldW 6 2 10) { memSpec 2 with dst := some 6 } (handled (placed (.vldW 6 2 10) noFlags))
    .clause 0x0841810A :=
  namesStop_of (q := fun cx => cxFlag cx true = none) (fun _ h => .clause true _ rfl h (by decide)) (by decide +kernel)
theorem witness_TrapWords_regbound : NamesStop (.vadd 1 72 3) (specAB 1 72 3)
    (handled (placed (.vadd 1 72 3) fun w => { w with allot := 9, v := w.v.take 72 })) .regbound 72 :=
  namesStop_of (q := fun cx => (specAB 1 72 3).regs.find? (fun r => decide (8 * cx.w.allot ≤ r)) = some 72)
    (fun _ h => .regbound 72 (fun _ e => nomatch e) h) (by decide +kernel)
theorem witness_TrapWords_keg : NamesStop (.vadd 119 2 3) (specAB 119 2 3) (handled (placed (.vadd 119 2 3) id)) .queue 7 :=
  namesStop_of (q := fun cx => (∀ r ∈ (specAB 119 2 3).regs, r < 8 * cx.w.allot)
      ∧ (specAB 119 2 3).kegs.find? (fun k => decide ((kegAt cx.g k).cap = 0)) = some 7)
    (fun _ h => .queue 7 (fun _ e => nomatch e) h.1 h.2) (by decide +kernel)

/-- A trap of the word with class `c` and INFO `x`, in its active lanes. -/
def trapOf (c : TrapClass) (x : Word) (s : State) (cx : Cx) : Trap := { cls := c, info := x, lanes := eff s cx }

/-- TrapWords: MMAZ with d + 3 and with a + 3 beyond 9 blocks. -/
def nineBlocks (i : Instr) : State := handled (placed i fun w => { w with allot := 9, v := w.v.take 72 })
theorem witness_TrapWords_matrix : ∃ cx, Ready (.mmaz 72 8 12) (nineBlocks (.mmaz 72 8 12)) cx
    ∧ ((quadAt (nineBlocks (.mmaz 72 8 12)) (coreOfSlot cx.k) (quadOfSlot cx.k)).arrayFree ≤ (nineBlocks (.mmaz 72 8 12)).now
      ∧ 8 * cx.w.allot ≤ 75) ∧ CanTrap (.vector true) (unpark (nineBlocks (.mmaz 72 8 12)) cx) cx 0
        (trapOf .regbound 75 (nineBlocks (.mmaz 72 8 12)) cx) :=
  ready_traps (by decide +kernel)
theorem witness_TrapWords_matrix_source : ∃ cx, Ready (.mmaz 68 72 12) (nineBlocks (.mmaz 68 72 12)) cx
    ∧ ((quadAt (nineBlocks (.mmaz 68 72 12)) (coreOfSlot cx.k) (quadOfSlot cx.k)).arrayFree ≤ (nineBlocks (.mmaz 68 72 12)).now
      ∧ 71 < 8 * cx.w.allot ∧ 8 * cx.w.allot ≤ 75) ∧ CanTrap (.vector true) (unpark (nineBlocks (.mmaz 68 72 12)) cx) cx 0
        (trapOf .regbound 75 (nineBlocks (.mmaz 68 72 12)) cx) :=
  ready_traps (by decide +kernel)

/-- TrapWords: VRGET with index 112. -/
theorem witness_TrapWords_index : ∃ cx ls u, Issues (.vector false) false (.vrget 4 0x0203)
      (handled (placed (.vrget 4 0x0203) (setS [(4, 109)]))) cx ls u
    ∧ (ls = [] ∧ moveOf u cx (.vrget 4 0x0203) = some (112, 112, 1)) ∧ CanTrap (.vector false) u cx (litCount (.vrget 4 0x0203))
        (trapOf .regbound 112 (handled (placed (.vrget 4 0x0203) (setS [(4, 109)]))) cx) :=
  issues_traps (by decide +kernel)

/-- MemoryWords: VLD.Q and SST through a poisoned pointer. -/
def dangling (w : Nat) : State := handled (atW w (setS [(3, 0xDEAD0000)]))
def trapsWith (e : Except Trap Translated) (t : Trap) : Bool :=
  match e with
  | .error x => decide (x = t)
  | .ok _ => false
theorem witness_MemoryWords_traps : ∃ cx ls u, Issues (.vector false) false (.vldQ 8 4 2) (dangling 0x08820202) cx ls u
    ∧ okAnd (readOperands (.vldQ 8 4 2) cx ls { memSpec 4 with more := [8, 9, 10, 11] } u) (fun x =>
        (memWord u cx x (.vldQ 8 4 2)).any fun m => m.ready && decide (bufferUsed x.s cx.k < 64)
          && trapsWith (translateAccess x.s cx m.access (fun _ => true)) (trapOf .dangle 0xDEAD0000 (dangling 0x08820202) cx)) = true
    ∧ CanTrap (.vector false) u cx (litCount (.vldQ 8 4 2)) (trapOf .dangle 0xDEAD0000 (dangling 0x08820202) cx) :=
  issues_traps (by decide +kernel)
theorem witness_MemoryWords_scalar_traps : ∃ cx, Ready (.sst 1 0x0800) (dangling 0x88410800) cx
    ∧ ((scalarAccess (useScalar (unpark (dangling 0x88410800) cx) cx.k) cx (.sst 1 0x0800)).any fun a =>
        (cxFlag cx true).isSome && decide (bufferUsed (useScalar (unpark (dangling 0x88410800) cx) cx.k) cx.k < 64)
        && trapsWith (translateAccess (useScalar (unpark (dangling 0x88410800) cx) cx.k) cx a (fun _ => true))
          (trapOf .dangle 0xDEAD0000 (dangling 0x88410800) cx)) = true
    ∧ CanTrap .scalar (unpark (dangling 0x88410800) cx) cx 0 (trapOf .dangle 0xDEAD0000 (dangling 0x88410800) cx) :=
  ready_traps (by decide +kernel)

/-- TrapWords: CLAIM beyond 10 blocks, SURR of more than there are. -/
theorem witness_TrapWords_claim : ∃ cx, Ready (.claim 0 1) (handled (placed (.claim 0 1) id)) cx ∧ 10 < cx.w.allot + 1
    ∧ CanTrap .scalar (unpark (handled (placed (.claim 0 1) id)) cx) cx 0 (trapOf .regbound 1 (handled (placed (.claim 0 1) id)) cx) :=
  ready_traps (by decide +kernel)
theorem witness_TrapWords_surr : ∃ cx, Ready (.surr 0 10) (nineBlocks (.surr 0 10)) cx ∧ cx.w.allot < 10
    ∧ CanTrap .scalar (unpark (nineBlocks (.surr 0 10)) cx) cx 0 (trapOf .regbound 10 (nineBlocks (.surr 0 10)) cx) :=
  ready_traps (by decide +kernel)

/-- TrapWords: QPOP in a clause without flags; CUT of a buffer at an address that is no multiple of 8. -/
theorem witness_TrapWords_flag : ∃ cx, Ready (.qpop 4 0) (handled (placed (.qpop 4 0) noFlags)) cx ∧ cxFlag cx true = none
    ∧ CanTrap .scalar (unpark (handled (placed (.qpop 4 0) noFlags)) cx) cx 0
        (trapOf .clause ((encodeWord (.qpop 4 0)).getD 0) (handled (placed (.qpop 4 0) noFlags)) cx) :=
  ready_traps (by decide +kernel)
theorem witness_TrapWords_align : ∃ cx, Ready (.cut 4 9) (handled (placed (.cut 4 9) (setS [(4, 0x8004)]))) cx
    ∧ ((cxFlag cx true).isSome = true ∧ 2 ≤ (handled (placed (.cut 4 9) (setS [(4, 0x8004)]))).level ∧ cx.w.iter = none
      ∧ (readPair (handled (placed (.cut 4 9) (setS [(4, 0x8004)]))) cx.w 4).toNat % 8 = 4)
    ∧ CanTrap .scalar (unpark (handled (placed (.cut 4 9) (setS [(4, 0x8004)]))) cx) cx 0
        (trapOf .align 0x8004 (handled (placed (.cut 4 9) (setS [(4, 0x8004)]))) cx) :=
  ready_traps (by decide +kernel)

/-- TrapWords: LDF.A of a tile at 0x8200. -/
theorem witness_TrapWords_tile : ∃ cx ls u, Issues (.vector false) false (.ldfA 8 4 2) (handled (placed (.ldfA 8 4 2) (setS [(2, 0x8200)]))) cx ls u
    ∧ okAnd (readOperands (.ldfA 8 4 2) cx ls (MemWord.tile u cx (VIn.unread u) .a false 8 4 2).spec u) (fun x =>
        (memWord u cx x (.ldfA 8 4 2)).any fun m => !m.ready) = true
    ∧ CanTrap (.vector false) u cx (litCount (.ldfA 8 4 2)) (trapOf .align 0x8200 (handled (placed (.ldfA 8 4 2) (setS [(2, 0x8200)]))) cx) :=
  issues_traps (by decide +kernel)

/-- TrapWords: a cask that is not enabled, one of core 1, which is not the tenancy's; counters 49152 and 256. -/
theorem witness_TrapWords_cask : ∃ cx, Ready (.qtry 4 0) (handled (placed (.qtry 4 0) (setS [(4, 3)]))) cx
    ∧ ((cxFlag cx true).isSome = true ∧ caskOn (handled (placed (.qtry 4 0) (setS [(4, 3)]))) 3 = false
      ∧ readS (handled (placed (.qtry 4 0) (setS [(4, 3)]))) cx.w 4 = 3)
    ∧ CanTrap .scalar (unpark (handled (placed (.qtry 4 0) (setS [(4, 3)]))) cx) cx 0
        (trapOf .queue 3 (handled (placed (.qtry 4 0) (setS [(4, 3)]))) cx) :=
  ready_traps (by decide +kernel)
def otherCask : State := setCask (handled (placed (.qtry 4 0) (setS [(4, 4)]))) 4 { Cask.empty with en := true }
theorem witness_TrapWords_cask_other : ∃ cx, Ready (.qtry 4 0) otherCask cx
    ∧ ((cxFlag cx true).isSome = true ∧ caskOn otherCask 4 = true ∧ inCoreSet otherCask cx.w.ten 1 = false
      ∧ readS otherCask cx.w 4 = 4) ∧ CanTrap .scalar (unpark otherCask cx) cx 0 (trapOf .prot 4 otherCask cx) :=
  ready_traps (by decide +kernel)
theorem witness_TrapWords_counter : ∃ cx, Ready (.dcset 4 1) (handled (placed (.dcset 4 1) (setS [(4, 49152)]))) cx
    ∧ readS (handled (placed (.dcset 4 1) (setS [(4, 49152)]))) cx.w 4 = 49152
    ∧ CanTrap .scalar (unpark (handled (placed (.dcset 4 1) (setS [(4, 49152)]))) cx) cx 0
        (trapOf .queue 49152 (handled (placed (.dcset 4 1) (setS [(4, 49152)]))) cx) :=
  ready_traps (by decide +kernel)
theorem witness_TrapWords_counter_other : ∃ cx, Ready (.dcatt 4 0) (handled (placed (.dcatt 4 0) (setS [(4, 256)]))) cx
    ∧ (readS (handled (placed (.dcatt 4 0) (setS [(4, 256)]))) cx.w 4 = 256
      ∧ inCoreSet (handled (placed (.dcatt 4 0) (setS [(4, 256)]))) cx.w.ten 1 = false)
    ∧ CanTrap .scalar (unpark (handled (placed (.dcatt 4 0) (setS [(4, 256)]))) cx) cx 0
        (trapOf .prot 256 (handled (placed (.dcatt 4 0) (setS [(4, 256)]))) cx) :=
  ready_traps (by decide +kernel)

/-- TrapWords: DCDEC of counter 255, which is 0. -/
theorem witness_TrapWords_decrement : ∃ cx, Ready (.dcdec 4 0) (handled (placed (.dcdec 4 0) (setS [(4, 255)]))) cx
    ∧ Reaches1 (handled (placed (.dcdec 4 0) (setS [(4, 255)]))) cx 4 255 256 ∧ accessesDone cx.w = true
    ∧ (counterAt (handled (placed (.dcdec 4 0) (setS [(4, 255)]))) 255).value = 0
    ∧ CanTrap .scalar (unpark (handled (placed (.dcdec 4 0) (setS [(4, 255)]))) cx) cx 0
        (trapOf .counter 255 (handled (placed (.dcdec 4 0) (setS [(4, 255)]))) cx) := by
  obtain ⟨cx, h, ⟨a, b⟩, c⟩ := ready_traps (i := .dcdec 4 0) (s := handled (placed (.dcdec 4 0) (setS [(4, 255)]))) (rule := .scalar)
    (t := trapOf .counter 255 (handled (placed (.dcdec 4 0) (setS [(4, 255)]))))
    (q := fun cx => ((readS (handled (placed (.dcdec 4 0) (setS [(4, 255)]))) cx.w 4).toNat = 255
      ∧ inCoreSet (handled (placed (.dcdec 4 0) (setS [(4, 255)]))) cx.w.ten 0 = true
      ∧ running (handled (placed (.dcdec 4 0) (setS [(4, 255)]))) 0 = true) ∧ accessesDone cx.w = true) (by decide +kernel)
  exact ⟨cx, h, reaches_of a, b, by decide +kernel, c⟩

/-- TrapWords: CALL with 31 bytes left, ENTER one word beyond SLIM, RET in the base frame. -/
def nearLimit (w : Warp) : Warp := setS [(61, slimOf w - 31)] w
theorem witness_TrapWords_call : ∃ cx, Ready (.call 0 16) (handled (placed (.call 0 16) nearLimit)) cx
    ∧ (lastInClause cx (.call 0 16) = true
      ∧ isBinding (handled (placed (.call 0 16) nearLimit)) cx.w.ten (cx.sp.pc + (16 : Half).signExtend 64 * 4) = false
      ∧ (slimOf cx.w).toNat < (stOf cx.w).toNat + 32)
    ∧ CanTrap .scalar (unpark (handled (placed (.call 0 16) nearLimit)) cx) cx 0
        (trapOf .stack (cx.w.s.getD 61 0) (handled (placed (.call 0 16) nearLimit)) cx) :=
  ready_traps (by decide +kernel)
theorem witness_TrapWords_enter : ∃ cx, Ready (.enter 0 0x0808) (handled (placed (.enter 0 0x0808) id)) cx
    ∧ (slimOf cx.w).toNat < (fbOf cx.w + 32 + (0x0808 : Half).setWidth 32).toNat
    ∧ CanTrap .scalar (unpark (handled (placed (.enter 0 0x0808) id)) cx) cx 0
      (trapOf .stack (cx.w.s.getD 61 0) (handled (placed (.enter 0 0x0808) id)) cx) :=
  ready_traps (by decide +kernel)
theorem witness_TrapWords_ret : ∃ cx, Ready (.ret 0 0) (handled (placed (.ret 0 0) id)) cx ∧ inBase cx.w = true
    ∧ CanTrap .scalar (unpark (handled (placed (.ret 0 0) id)) cx) cx 0 (trapOf .stack (cx.w.s.getD 61 0) (handled (placed (.ret 0 0) id)) cx) :=
  ready_traps (by decide +kernel)

/-- A service frame: back to 0x2000 in user mode with MODE 0x0800, all lanes, S0 and S1 1 and 2. -/
def serviceFrame : List Byte :=
  [0, 0] ++ leBytes 2 0x0800 ++ leBytes 4 0 ++ leBytes 8 0 ++ leBytes 8 0x2000 ++ leBytes 8 0x2000 ++ leBytes 8 0
    ++ leBytes 8 (2 ^ 64 - 1) ++ leBytes 4 1 ++ leBytes 4 2 ++ leBytes 8 0

/-- That frame below SVSP, in service mode before TRET. -/
def atTret : State :=
  let s := atW 0xA1800000 fun w => { inService w with svsp := w.svsp + 64 }
  match warpAt s 0 with
  | none => s
  | some w => { s with mem := memWrite s.mem (hbmLoc (2 ^ 30 + (w.svsp - 64).toNat)) serviceFrame }

/-- TrapReturn. -/
theorem witness_TrapReturn : ∃ cx, focus atTret = some cx
    ∧ (legal (.tret 0 0) = true ∧ 1 ≤ wordsLeft cx.sp ∧ quietSplit cx = true ∧ cx.w.service = true
      ∧ cx.sp.mask ≠ 0 ∧ cx.w.svsp ≠ svspBase cx.w ∧ cx.w.s.length = 64
      ∧ okAnd (stackLoad (useScalar (unpark atTret cx) cx.k) cx.unguarded (stackVa cx.w (cx.w.svsp - 64)) 64) (fun r =>
          decide (BitVec.ofNat 64 (field r.1 40 8) &&& ~~~(otherLanes cx.w cx.j) &&& ~~~cx.w.exited ≠ 0)) = true) :=
  focus_any (by decide +kernel)

/-! Witnesses: events of warps. -/

/-- The split at the start of the clause of the word `w`, whose header waits for the flags of `wm`. -/
def atStart (w : Nat) (wm : BitVec 12) (f : Warp → Warp) : State :=
  let s := atW w fun x => (f x).updSplit 0 fun sp => { sp with clause := none, pc := 0x1000 }
  { s with mem := memWrite s.mem (hbmLoc (2 ^ 30 + 0x1000)) (bytesOfWord (encodeHeader { wm := wm, sa := 0, sb := 1, sp := 0, len := 0 })) }

/-- ClauseStarts: no flag to wait for, and flag 0 pending. -/
theorem witness_ClauseStarts : ∃ cx, focus (atStart 0x14004103 0xFFF id) = some cx
    ∧ (cx.sp.clause = none ∧ cx.sp.resumeAt = none
      ∧ okAnd (fetchWord (atStart 0x14004103 0xFFF id) cx cx.sp.pc) (fun r =>
          (decodeHeader r.1).any fun h => decide (h.wm = 0xFFF) && flagsClear cx.w h.wm) = true) :=
  focus_any (by decide +kernel)
theorem witness_ClauseStarts_waits : ∃ cx, focus (atStart 0x14004103 1 (withOp (storeAt 7 0))) = some cx
    ∧ (cx.sp.clause = none ∧ cx.sp.resumeAt = none
      ∧ okAnd (fetchWord (atStart 0x14004103 1 (withOp (storeAt 7 0))) cx cx.sp.pc) (fun r =>
          (decodeHeader r.1).any fun h => !flagsClear cx.w h.wm) = true) :=
  focus_any (by decide +kernel)

/-- The split stands, back from a handler or not, before the word `x` at 0x1000, in a tenancy with handlers. -/
def atWord (x : Word) (back : Option DWord) : State :=
  let s := handled (atW 0 fun w => w.updSplit 0 fun sp => { sp with clause := none, resumeAt := back, pc := 0x1000 })
  { s with mem := memWrite s.mem (hbmLoc (2 ^ 30 + 0x1000)) (bytesOfWord x) }

/-- The start of a clause can trap, decided: its word, at `pc`, is no header, and the handler can be entered. -/
theorem start_traps {s : State} {pc : DWord} {q : Cx → Prop} [DecidablePred q] {w : Word}
    (h : ((focus s).any fun cx => decide (cx.sp.clause = none ∧ decodeHeader w = none ∧ q cx)
      && okAnd (fetchWord s cx pc) fun r => decide (r.1 = w)
        && trapRoom (updSplit r.2 cx.k cx.j fun sp => { sp with wakeAt := r.2.now + 1 }) cx { cls := .und, info := w, lanes := cx.sp.mask }
          pc pc pc false) = true) :
    ∃ cx s1 cx' tn s2, focus s = some cx ∧ cx.sp.clause = none ∧ decodeHeader w = none ∧ q cx ∧ fetchWord s cx pc = .ok (w, s1)
      ∧ TrapRoom (updSplit s1 cx.k cx.j fun sp => { sp with wakeAt := s1.now + 1 }) cx cx' tn { cls := .und, info := w, lanes := cx.sp.mask }
        pc pc pc false s2 := by
  obtain ⟨cx, hf, h⟩ := any_some h
  rw [Bool.and_eq_true] at h
  obtain ⟨h1, h2, h3⟩ := of_decide_eq_true h.1
  obtain ⟨r, hr, h4⟩ := okAnd_ok h.2
  rw [Bool.and_eq_true] at h4
  obtain ⟨cx', tn, s2, ht⟩ := trapRoom_of h4.2
  exact ⟨cx, r.2, cx', tn, s2, hf, h1, h2, h3, by rw [hr, ← of_decide_eq_true h4.1], ht⟩

/-- ClauseStarts: a word that is no header at a clause start, and at HDR after TRET. -/
theorem witness_ClauseStarts_und : ∃ cx s1 cx' tn s2, focus (atWord 5 none) = some cx ∧ cx.sp.clause = none ∧ decodeHeader 5 = none
    ∧ (cx.sp.pc = 0x1000 ∧ cx.sp.resumeAt = none) ∧ fetchWord (atWord 5 none) cx 0x1000 = .ok (5, s1)
    ∧ TrapRoom (updSplit s1 cx.k cx.j fun sp => { sp with wakeAt := s1.now + 1 }) cx cx' tn { cls := .und, info := 5, lanes := cx.sp.mask }
      0x1000 0x1000 0x1000 false s2 :=
  start_traps (by decide +kernel)
theorem witness_ClauseStarts_hdr : ∃ cx s1 cx' tn s2, focus (atWord 0 (some 0x2000)) = some cx ∧ cx.sp.clause = none ∧ decodeHeader 0 = none
    ∧ (cx.sp.pc = 0x1000 ∧ cx.sp.resumeAt = some 0x2000) ∧ fetchWord (atWord 0 (some 0x2000)) cx 0x2000 = .ok (0, s1)
    ∧ TrapRoom (updSplit s1 cx.k cx.j fun sp => { sp with wakeAt := s1.now + 1 }) cx cx' tn { cls := .und, info := 0, lanes := cx.sp.mask }
      0x2000 0x2000 0x2000 false s2 :=
  start_traps (by decide +kernel)

/-- ClauseStarts: the unbound mark in a binding entry. -/
def atMarkWord : State :=
  { atWord unboundMark none with
    handles := [(1, { ten := 0, cb := 0x800, size := 4096, t1 := false, kernels := [], binds := [0x800], refs := [0] })] }
theorem witness_ClauseStarts_link : ∃ cx, focus atMarkWord = some cx
    ∧ (cx.sp.clause = none ∧ cx.sp.resumeAt = none ∧ decodeHeader unboundMark = none ∧ isBinding atMarkWord cx.w.ten cx.sp.pc = true
      ∧ okAnd (fetchWord atMarkWord cx cx.sp.pc) (fun r => decide (r.1 = unboundMark)) = true) :=
  focus_any (by decide +kernel)

/-- The split goes on, back from a handler, at `pc`, with its clause of three words at 0x1000. -/
def atReturn (pc : DWord) : State :=
  let s := atW 0 fun w => w.updSplit 0 fun sp => { sp with clause := none, resumeAt := some 0x1000, pc := pc }
  { s with mem := memWrite s.mem (hbmLoc (2 ^ 30 + 0x1000)) (bytesOfWord (encodeHeader { wm := 0, sa := 0, sb := 1, sp := 0, len := 2 })) }

/-- ClauseStarts: the last word of the clause; the word after it. -/
theorem witness_ClauseStarts_inside : ∃ cx, focus (atReturn 0x100C) = some cx
    ∧ (cx.sp.clause = none ∧ cx.sp.resumeAt = some 0x1000 ∧ (cx.sp.pc - 0x1000).toNat = 12
      ∧ okAnd (fetchWord (atReturn 0x100C) cx 0x1000) (fun r =>
          (decodeHeader r.1).any (fun h => decide (h.len.toNat = 2)) && okAnd (fetchWord r.2 cx cx.sp.pc) fun _ => true) = true) :=
  focus_any (by decide +kernel)
theorem witness_ClauseStarts_beyond : ∃ cx, focus (atReturn 0x1010) = some cx
    ∧ (cx.sp.clause = none ∧ cx.sp.resumeAt = some 0x1000 ∧ (cx.sp.pc - 0x1000).toNat = 16
      ∧ okAnd (fetchWord (atReturn 0x1010) cx 0x1000) (fun r => (decodeHeader r.1).any fun h => decide (h.len.toNat = 2)) = true) :=
  focus_any (by decide +kernel)

/-- A row that holds the same word in every lane. -/
def rowOfWord (x : Word) : Row := List.replicate 64 x

/-- A result that has come, for `d`. -/
def resultFor (d : Dest) (x : Payload) (m : Mask) (n : Nat) : PendWrite :=
  { dest := d, payload := x, lanes := m, first := 0, split := 0, due := 0, seq := n, present := true }

/-- Two results for V3, the later one for the odd lanes, one for brew slot 255, and one for a norm. -/
def atPend : State :=
  atW 0 fun w => { w with pend := [resultFor (.v 3) (.row (rowOfWord 1)) 0xF 4, resultFor (.v 3) (.row (rowOfWord 2)) 0xA 5,
    resultFor (.brew 255) (.row (rowOfWord 3)) 1 6, resultFor (.norm 15) (.word 7) 0 8] }

/-- Writebacks: the later one, that of the brew file, and that of the norm. -/
theorem witness_Writebacks : (warpAt atPend 0).isSome = true
    ∧ pendAt atPend 0 5 = some (resultFor (.v 3) (.row (rowOfWord 2)) 0xA 5) ∧ (Dest.v 3).heading = false := by decide +kernel
theorem witness_Writebacks_brew : pendAt atPend 0 6 = some (resultFor (.brew 255) (.row (rowOfWord 3)) 1 6)
    ∧ (Dest.brew 255).heading = false := by decide +kernel
theorem witness_Writebacks_heading : pendAt atPend 0 8 = some (resultFor (.norm 15) (.word 7) 0 8)
    ∧ (Dest.norm 15).heading = true := by decide +kernel

/-- A keg of 16 entries, one of them to be filled by a result of the warp. -/
def atKegPend : State :=
  { atW 0 fun w => { w with pend := [resultFor (.keg 7 3) (.row (rowOfWord 5)) 0xF 9] } with
    wgs := (at0 0).wgs.map fun e => (e.1, { e.2 with
      kegs := e.2.kegs.set 7 { base := 0, cap := 16, next := 1, entries := [{ id := 3, place := 0, written := false }] } }) }
theorem underKey_none {s : State} (h : s.sectorKeys = []) (loc n : Nat) : UnderKey s none loc n := by
  intro i _
  rw [h]
  rfl
theorem witness_Writebacks_keg : pendAt atKegPend 0 9 = some (resultFor (.keg 7 3) (.row (rowOfWord 5)) 0xF 9)
    ∧ (warpAt atKegPend 0).any (fun w => (wgAt atKegPend w.wg).any fun g =>
      decide ((kegAt g 7).entries.find? (fun x => decide (x.id = 3)) = some { id := 3, place := 0, written := false })) = true
    ∧ MemInv atKegPend ∧ ∀ n, UnderKey atKegPend none n 256 :=
  ⟨by decide +kernel, by decide +kernel, by unfold MemInv; decide +kernel, fun n => underKey_none (by decide +kernel) n 256⟩

/-- An operation of split 0 on flag 0. -/
def opOf (id : Nat) (k : OpKind) : Op :=
  { id := id, seq := 0, split := 0, order := [0], flag := some 0, pc := 0x1000, due := 0, blocks := false, present := false, kind := k }

/-- A piece of lane 0 at VA 0x8000, translated to `loc`. -/
def pieceAt (loc : Nat) (data : List Byte) : Piece :=
  { mkPiece 0 0 4 0x8000 data with at? := some { loc := loc, kind := 0, key := none, counter := none } }

/-- A performed load of two registers, a result of a special function. -/
def loadOp : Op := opOf 7 (.access { mkAccess .load (.rows 4 2) 1 [{ pieceAt 0 [1, 2, 3, 4, 5, 6, 7, 8] with len := 8, done := true }] with
  performed := true })
def sfuOp : Op := opOf 8 (.write [(.v 6, .row (rowOfWord 9))] 2)

/-- ResultsComplete: both. -/
theorem witness_ResultsComplete : (warpAt (atW 0 (withOp loadOp)) 0).any (fun w =>
      decide (w.ops.find? (fun e => decide (e.id = loadOp.id)) = some loadOp)) = true
    ∧ completionOf 0 loadOp = some (.memoryAccessComplete 0 7) ∧ (loadOp.outs.1.map fun e => e.1) = [.v 4, .v 5]
    ∧ (loadOp.outs.1.map fun e => e.1).Nodup
    ∧ (loadOp.outs.1.map fun e => decide (e.1 = .v 4 ∨ e.1 = .v 5)) = [true, true] := by decide +kernel
theorem witness_ResultsComplete_sfu : (warpAt (atW 0 (withOp sfuOp)) 0).any (fun w =>
      decide (w.ops.find? (fun e => decide (e.id = sfuOp.id)) = some sfuOp)) = true
    ∧ completionOf 0 sfuOp = some (.sfuComplete 0 8) ∧ sfuOp.outs.1 = [(.v 6, .row (rowOfWord 9))] := by decide +kernel

/-- One access of kind `kd` to the last word of the core's slice. -/
def oneAccess (kd : AccessKind) (data : List Byte) : Access := mkAccess kd .nowhere 1 [pieceAt 0xFFFFC data]

/-- AccessesPerformed: a load, a store and an atomic. -/
theorem onePiece_of (kd : AccessKind) (data : List Byte) :
    ∃ w, OnePiece (atW 0 (withOp (opOf 7 (.access (oneAccess kd data))))) 0 w (opOf 7 (.access (oneAccess kd data))) (oneAccess kd data)
      (pieceAt 0xFFFFC data) { loc := 0xFFFFC, kind := 0, key := none, counter := none } :=
  ⟨_, rfl, rfl, rfl, rfl, rfl, rfl, rfl, rfl, rfl, by decide, rfl, rfl, fun _ => rfl⟩

theorem witness_AccessesPerformed : ∃ w, OnePiece (atW 0 (withOp (opOf 7 (.access (oneAccess .load []))))) 0 w
      (opOf 7 (.access (oneAccess .load []))) (oneAccess .load []) (pieceAt 0xFFFFC [])
      { loc := 0xFFFFC, kind := 0, key := none, counter := none }
    ∧ MemInv (atW 0 (withOp (opOf 7 (.access (oneAccess .load [])))))
    ∧ poisoned (atW 0 (withOp (opOf 7 (.access (oneAccess .load []))))) 0xFFFFC 4 = false := by
  obtain ⟨w, h⟩ := onePiece_of .load []
  exact ⟨w, h, by unfold MemInv; decide +kernel, by decide +kernel⟩
theorem witness_AccessesPerformed_store : ∃ w, OnePiece (atW 0 (withOp (opOf 7 (.access (oneAccess .store [1, 2, 3, 4]))))) 0 w
      (opOf 7 (.access (oneAccess .store [1, 2, 3, 4]))) (oneAccess .store [1, 2, 3, 4]) (pieceAt 0xFFFFC [1, 2, 3, 4])
      { loc := 0xFFFFC, kind := 0, key := none, counter := none }
    ∧ UnderKey (atW 0 (withOp (opOf 7 (.access (oneAccess .store [1, 2, 3, 4]))))) none 0xFFFFC 4 := by
  obtain ⟨w, h⟩ := onePiece_of .store [1, 2, 3, 4]
  exact ⟨w, h, underKey_none (by decide +kernel) _ _⟩

theorem witness_AccessesPerformed_atomic : ∃ w, OnePiece (atW 0 (withOp (opOf 7 (.access (oneAccess (.atomic .add .i32) [1, 0, 0, 0]))))) 0 w
      (opOf 7 (.access (oneAccess (.atomic .add .i32) [1, 0, 0, 0]))) (oneAccess (.atomic .add .i32) [1, 0, 0, 0])
      (pieceAt 0xFFFFC [1, 0, 0, 0]) { loc := 0xFFFFC, kind := 0, key := none, counter := none }
    ∧ UnderKey (atW 0 (withOp (opOf 7 (.access (oneAccess (.atomic .add .i32) [1, 0, 0, 0]))))) none 0xFFFFC 4
    ∧ poisoned (atW 0 (withOp (opOf 7 (.access (oneAccess (.atomic .add .i32) [1, 0, 0, 0]))))) 0xFFFFC 4 = false := by
  obtain ⟨w, h⟩ := onePiece_of (.atomic .add .i32) [1, 0, 0, 0]
  exact ⟨w, h, underKey_none (by decide +kernel) _ _, by decide +kernel⟩

/-- A matrix operation of a warp that has no partner, compared or not, rerun or not. -/
def matrixOp (compared rerun : Bool) : MatrixOp :=
  { complex := false, d := 76, a := [], c := [], bs := [[], [], [], []], partners := [none, none, none, none], b := 0, start := 0
    compared := compared, rerun := rerun }

/-- That operation in the warp, `n` cycles after its issue. -/
def atMatrix (compared rerun : Bool) (n : Nat) : State :=
  { atW 0 (withOp (opOf 7 (.matrix (matrixOp compared rerun)))) with now := n }

/-- MatrixResults: each of its clauses, at its first cycle. -/
theorem witness_MatrixResults : matrixAt (atMatrix true false 24) 0 7 = some (opOf 7 (.matrix (matrixOp true false)), matrixOp true false)
    ∧ (warpAt (atMatrix true false 24) 0).any (fun w => decide ((matrixOp true false).d + 4 ≤ w.v.length)) = true := by decide +kernel
theorem witness_MatrixResults_rerun : matrixAt (atMatrix true true 48) 0 7 = some (opOf 7 (.matrix (matrixOp true true)), matrixOp true true)
    ∧ (coreAt (atMatrix true true 48) (coreOfSlot 0)).quads.length = 4 := by decide +kernel
theorem witness_MatrixResults_compare : matrixAt (atMatrix false false 20) 0 7
      = some (opOf 7 (.matrix (matrixOp false false)), matrixOp false false)
    ∧ (coreAt (atMatrix false false 20) (coreOfSlot 0)).quads.length = 4 := by decide +kernel

/-- The warp has 8 blocks and its split waits for a CLAIM of 2, at the head of the queue. -/
def atClaim : State :=
  let s := atW 0x8C800002 fun w => ({ w with allot := 8, v := w.v.take 64 }).updSplit 0 fun sp => { sp with park := .claim }
  setQuad s 0 0 { quadAt s 0 0 with claims := [{ slot := some 0, split := 0, n := 2 }], pool := 2 }

/-- WarpEvents: a CLAIM granted from the last blocks of the pool. -/
theorem witness_WarpEvents : (quadAt atClaim 0 0).claims = [{ slot := some 0, split := 0, n := 2 }] ∧ claimReady atClaim 0 0 = true
    ∧ (cxAt atClaim 0 0).any (fun cx => decide (cx.w.allot + 2 = 10)) = true ∧ (coreAt atClaim 0).quads.length = 4 := by decide +kernel

/-- A SURR of the warp's 3 highest blocks. -/
def surrOp : Op := { opOf 9 (.surr 7 3) with flag := none, blocks := true }

/-- WarpEvents: a SURR that waits for nothing. -/
theorem witness_WarpEvents_surr : (warpAt (atW 0 fun w => { withOp surrOp w with allot := 7 }) 0).any (fun w =>
      decide (surrsReady (atW 0 fun w => { withOp surrOp w with allot := 7 }) 0 w = [surrOp])) = true
    ∧ (coreAt (atW 0 fun w => { withOp surrOp w with allot := 7 }) 0).quads.length = 4 := by decide +kernel

/-- WarpEvents: an EXIT that waits for nothing. -/
theorem witness_WarpEvents_exit : (warpAt (atW 0 fun w => { w with park := some .exiting }) 0).any (fun w =>
      exitReady w && w.deferred.isEmpty && (failedAtExit w).isNone && (wgAt (atW 0 fun w => { w with park := some .exiting }) w.wg).isSome)
    = true ∧ (coreAt (atW 0 fun w => { w with park := some .exiting }) 0).quads.length = 4 := by decide +kernel

/-- WarpEvents: a split that has not issued for 64 cycles. -/
theorem witness_WarpEvents_starving : (warpAt { at0 0 with now := 64 } 0).any (fun w =>
      (tget w.splits 0).any fun sp => decide (sp.lastIssue + 64 = 64)) = true := by decide +kernel

/-- WarpEvents: a starving split before a word of the scalar slot, and before one of the vector slot. -/
def starved (w : Nat) : State := atW w fun w => w.updSplit 0 fun sp => { sp with starving := true }
theorem witness_WarpEvents_first : (focus (starved 0x14004103)).any (fun x => x.sp.starving && fitsScalar (starved 0x14004103) x) = true
    ∧ (focus (starved 0x00204103)).any (fun x => x.sp.starving && fitsVector (starved 0x00204103) x
        && !pairingHeld (starved 0x00204103) [x] x) = true := by decide +kernel

/-- The workgroup has four brew slots, a brew is active with its next iteration warp the second, and its request may be made. -/
def atSpawn (requested : Bool) : State :=
  let s := atBrew 0 0
  let s := setCore s 0 { coreAt s 0 with brew := some { someBrew with lastSpawn := none, requested := requested } }
  setQuad s 0 1 { quadAt s 0 1 with claims := if requested then [{ slot := none, split := 0, n := 1 }] else [] }

/-- IterationSpawns: the request, and the spawn. -/
theorem witness_IterationSpawns : (coreAt (atSpawn false) 0).brew = some { someBrew with lastSpawn := none }
    ∧ spawnRoom (atSpawn false) 0 { someBrew with lastSpawn := none } = true ∧ (coreAt (atSpawn false) 0).quads.length = 4 := by
  decide +kernel
theorem witness_IterationSpawns_granted : (coreAt (atSpawn true) 0).brew = some { someBrew with lastSpawn := none, requested := true }
    ∧ spawnRoom (atSpawn true) 0 { someBrew with lastSpawn := none, requested := true } = true
    ∧ spawnGranted (atSpawn true) 0 { someBrew with lastSpawn := none, requested := true } = true
    ∧ (wgAt (atSpawn true) 0).any (fun g => decide (freeBrewSlot g (someBrew.next % 4) someBrew.depth = some 1)) = true := by
  decide +kernel

/-- A breakpoint of split 0. -/
def someBkpt : Trap := { cls := .bkpt, info := 5, lanes := BitVec.allOnes 64 }

/-- BreakpointsAndDeferredTraps: BKPT, its delivery, and a deferred trap. -/
theorem witness_BreakpointsAndDeferredTraps : ∃ cx, Ready (.bkpt 0 5) (at0 0xA0400005) cx ∧ True :=
  ready_any (by decide +kernel)

/-- The warp stopped at a breakpoint, or with a deferred trap, in a tenancy with handlers. -/
def atBkpt : State := handled (atW 0 fun w => { w with bkpt := some (0, someBkpt) })
def someDeferred : DeferredTrap :=
  { trap := { cls := .array, info := 0, lanes := BitVec.allOnes 64 }, pc := 0x1004, split := 0, late := true, back := none }
def laterDeferred : DeferredTrap := { someDeferred with trap := { cls := .poison, info := 0, lanes := 1 } }
def atDeferred : State := handled (atW 0 fun w => { w with deferred := [laterDeferred, someDeferred] })
def queuedTrap : DeferredTrap := { someDeferred with late := false, back := some (0x1008, 0x1000) }
def atQueued : State := handled (atW 0 fun w => { w with deferred := [queuedTrap] })

theorem witness_BreakpointsAndDeferredTraps_bkpt : ∃ cx cx' tn s2,
    (∃ w, warpAt atBkpt 0 = some w ∧ w.bkpt = some (0, someBkpt) ∧ ¬ Barred w 0 ∧ (∀ o ∈ w.ops, o.flag = none) ∧ w.pend = [])
    ∧ cxAt (updWarp atBkpt 0 fun w => { w with bkpt := none }) 0 0 = some cx
    ∧ TrapRoom (updWarp atBkpt 0 fun w => { w with bkpt := none }) cx cx' tn someBkpt cx.sp.pc (cx.sp.pc + 4)
        (hdrFor cx.sp (cx.sp.pc + 4)) false s2 := by
  obtain ⟨cx, h, q⟩ := any_some (o := cxAt (updWarp atBkpt 0 fun w => { w with bkpt := none }) 0 0)
    (q := fun cx => trapRoom (updWarp atBkpt 0 fun w => { w with bkpt := none }) cx someBkpt cx.sp.pc (cx.sp.pc + 4)
        (hdrFor cx.sp (cx.sp.pc + 4)) false) (by decide +kernel)
  obtain ⟨cx', tn, s2, ht⟩ := trapRoom_of q
  refine ⟨cx, cx', tn, s2, ?_, h, ht⟩
  obtain ⟨w, hw, hq⟩ := any_some (o := warpAt atBkpt 0)
    (q := fun w => decide (w.bkpt = some (0, someBkpt) ∧ ¬ w.bars 0 = true ∧ (∀ o ∈ w.ops, o.flag = none) ∧ w.pend = [])) (by decide +kernel)
  obtain ⟨h1, h2, h3, h4⟩ := of_decide_eq_true hq
  exact ⟨w, hw, h1, fun h => h2 ((bars_iff w 0).mpr h), h3, h4⟩

/-- The deferred trap waits at a boundary, decided. -/
theorem canTake_of {w : Warp} {d : DeferredTrap} (hp : w.park = none) (hb : w.bars d.split = false)
    (ho : ∀ o ∈ w.ops, o.split = d.split → o.blocks = false) (hf : w.faultBefore d.split = false)
    (hs : (tget w.splits d.split).any (fun sp => decide (sp.park = .running)) = true) : CanTake w d d.split := by
  obtain ⟨sp, hs, hr⟩ := any_some hs
  refine ⟨fun h => ?_, fun _ _ => rfl, fun _ h => ?_, fun h => ?_, ho, hf, sp, hs, .inl (of_decide_eq_true hr)⟩
  · rw [hp] at h; cases h
  · rw [hs] at h; cases h
  · rw [(bars_iff w d.split).mpr h] at hb; cases hb

/-- BreakpointsAndDeferredTraps: the later of two deferred traps, of the lower class, is the next; one that came with its own NPC and HDR. -/
theorem witness_BreakpointsAndDeferredTraps_next : ∃ w, warpAt atDeferred 0 = some w ∧ tableWf w.splits = true
    ∧ NextDeferred w 1 someDeferred 0 := by
  obtain ⟨w, hw, hq⟩ := any_some (o := warpAt atDeferred 0) (q := fun w => decide (tableWf w.splits = true ∧ w.park = none ∧ w.bkpt = none
    ∧ w.deferred = [laterDeferred, someDeferred] ∧ w.bars 0 = false ∧ (∀ o ∈ w.ops, o.split = 0 → o.blocks = false)
    ∧ w.faultBefore 0 = false ∧ (tget w.splits 0).any (fun sp => decide (sp.park = .running)) = true)) (by decide +kernel)
  obtain ⟨h1, h2, h3, h4, h5, h6, h7, h8⟩ := of_decide_eq_true hq
  refine ⟨w, hw, h1, .inl h2, h3, by rw [h4]; rfl, canTake_of h2 h5 h6 h7 h8, fun m d' j' hm _ => ?_⟩
  rw [h4] at hm
  match m, hm with
  | 0, hm => cases hm; exact .inl (by decide)
  | 1, hm => cases hm; exact .inr ⟨rfl, Nat.le_refl 1⟩
theorem witness_BreakpointsAndDeferredTraps_deferred : ∃ cx cx' tn s2,
    cxAt (updWarp atDeferred 0 fun w => { w with deferred := w.deferred.erase someDeferred }) 0 0 = some cx
    ∧ TrapRoom (updWarp atDeferred 0 fun w => { w with deferred := w.deferred.erase someDeferred }) cx cx' tn
        someDeferred.trap someDeferred.pc cx.sp.pc (hdrFor cx.sp cx.sp.pc) someDeferred.late s2 := by
  obtain ⟨cx, h, q⟩ := any_some (o := cxAt (updWarp atDeferred 0 fun w => { w with deferred := w.deferred.erase someDeferred }) 0 0)
    (q := fun cx => trapRoom (updWarp atDeferred 0 fun w => { w with deferred := w.deferred.erase someDeferred }) cx
        someDeferred.trap someDeferred.pc cx.sp.pc (hdrFor cx.sp cx.sp.pc) someDeferred.late) (by decide +kernel)
  obtain ⟨cx', tn, s2, ht⟩ := trapRoom_of q
  exact ⟨cx, cx', tn, s2, h, ht⟩
theorem witness_BreakpointsAndDeferredTraps_back : someDeferred.split = 0 ∧ ∃ cx cx' tn s2,
    cxAt (updWarp atQueued 0 fun w => { w with deferred := w.deferred.erase queuedTrap }) 0 0 = some cx
    ∧ TrapRoom (updWarp atQueued 0 fun w => { w with deferred := w.deferred.erase queuedTrap }) cx cx' tn
        queuedTrap.trap queuedTrap.pc 0x1008 0x1000 queuedTrap.late s2 := by
  refine ⟨rfl, ?_⟩
  obtain ⟨cx, h, q⟩ := any_some (o := cxAt (updWarp atQueued 0 fun w => { w with deferred := w.deferred.erase queuedTrap }) 0 0)
    (q := fun cx => trapRoom (updWarp atQueued 0 fun w => { w with deferred := w.deferred.erase queuedTrap }) cx
        queuedTrap.trap queuedTrap.pc 0x1008 0x1000 queuedTrap.late) (by decide +kernel)
  obtain ⟨cx', tn, s2, ht⟩ := trapRoom_of q
  exact ⟨cx, cx', tn, s2, h, ht⟩

/-- BreakpointsAndDeferredTraps: what keeps a breakpoint and a deferred trap waiting: the trap ring, a pending flag, no trap to take; and
another split's handler, while a trap is met. -/
theorem witness_BreakpointsAndDeferredTraps_waits :
    (warpAt (atW 0 fun w => { w with bkpt := some (0, someBkpt), park := some (.trapRing 3) }) 0).any (fun w =>
      w.bars 0 && decide (w.bkpt = some (0, someBkpt) ∧ w.park = some (.trapRing 3) ∧ tableWf w.splits = true)) = true
    ∧ (warpAt (atW 0 fun w => withOp (storeAt 7 0) { w with bkpt := some (0, someBkpt) }) 0).any (fun w =>
      w.ops.any fun o => decide (o.flag ≠ none)) = true
    ∧ (warpAt (at0 0) 0).any (fun w => decide (w.deferred = [] ∧ tableWf w.splits = true)) = true
    ∧ (warpAt (updWarp (twoSplits 0) 0 fun w => { w with handler := some 1 }) 0).any (fun w =>
      w.bars 0 && (tget w.splits 0).isSome) = true := by decide +kernel

/-! Witnesses: cores. -/

/-- A kernel of five warps with ten register blocks each, four brew slots and 8 KiB of SRAM. -/
def someKernel : Kernel := { entry := 0x40, warps := 5, allot := 10, brew := 4, sram := 8192, kegs := List.replicate 8 0 }

/-- A launch of two workgroups of it in tenancy 0. -/
def someLaunch : Launch :=
  { ten := 0, queue := 0, index := 0, cpl := 0, handle := 1, kernel := someKernel, entry := 0x1040, dims := (2, 1, 1), asid := 0
    args := [1, 2, 3, 4], stack := 0x10000, ssz := 4096, slen := 2048, relocatable := true, needFull := false, t1 := false, next := 1
    retired := 1, killed := false, target := none }

/-- The launch waits in a tenancy of cores 0 to 2, core 1 is hot, and core 2 is the coolest with one droop event. -/
def atLaunch : State :=
  let s := at0 0
  let s := setCore s 1 { coreAt s 1 with hot := true, temp := 100 }
  let s := setCore s 2 { coreAt s 2 with temp := 120, droops := [0] }
  { s with tenancies := [(0, { placedTenancy with coreSet := [0, 1, 2] })], launches := [(7, someLaunch)] }

/-- A saved workgroup of it without warps. -/
def someContext : Context :=
  { va := 0x8000, ten := 0, gid := 9, wg := { placedWg with relocatable := true, warps := [], sram := 8192, sramBytes := 256 }, warps := []
    sram := List.replicate 256 0, marks := []
    brew := none, waits := [], brewFile := [], presence := 0, blocks := [], claims := [], waiting := true, replays := [], target := none }

/-- CoreChoice: three cores with room, of which R24 names core 2; a tenancy without cores. -/
theorem witness_CoreChoice : (tenAt atLaunch 0).isSome = true ∧ eligible atLaunch someLaunch = [0, 1, 2]
    ∧ bestCore atLaunch (eligible atLaunch someLaunch) = some 2 := by decide +kernel
theorem witness_CoreChoice_none : (tenAt { atLaunch with tenancies := [(0, { placedTenancy with coreSet := [] })] } 0).isSome = true
    ∧ eligible { atLaunch with tenancies := [(0, { placedTenancy with coreSet := [] })] } someLaunch = [] := by decide +kernel
theorem witness_CoreChoice_saved : someContext.wg.relocatable = true ∧ someContext.wg.bound = false
    ∧ (tenAt atLaunch 0).isSome = true ∧ roomFor atLaunch someContext 2 = true := by decide +kernel

/-- Placement. -/
theorem witness_Placement : tget atLaunch.launches 7 = some someLaunch ∧ someLaunch.next < someLaunch.total
    ∧ waitsFull atLaunch someLaunch = false
    ∧ chosenCore atLaunch someLaunch.target (eligible atLaunch someLaunch) = some 2 ∧ running atLaunch 2 = true
    ∧ pickSlots atLaunch 2 (kernelNeed someLaunch.kernel).quads [] = some [128, 144, 160, 176, 129, 130, 145, 161, 177]
    ∧ pickSram atLaunch 2 someLaunch.kernel.sram = some 0 := by decide +kernel

/-- Placement: the core chosen before, gated; and the core it was woken for, once it runs. -/
def atGatedLaunch : State := setCore { atLaunch with now := 10 } 2 { coreAt atLaunch 2 with gatedAt := some 3 }
theorem witness_Placement_gated : tget atGatedLaunch.launches 7 = some someLaunch ∧ waitsFull atGatedLaunch someLaunch = false
    ∧ chosenCore atGatedLaunch someLaunch.target (eligible atGatedLaunch someLaunch) = some 2
    ∧ (coreAt atGatedLaunch 2).gatedAt = some 3 ∧ atGatedLaunch.now = 10 ∧ (coreAt atGatedLaunch 2).wakeAt = none := by decide +kernel
theorem witness_CoreChoice_kept : chosenCore atLaunch (some 1) (eligible atLaunch someLaunch) = some 1 ∧ 1 ∈ eligible atLaunch someLaunch
    ∧ restoreCore atLaunch { someContext with target := some 1 } = some 1 ∧ restoreCore atLaunch someContext = some 2 := by decide +kernel

/-- CoreEvents: readings at the edges of 95 and 87 degrees, and the hypotheses of the other events. -/
theorem witness_CoreEvents : (coreAt atLaunch 0).hot = false ∧ (coreAt atLaunch 1).hot = true
    ∧ running atLaunch 0 = true := by decide +kernel
theorem witness_CoreEvents_expiry : (coreAt { atLaunch with now := 10000000 } 2).droops = [0]
    ∧ 0 + 1000 * microCycles { atLaunch with now := 10000000 } ≤ 10000000 := by decide +kernel
theorem witness_CoreEvents_gate : gateDue { atLaunch with now := 10000000 } 2 = true
    ∧ ((coreAt { atLaunch with now := 10000000 } 2).idleSince).isSome = true := by decide +kernel

/-- Core 2 is gated since cycle 3, its wake message sent or not. -/
def atGated (m : Option Nat) : State :=
  setCore { atLaunch with now := 10 } 2 { coreAt atLaunch 2 with gatedAt := some 3, wakeAt := m }
theorem witness_CoreEvents_wake : (coreAt (atGated none) 2).gatedAt = some 3 ∧ (atGated none).now = 10
    ∧ (coreAt (atGated none) 2).wakeAt = none := by decide +kernel
theorem witness_CoreEvents_abort : (coreAt { atGated none with now := 3 } 2).gatedAt = some ({ atGated none with now := 3 } : State).now
    ∧ (coreAt { atGated none with now := 3 } 2).wakeAt = none := by decide +kernel
theorem witness_CoreEvents_ungate : (coreAt (atGated (some 10)) 2).gatedAt = some 3 ∧ (coreAt (atGated (some 10)) 2).wakeAt = some 10
    ∧ 10 ≤ (atGated (some 10)).now ∧ 3 ≤ (atGated (some 10)).now := by decide +kernel

/-! Witnesses: casks, counters, engines and batches. -/

/-- Cask 3 of core 0 with two spilled records, the first at the last place of its ring of four. -/
def atSpilled : State :=
  setCask (at0 0) 3 { Cask.empty with en := true, spill := 0x8000, scap := 4, asid := 0, ten := 0, recs := [recordOf 1], head := 3, spilled := 2 }

/-- UnitEvents: a refill. -/
theorem witness_UnitEvents : refillDue (caskAt atSpilled 3) = true ∧ ∃ bs s1,
    readRanges (spillReq 3 (caskAt atSpilled 3) .load) ((List.range 2).map fun i => (spillPlace (caskAt atSpilled 3) i, 32)) atSpilled
      = .ok (bs, s1) ∧ asleep atSpilled (refillSlices atSpilled 3) = false ∧ caskQuiet s1 3 := by
  refine ⟨by decide +kernel, ?_⟩
  obtain ⟨x, h, q⟩ := okAnd_ok (e := readRanges (spillReq 3 (caskAt atSpilled 3) .load)
    ((List.range 2).map fun i => (spillPlace (caskAt atSpilled 3) i, 32)) atSpilled)
    (q := fun x => x.2.warps.all fun e => match e.2.park with
      | some (.cask d _) => decide (d ≠ 3)
      | _ => true) (by decide +kernel)
  exact ⟨x.1, x.2, h, by decide +kernel, caskQuiet_of q⟩

/-- UnitEvents: a refill from the slice of a core whose clock is stopped. -/
def atColdSpill : State := gatedOne (setCask (at0 0) 3 { caskAt atSpilled 3 with spill := 0x7F0000100000 })
theorem witness_UnitEvents_cold : refillDue (caskAt atColdSpill 3) = true ∧ asleep atColdSpill (refillSlices atColdSpill 3) = true := by
  decide +kernel

/-- A released counter unit for cask 3. -/
def someRelease : Release := { words := recordOf 1, cask := 3, counter := 255, cycle := 0, faults := [] }
def atRelease : State :=
  let s := atCask 0 [] false
  setCore s 0 { coreAt s 0 with releases := [someRelease] }

/-- UnitEvents: a deferred release. -/
theorem witness_UnitEvents_release : (coreAt atRelease 0).releases = [someRelease] ∧ someRelease.cycle < atRelease.now
    ∧ caskOn atRelease 3 = true ∧ running atRelease 0 = true ∧ (caskAt atRelease 3).spilled = 0 ∧ (caskAt atRelease 3).recs.length < 32
    ∧ caskQuiet atRelease 3 := by
  refine ⟨by decide +kernel, by decide +kernel, by decide +kernel, by decide +kernel, by decide +kernel, by decide +kernel, ?_⟩
  exact caskQuiet_of (by decide +kernel)

/-- UnitEvents: a deferred release to a cask of core 1, whose clock is stopped. -/
def coldRelease : Release := { someRelease with cask := 7 }
def atColdRelease : State :=
  let s := gatedOne (setCask (at0 0) 7 (caskAt atRelease 3))
  { setCore s 0 { coreAt s 0 with releases := [coldRelease] } with now := 5 }
theorem witness_UnitEvents_release_cold : (coreAt atColdRelease 0).releases = [coldRelease] ∧ coldRelease.cycle < atColdRelease.now
    ∧ caskOn atColdRelease 7 = true ∧ (caskAt atColdRelease 7).takes = true ∧ (coreAt atColdRelease (7 / 4)).wakeAt = none
    ∧ (coreAt atColdRelease (7 / 4)).gatedAt = some 0 := by decide +kernel

/-- A Kiln command of the warp. -/
def kilnCmd (j : KilnJob) : KilnCmd :=
  { id := 5, slot := 0, ten := 0, asid := 0, service := false, lanes := BitVec.allOnes 64, warp := 0, job := j, due := 1, faults := [] }
def atKiln (j : KilnJob) : State :=
  let s := at0 0
  setCore s 0 { coreAt s 0 with kiln := [kilnCmd j] }

/-- UnitEvents: an expansion of one tile, the packing of it, and a lattice image. -/
theorem witness_UnitEvents_expand : nextKiln (atKiln (.expand (layoutRecord 1) [])) 0 = some (kilnCmd (.expand (layoutRecord 1) []))
    ∧ asleep (atKiln (.expand (layoutRecord 1) [])) ((kilnCmd (.expand (layoutRecord 1) [])).slices (atKiln (.expand (layoutRecord 1) [])) 0)
      = false
    ∧ (warpAt (atKiln (.expand (layoutRecord 1) [])) 0).isSome = true
    ∧ okAnd (readRanges ((kilnCmd (.expand (layoutRecord 1) [])).req 0 .load) (layoutOf (layoutRecord 1)).rowRanges
        (atKiln (.expand (layoutRecord 1) []))) (fun x =>
      okAnd (readList ((kilnCmd (.expand (layoutRecord 1) [])).req 0 .load) (layoutOf (layoutRecord 1)).rowRanges
          (layoutOf (layoutRecord 1)).sclRanges x.2) fun y =>
        okAnd (writeRange y.2 ((kilnCmd (.expand (layoutRecord 1) [])).req 0 .store) (layoutOf (layoutRecord 1)).tile
          (expandBytes (layoutOf (layoutRecord 1)) [] x.1 y.1)) fun _ => true) = true := by decide +kernel
theorem witness_UnitEvents_pack : nextKiln (atKiln (.pack (layoutRecord 1))) 0 = some (kilnCmd (.pack (layoutRecord 1)))
    ∧ asleep (atKiln (.pack (layoutRecord 1))) ((kilnCmd (.pack (layoutRecord 1))).slices (atKiln (.pack (layoutRecord 1))) 0) = false
    ∧ (warpAt (atKiln (.pack (layoutRecord 1))) 0).isSome = true
    ∧ okAnd (readRange (atKiln (.pack (layoutRecord 1))) ((kilnCmd (.pack (layoutRecord 1))).req 0 .load)
        (layoutOf (layoutRecord 1)).tile (1024 * (layoutOf (layoutRecord 1)).tiles)) (fun x =>
      okAnd (writeRanges ((kilnCmd (.pack (layoutRecord 1))).req 0 .store) ((List.range (layoutOf (layoutRecord 1)).rows).flatMap fun a =>
        [((layoutOf (layoutRecord 1)).rowVa a, (packRow (layoutOf (layoutRecord 1)) x.1 a).1),
         ((layoutOf (layoutRecord 1)).sclVa a, (packRow (layoutOf (layoutRecord 1)) x.1 a).2)]) x.2) fun _ => true) = true := by
  decide +kernel
/-- UnitEvents: rows in the slice of a core whose clock is stopped. -/
def coldRecord : List Byte := leBytes 8 0x7F0000100000 ++ (layoutRecord 1).drop 8
theorem witness_UnitEvents_asleep : ∀ j ∈ [KilnJob.expand coldRecord [], .pack coldRecord],
    nextKiln (gatedOne (atKiln j)) 0 = some (kilnCmd j)
    ∧ asleep (gatedOne (atKiln j)) ((kilnCmd j).slices (gatedOne (atKiln j)) 0) = true := by decide +kernel
theorem witness_UnitEvents_lattice : nextKiln (atKiln (.lattice 15 [1, 2])) 0 = some (kilnCmd (.lattice 15 [1, 2]))
    ∧ (warpAt (atKiln (.lattice 15 [1, 2])) 0).isSome = true := by decide +kernel

/-- BatchEvents: a WAITB.K of batch 0, which is complete. -/
theorem witness_BatchEvents : (warpAt (atW 0 fun w => { w with park := some (.batches .K 0), parkSplit := 0 }) 0).any (fun w =>
      decide (waitbReady w = some (.K, 0) ∧ (w.batches .K).failed = [])
        && (cxAt (atW 0 fun w => { w with park := some (.batches .K 0), parkSplit := 0 }) 0 w.parkSplit).isSome) = true := by
  decide +kernel

/-- A reduction of the warp accepted for the last word of core 0's slice. -/
def someReduction : Reduction :=
  { id := 6, slot := 0, cmd := 5, op := .add, et := .i32, val := 7, va := 0x7F80000FFFFC
    xl := { loc := 0xFFFFC, kind := 0, key := none, counter := none }, asid := 0, ten := 0, due := 0, seq := 0, applied := false }
def atCombiner : State := { atW 0 fun w => { w with bN := { opened := 1, cmds := [(5, 0)], failed := [] } } with reds := [someReduction] }

/-- OrderingWords: NMFENCE.PKG of the warp whose one reduction is applied. -/
def atNmfence : State := { placed (.nmfencePkg 0 0) id with reds := [{ someReduction with applied := true }] }
theorem witness_OrderingWords_nmfence : (∃ cx, Ready (.nmfencePkg 0 0) atNmfence cx
      ∧ (nmfenceOf (.nmfencePkg 0 0) = some .pkg ∧ orderReady atNmfence cx (.nmfencePkg 0 0) = some true
        ∧ atNmfence.reds.filter (placedWith atNmfence.reds (fencedBy atNmfence cx)) = [{ someReduction with applied := true }]))
    ∧ MemInv atNmfence ∧ UnderKey atNmfence none someReduction.xl.loc 4 :=
  ⟨ready_any (by decide +kernel), by unfold MemInv; decide +kernel, underKey_none (by decide +kernel) _ _⟩

/-- BatchEvents: the first reduction of its combiner, the only one of its command, of a live warp and of one that has ended. -/
def atEnded : State := { atCombiner with reds := [{ someReduction with slot := 5 }] }
theorem witness_BatchEvents_ended : atEnded.reds.filter (fun e => decide (e.id = someReduction.id)) = [{ someReduction with slot := 5 }]
    ∧ firstAt atEnded.reds { someReduction with slot := 5 } = true ∧ poisoned atEnded someReduction.xl.loc 4 = false
    ∧ (warpAt atEnded 5).isNone = true
    ∧ atEnded.reds.filter (placedWith atEnded.reds fun x => decide (x.id = someReduction.id)) = [{ someReduction with slot := 5 }]
    ∧ UnderKey atEnded someReduction.xl.key someReduction.xl.loc 4 ∧ MemInv atEnded :=
  ⟨by decide +kernel, by decide +kernel, by decide +kernel, by decide +kernel, by decide +kernel, underKey_none (by decide +kernel) _ _,
    by unfold MemInv; decide +kernel⟩

/-- The same reduction, sent by another package. -/
def atOutside : State := { atCombiner with reds := [{ someReduction with slot := outsideSlot }], poison := [0xFFFFC] }

/-- OutsideAccesses: a reduction of another package meets marked bytes. -/
theorem witness_OutsideAccesses_reduction : atOutside.reds.find? (fun e => !e.applied && decide (e.id = someReduction.id))
      = some { someReduction with slot := outsideSlot }
    ∧ firstAt atOutside.reds { someReduction with slot := outsideSlot } = true
    ∧ running atOutside (someReduction.xl.loc / Config.sliceBytes) = true ∧ (warpAt atOutside outsideSlot).isNone = true
    ∧ poisoned atOutside someReduction.xl.loc 4 = true := by decide +kernel
theorem witness_BatchEvents_combiner : atCombiner.reds.filter (fun e => decide (e.id = someReduction.id)) = [someReduction]
    ∧ someReduction.applied = false ∧ someReduction.xl.counter = none ∧ (warpAt atCombiner someReduction.slot).isSome = true
    ∧ firstAt atCombiner.reds someReduction = true ∧ spaceOf someReduction.xl.loc = 0
    ∧ running atCombiner (someReduction.xl.loc / Config.sliceBytes) = true ∧ poisoned atCombiner someReduction.xl.loc 4 = false
    ∧ UnderKey atCombiner someReduction.xl.key someReduction.xl.loc 4 ∧ MemInv atCombiner
    ∧ (∀ e ∈ atCombiner.reds, e.cmd = someReduction.cmd → e.id = someReduction.id) :=
  ⟨by decide +kernel, by decide +kernel, by decide +kernel, by decide +kernel, by decide +kernel, by decide +kernel, by decide +kernel,
    by decide +kernel, underKey_none (by decide +kernel) _ _,
    by unfold MemInv; decide +kernel, by decide +kernel⟩

/-- A store of one lane to another package, sent in cycle 1 and not yet acknowledged. -/
def remotePiece : Piece := { mkPiece 0 0 4 0x8000 [1, 2, 3, 4] with at? := some { loc := hbmLoc 0x8000, kind := 3, key := none, counter := none } }
def remoteStore : Op := { opOf 7 (.access (mkAccess .store .nowhere 1 [remotePiece])) with flag := none }
def someRemote : RemoteWrite :=
  { id := 4, slot := 0, op := 7, cmd := 5, pc := 0x1000, split := 0, va := 0x8000, lanes := 1, sent := 1, due := 1, seq := 0
    reduction := false }
def atRemote (n : Nat) : State :=
  { atW 0 fun w => { withOp remoteStore w with bG := { opened := 1, cmds := [(5, 0)], failed := [] } } with remotes := [someRemote], now := n }

/-- BatchEvents: its acknowledgment, and its time-out. -/
theorem witness_BatchEvents_ack : (atRemote 1).remotes.find? (fun e => decide (e.slot = 0) && decide (e.op = someRemote.op)) = some someRemote
    ∧ (warpAt (atRemote 1) 0).any (fun w => decide (w.ops.find? (fun e => decide (e.id = 7)) = some remoteStore)) = true
    ∧ remotePiece.remote = true ∧ remotePiece.done = false ∧ UnderKey (atRemote 1) none (hbmLoc 0x8000) 4 ∧ MemInv (atRemote 1) :=
  ⟨by decide +kernel, by decide +kernel, by decide +kernel, by decide +kernel, underKey_none (by decide +kernel) _ _,
    by unfold MemInv; decide +kernel⟩
theorem witness_BatchEvents_timeout : (atRemote 1000000).remotes.find? (fun e => decide (e.slot = 0) && decide (e.op = someRemote.op))
      = some someRemote ∧ someRemote.sent + 100 * microCycles (atRemote 1000000) ≤ 1000000
    ∧ (warpAt (atRemote 1000000) 0).any (fun w => w.splits.all fun e => decide (e.2.park = .running)) = true := by
  decide +kernel

/-- The split waits at FENCE.DOM.REL for that store, whose operation holds nothing any more. -/
def atFenceWait : State :=
  { handled (placed (.fenceDomRel 0 0) fun w => { w.updSplit 0 (fun sp => { sp with park := .fence 0 }) with
      bG := { opened := 1, cmds := [(5, 0)], failed := [] } }) with remotes := [someRemote], now := 1000000 }
def fenceWoken : State :=
  updWarp (dropFresh { atFenceWait with remotes := [] }) 0 fun w =>
    { w with bG := { w.bG with cmds := w.bG.cmds.filter fun e => decide (e.1 ≠ 5) } }
theorem witness_BatchEvents_fence : atFenceWait.remotes.find? (fun e => decide (e.slot = 0) && decide (e.op = someRemote.op)) = some someRemote
    ∧ (warpAt atFenceWait 0).any (fun w => decide (∀ e ∈ w.ops, e.id ≠ someRemote.op)) = true
    ∧ ∃ cx cx' tn s2, ackWaiter fenceWoken someRemote = some (cx, .fenceDomRel 0 0)
      ∧ TrapRoom fenceWoken cx cx' tn { cls := .fabric, info := someRemote.va.setWidth 32, lanes := eff fenceWoken cx } cx.sp.pc
        (nextPc cx 0) (hdrFor cx.sp (nextPc cx 0)) false s2 := by
  refine ⟨by decide +kernel, by decide +kernel, ?_⟩
  obtain ⟨x, hx, h⟩ := any_some (o := ackWaiter fenceWoken someRemote) (q := fun x => decide (x.2 = .fenceDomRel 0 0)
    && trapRoom fenceWoken x.1 { cls := .fabric, info := someRemote.va.setWidth 32, lanes := eff fenceWoken x.1 } x.1.sp.pc
        (nextPc x.1 0) (hdrFor x.1.sp (nextPc x.1 0)) false) (by decide +kernel)
  rw [Bool.and_eq_true] at h
  obtain ⟨cx', tn, s2, ht⟩ := trapRoom_of h.2
  exact ⟨x.1, cx', tn, s2, by rw [hx, ← of_decide_eq_true h.1], ht⟩

/-! Witnesses: Lantern dies. -/

/-- A record of 64 bytes that begins with `b`. -/
def padRecord (b : List Byte) : List Byte := b ++ leBytes (64 - b.length) 0

/-- A command of the warp at a Lantern die. -/
def lanternCmd (op : LanternOp) (start : Nat) (b : List Byte) : LanternCmd :=
  { id := 5, op := op, slot := 0, ten := 0, asid := 0, service := false, record := padRecord b, recVa := 0x8000
    lanes := BitVec.allOnes 64, warp := 0, start := start, due := 1, faults := [] }

/-- Sequence 9 of tenancy 0: two layers, two KV heads, one token in layer 1, head 1. -/
def someSeq : LanternSeq := { ten := 0, id := 9, layers := 2, heads := 2, e4m3 := false, home := 1, sK := [], sV := [], lens := [(129, 1)] }

/-- Its first block of layer 1, head 1: global block 3, which is block 4 of tier 2 of die 1. -/
def someEntry : Stage1 := { ten := 0, seq := 9, layer := 1, head := 1, block := 0, node := Config.node, tier := 2, global := 3 }
def someBlock : Stage2 := { global := 3, tier := 2, phys := 4, ten := 0 }

/-- Die 1 holds them, and its pool blocks 6 of tier 1 and 7 of tier 2; the command is the first of its queue. -/
def atDie (c : LanternCmd) : State :=
  { at0 0 with lanterns := [LanternDie.empty, { LanternDie.empty with
    seqs := [someSeq], stage1 := [someEntry], stage2 := [someBlock]
    pool := [{ ten := 0, tier := 1, phys := 6 }, { ten := 0, tier := 2, phys := 7 }], cmds := [c] }] }

theorem lanternReady_of {s : State} {d : Nat} {c : LanternCmd}
    (h : d < s.lanterns.length ∧ (dieAt s d).cmds.find? (fun x => decide (x.id = c.id)) = some c ∧ cmdReady s d c = true
      ∧ asleep s (c.slices s) = false ∧ (warpAt s c.slot).isSome = true) : ∃ w, LanternReady s d c w := by
  obtain ⟨w, hw⟩ := Option.isSome_iff_exists.mp h.2.2.2.2
  exact ⟨w, h.1, h.2.1, h.2.2.1, h.2.2.2.1, hw⟩

/-- LanternData: an append of one token, the first of layer 0, head 1. -/
def appendOne : LanternCmd := lanternCmd .append 0 ([9, 0, 0, 0, 0, 1, 1, 0] ++ leBytes 8 0x9000 ++ leBytes 8 0xA000)
theorem witness_LanternData : (∃ w, LanternReady (atDie appendOne) 1 appendOne w) ∧ appendOne.op = .append
    ∧ (dieAt (atDie appendOne) 1).seq 0 (recSeq .append appendOne.record) = some someSeq
    ∧ field appendOne.record 4 1 < someSeq.layers ∧ field appendOne.record 5 1 < someSeq.heads
    ∧ appendOne.start + field appendOne.record 6 2 < 2 ^ 31
    ∧ okAnd (appendOne.reads (atDie appendOne) [] ((List.range (field appendOne.record 6 2)).map fun i =>
        (recVa appendOne.record 8 + BitVec.ofNat 64 (256 * i), 256))) (fun x =>
      okAnd (appendOne.reads x.2 (keyRanges appendOne.record) ((List.range (field appendOne.record 6 2)).map fun i =>
          (recVa appendOne.record 16 + BitVec.ofNat 64 (256 * i), 256))) fun y =>
        okAnd (appendRows 1 appendOne someSeq x.1 y.1 (List.range (field appendOne.record 6 2)) y.2) fun _ => true) = true :=
  ⟨lanternReady_of (by decide +kernel), by decide +kernel, by decide +kernel, by decide +kernel, by decide +kernel, by decide +kernel,
    by decide +kernel⟩

/-- LanternData: a query of one row over the one token of layer 1, head 1, with F32 output. -/
def queryOne : LanternCmd :=
  lanternCmd .query 1 ([9, 0, 0, 0, 1, 1, 0, 2, 1, 0, 0, 0, 0, 0, 0, 0] ++ leBytes 8 0x9000 ++ leBytes 4 0x3F800000 ++ leBytes 4 0
    ++ leBytes 4 1 ++ leBytes 4 0 ++ leBytes 8 0xA000 ++ leBytes 8 0xB000)
theorem witness_LanternData_query : (∃ w, LanternReady (atDie queryOne) 1 queryOne w) ∧ queryOne.op = .query
    ∧ (dieAt (atDie queryOne) 1).seq 0 (recSeq .query queryOne.record) = some someSeq
    ∧ field queryOne.record 4 1 < someSeq.layers ∧ field queryOne.record 5 1 < someSeq.heads
    ∧ field queryOne.record 32 4 ≤ min queryOne.start (tgetD someSeq.lens (field queryOne.record 4 1 * 128 + field queryOne.record 5 1) 0)
    ∧ (atDie queryOne).poison = [] ∧ recG queryOne.record * recR queryOne.record = 1 ∧ recF32 queryOne.record = true
    ∧ okAnd (blockLocs (atDie queryOne) 1 queryOne 9 1 1 (attended queryOne.record)) (fun ls =>
      okAnd (queryOne.reads (atDie queryOne) [] [(recVa queryOne.record 16, 256)]) fun x =>
        let r := rowResult true (queryRow x.2 someSeq queryOne.record ls (x.1.getD 0 []) 0)
        okAnd (queryOne.writes (dropFresh x.2) (queryRanges queryOne.record)
          [(recVa queryOne.record 48, leBytes 4 r.2), (recVa queryOne.record 40, r.1.flatMap fun y => leBytes 4 y)])
          fun _ => true) = true :=
  ⟨lanternReady_of (by decide +kernel), by decide +kernel, by decide +kernel, by decide +kernel, by decide +kernel, by decide +kernel,
    by decide +kernel, by decide +kernel, by decide +kernel, by decide +kernel⟩

/-- LanternData: a hint for layer 1, and the filling it asks for; the block another node asks for. -/
def hintOne : LanternCmd := lanternCmd .hint 0 [9, 0, 0, 0, 1]
theorem witness_LanternData_hint : (∃ w, LanternReady (atDie hintOne) 1 hintOne w) ∧ hintOne.op = .hint
    ∧ (dieAt (atDie hintOne) 1).seq 0 (recSeq .hint hintOne.record) = some someSeq ∧ field hintOne.record 4 1 < someSeq.layers
    ∧ 0 < someSeq.heads :=
  ⟨lanternReady_of (by decide +kernel), by decide +kernel, by decide +kernel, by decide +kernel, by decide +kernel⟩
theorem witness_LanternData_fetch : 7 ≠ Config.node
    ∧ (dieAt (atDie hintOne) 1).stage2.find? (fun x => decide (x.global = 3) && decide (x.ten = 0)) = some someBlock
    ∧ (∀ e ∈ (dieAt (atDie hintOne) 1).stage2, e.global = 3 → e.ten ≠ 1) := by decide +kernel

/-- LanternData: an append whose K rows, a query whose rows, and a CREATE whose scales lie in the slice of a core whose clock is
stopped. -/
def appendCold : LanternCmd := lanternCmd .append 0 ([9, 0, 0, 0, 0, 1, 1, 0] ++ leBytes 8 0x7F0000100000 ++ leBytes 8 0xA000)
def queryCold : LanternCmd :=
  lanternCmd .query 1 ([9, 0, 0, 0, 1, 1, 0, 2, 1, 0, 0, 0, 0, 0, 0, 0] ++ leBytes 8 0x7F0000100000 ++ leBytes 4 0x3F800000 ++ leBytes 4 0
    ++ leBytes 4 1 ++ leBytes 4 0 ++ leBytes 8 0xA000 ++ leBytes 8 0xB000)
def createCold : LanternCmd := lanternCmd .control 0 ([0, 0, 0, 0, 8, 0, 0, 0, 0, 0, 1, 1, 0, 0, 0, 0] ++ leBytes 8 0x7F0000100000)
theorem witness_LanternData_asleep : ∀ c ∈ [appendCold, queryCold, createCold],
    (dieAt (gatedOne (atDie c)) 1).cmds.find? (fun x => decide (x.id = c.id)) = some c ∧ cmdReady (gatedOne (atDie c)) 1 c = true
    ∧ asleep (gatedOne (atDie c)) (c.slices (gatedOne (atDie c))) = true := by decide +kernel
theorem witness_LanternData_ops : appendCold.op = .append ∧ queryCold.op = .query ∧ isControl 0 createCold = true := by decide +kernel

/-- Control operations: CREATE of sequence 8 with its most KV heads, FREE, TRUNC to 0, MAP1 and UNMAP1 of block 0 of layer 1, head 1,
MAP2 of global block 5 to the last block of tier 1, POOL of the last two blocks of tier 2, SETTIER of global block 3 to tier 1,
PFMODE off. -/
def createOne : LanternCmd := lanternCmd .control 0 [0, 0, 0, 0, 8, 0, 0, 0, 255, 127, 0, 1]
def freeOne : LanternCmd := lanternCmd .control 0 [1, 0, 0, 0, 9]
def truncOne : LanternCmd := lanternCmd .control 0 [2, 0, 0, 0, 9, 0, 0, 0, 1, 1]
def map1One : LanternCmd := lanternCmd .control 0 [3, 0, 0, 0, 9, 0, 0, 0, 1, 1, 0, 0, 0, 0, 0, 0, 0, 0, 1, 0, 3]
def unmap1One : LanternCmd := lanternCmd .control 0 [3, 1, 0, 0, 9, 0, 0, 0, 1, 1]
def map2One : LanternCmd :=
  lanternCmd .control 0 ([4, 0, 0, 0, 0, 0, 0, 0, 5, 0, 0, 0, 1, 1, 0, 0] ++ leBytes 4 (tierBlocks 1 - 1))
def poolOne : LanternCmd :=
  lanternCmd .control 0 ([5, 0, 0, 0, 0, 0, 0, 0, 1, 2, 0, 0] ++ leBytes 4 (tierBlocks 2 - 2) ++ leBytes 4 2)
def settierOne : LanternCmd := lanternCmd .control 0 [6, 0, 0, 0, 0, 0, 0, 0, 3, 0, 0, 0, 1, 1]
def pfmodeOne : LanternCmd := lanternCmd .control 0 [7, 0, 0, 0, 0, 0, 0, 0, 1, 2]

/-- LanternControl: each of its clauses. -/
theorem witness_LanternControl_create : (∃ w, LanternReady (atDie createOne) 1 createOne w) ∧ isControl 0 createOne = true
    ∧ recLegal .control createOne.record = true ∧ field createOne.record 10 1 = 0
    ∧ (dieAt (atDie createOne) 0).seq 0 (recSeq .control createOne.record) = none
    ∧ (dieAt (atDie createOne) 1).seq 0 (recSeq .control createOne.record) = none :=
  ⟨lanternReady_of (by decide +kernel), by decide +kernel, by decide +kernel, by decide +kernel, by decide +kernel, by decide +kernel⟩
theorem witness_LanternControl_free : (∃ w, LanternReady (atDie freeOne) 1 freeOne w) ∧ isControl 1 freeOne = true
    ∧ recLegal .control freeOne.record = true ∧ 0 < someSeq.layers ∧ 0 < someSeq.heads
    ∧ (dieAt (atDie freeOne) 1).seq 0 (recSeq .control freeOne.record) = some someSeq :=
  ⟨lanternReady_of (by decide +kernel), by decide +kernel, by decide +kernel, by decide +kernel, by decide +kernel, by decide +kernel⟩
theorem witness_LanternControl_trunc : (∃ w, LanternReady (atDie truncOne) 1 truncOne w) ∧ isControl 2 truncOne = true
    ∧ recLegal .control truncOne.record = true ∧ (dieAt (atDie truncOne) 1).seq 0 (recSeq .control truncOne.record) = some someSeq
    ∧ field truncOne.record 8 1 < someSeq.layers ∧ field truncOne.record 9 1 < someSeq.heads
    ∧ field truncOne.record 12 4 ≤ tgetD someSeq.lens (field truncOne.record 8 1 * 128 + field truncOne.record 9 1) 0 :=
  ⟨lanternReady_of (by decide +kernel), by decide +kernel, by decide +kernel, by decide +kernel, by decide +kernel, by decide +kernel,
    by decide +kernel⟩
theorem witness_LanternControl_map1 : (∃ w, LanternReady (atDie map1One) 1 map1One w) ∧ isControl 3 map1One = true
    ∧ recLegal .control map1One.record = true ∧ (dieAt (atDie map1One) 1).seq 0 (recSeq .control map1One.record) = some someSeq
    ∧ field map1One.record 8 1 < someSeq.layers ∧ field map1One.record 9 1 < someSeq.heads ∧ field map1One.record 1 1 = 0
    ∧ field map1One.record 20 4 < globalBlocks ∧ field map1One.record 16 2 = Config.node
    ∧ foreignAt (atDie map1One) 0 (field map1One.record 16 2) (field map1One.record 20 4) = false :=
  ⟨lanternReady_of (by decide +kernel), by decide +kernel, by decide +kernel, by decide +kernel, by decide +kernel, by decide +kernel,
    by decide +kernel, by decide +kernel, by decide +kernel, by decide +kernel⟩
theorem witness_LanternControl_unmap1 : (∃ w, LanternReady (atDie unmap1One) 1 unmap1One w) ∧ isControl 3 unmap1One = true
    ∧ recLegal .control unmap1One.record = true ∧ (dieAt (atDie unmap1One) 1).seq 0 (recSeq .control unmap1One.record) = some someSeq
    ∧ field unmap1One.record 8 1 < someSeq.layers ∧ field unmap1One.record 9 1 < someSeq.heads ∧ field unmap1One.record 1 1 = 1
    ∧ names unmap1One someSeq someEntry = true ∧ (∀ y ∈ (dieAt (atDie unmap1One) 1).stage1, foreign (atDie unmap1One) 0 y.global = false) :=
  ⟨lanternReady_of (by decide +kernel), by decide +kernel, by decide +kernel, by decide +kernel, by decide +kernel, by decide +kernel,
    by decide +kernel, by decide +kernel, by decide +kernel⟩
theorem witness_LanternControl_map2 : (∃ w, LanternReady (atDie map2One) 1 map2One w) ∧ isControl 4 map2One = true
    ∧ recLegal .control map2One.record = true ∧ field map2One.record 8 4 < globalBlocks
    ∧ field map2One.record 16 4 < tierBlocks (field map2One.record 12 1) ∧ foreign (atDie map2One) 0 (field map2One.record 8 4) = false
    ∧ physForeign (atDie map2One) 1 0 (field map2One.record 12 1) (field map2One.record 16 4) = false :=
  ⟨lanternReady_of (by decide +kernel), by decide +kernel, by decide +kernel, by decide +kernel, by decide +kernel, by decide +kernel,
    by decide +kernel⟩
theorem witness_LanternControl_pool : (∃ w, LanternReady (atDie poolOne) 1 poolOne w) ∧ isControl 5 poolOne = true
    ∧ recLegal .control poolOne.record = true ∧ field poolOne.record 16 4 = 2
    ∧ field poolOne.record 12 4 + 2 = tierBlocks (field poolOne.record 9 1)
    ∧ (∀ i, i < 2 → physForeign (atDie poolOne) 1 0 (field poolOne.record 9 1) (field poolOne.record 12 4 + i) = false) :=
  ⟨lanternReady_of (by decide +kernel), by decide +kernel, by decide +kernel, by decide +kernel, by decide +kernel, by decide +kernel⟩
theorem witness_LanternControl_settier : (∃ w, LanternReady (atDie settierOne) 1 settierOne w) ∧ isControl 6 settierOne = true
    ∧ recLegal .control settierOne.record = true ∧ field settierOne.record 8 4 = 3 ∧ field settierOne.record 12 1 = 1
    ∧ 3 < globalBlocks ∧ foreign (atDie settierOne) 0 3 = false
    ∧ (dieAt (atDie settierOne) 1).stage2.find? (fun e => decide (e.global = 3)) = some someBlock ∧ someBlock.tier ≠ 1
    ∧ (dieAt (atDie settierOne) 1).pool.find? (fun p => decide (p.ten = 0) && decide (p.tier = 1)) = some { ten := 0, tier := 1, phys := 6 } :=
  ⟨lanternReady_of (by decide +kernel), by decide +kernel, by decide +kernel, by decide +kernel, by decide +kernel, by decide +kernel,
    by decide +kernel, by decide +kernel, by decide +kernel, by decide +kernel⟩
theorem witness_LanternControl_pfmode : (∃ w, LanternReady (atDie pfmodeOne) 1 pfmodeOne w) ∧ isControl 7 pfmodeOne = true
    ∧ recLegal .control pfmodeOne.record = true :=
  ⟨lanternReady_of (by decide +kernel), by decide +kernel, by decide +kernel⟩

/-! Witnesses: the control pages. -/

/-- Queue 0 of tenancy 0: a service queue of 64 packets from VA 0x20000 on, with the packet `b` at its head. -/
def someQueue : Queue :=
  { spec := { id := 0, inHost := false, base := 2 ^ 30 + 0x20000, log := 6, priority := 1, service := true }, wr := 1, rd := 0, live := []
    unloads := [], held := none, served := 0 }
def atQueue (b : List Byte) : State :=
  let s := at0 0
  { s with
    tenancies := [(0, { placedTenancy with queues := [(0, someQueue)] })]
    mem := memWrite s.mem (hbmLoc (2 ^ 30 + 0x20000)) b }

/-- Bytes `d` at VA 0x9000. -/
def withOperand (s : State) (d : List Byte) : State := { s with mem := memWrite s.mem (hbmLoc (2 ^ 30 + 0x9000)) d }

/-- The only warp, its only split waiting for record 8. -/
def someRef : FaultRef := { ten := 0, seq := 8, cause := .notValid, asid := 0, va := 0x8000, lanes := 1 }
def atParked : State := atW 0 fun w => w.updSplit 0 fun sp => { sp with park := .fault [someRef] }

/-- ControlPages: a doorbell; a warp that waits for record 8, which the REPLAY values 8 and 0x80000007 cover and 7 and 0x80000008 do not. -/
theorem witness_ControlPages : (queueAt (atQueue []) 0 0) = some someQueue := by decide +kernel
theorem witness_ControlPages_replay : (warpAt atParked 0).any (fun w => decide (w.park = none ∧ w.spills = [] ∧ (∀ e ∈ w.splits, e.1 = 0))
      && (tget w.splits 0).any (fun sp => decide (sp.park = .fault [someRef])) && (wgAt atParked w.wg).isSome) = true
    ∧ (∀ e ∈ atParked.warps, e.1 = 0) ∧ someRef.ten = 0 ∧ ((8 : Word) - someRef.seq).toNat < 2 ^ 31
    ∧ ((0x80000007 : Word) - someRef.seq).toNat < 2 ^ 31 ∧ 2 ^ 31 ≤ ((7 : Word) - someRef.seq).toNat
    ∧ 2 ^ 31 ≤ ((0x80000008 : Word) - someRef.seq).toNat := by decide +kernel

/-- A load of two lanes, the second of which waits for record 8; the warp's only split is parked on it. -/
def waitingLoad : Access :=
  mkAccess .load (.rows 4 1) 3 [pieceAt (hbmLoc (2 ^ 30 + 0x8000)) [], { mkPiece 1 0 4 0x8004 [] with faults := [someRef] }]
def atWaiting : State := atW 0 fun w => (withOp (opOf 7 (.access waitingLoad)) w).updSplit 0 fun sp => { sp with park := .access 7 }

/-- ControlPages: the two cases of MadeAgain, for the REPLAY value 8. -/
theorem witness_ControlPages_split : (warpAt atParked 0).any (fun w =>
      decide ((∀ o ∈ w.ops, o.awaits (Again.upTo 0 8).covers = false) ∧ w.park = none ∧ ∀ e ∈ w.splits, e.2.park = .fault [someRef])
      && (wgAt atParked w.wg).isSome) = true ∧ (Again.upTo 0 8).covers someRef = true := by decide +kernel
theorem witness_ControlPages_lanes : ∃ w cx tr, atWaiting.warps = [(0, w)] ∧ (wgAt atWaiting w.wg).isSome = true
    ∧ Unjoined w (Again.upTo 0 8).covers ∧ w.ops = [opOf 7 (.access waitingLoad)]
    ∧ (opOf 7 (.access waitingLoad)).awaits (Again.upTo 0 8).covers = true
    ∧ opCx atWaiting 0 (opOf 7 (.access waitingLoad)) = some cx
    ∧ translateAccess atWaiting cx waitingLoad (Piece.awaits (Again.upTo 0 8).covers) = .ok tr := by
  obtain ⟨w, hw, h⟩ := any_some (o := atWaiting.warps.head?) (q := fun e => decide (atWaiting.warps = [e]) && decide (e.1 = 0)
    && (wgAt atWaiting e.2.wg).isSome && decide (e.2.ops = [opOf 7 (.access waitingLoad)] ∧ e.2.park = none
      ∧ ∀ x ∈ e.2.splits, x.2.park = .access 7)
    && (opCx atWaiting 0 (opOf 7 (.access waitingLoad))).any fun cx =>
      okAnd (translateAccess atWaiting cx waitingLoad (Piece.awaits (Again.upTo 0 8).covers)) fun _ => true) (by decide +kernel)
  simp only [Bool.and_eq_true] at h
  obtain ⟨⟨⟨⟨h1, h2⟩, h3⟩, h4⟩, h5⟩ := h
  obtain ⟨h4, h6, h7⟩ := of_decide_eq_true h4
  obtain ⟨cx, hc, h5⟩ := any_some h5
  obtain ⟨tr, ht, _⟩ := okAnd_ok h5
  refine ⟨w.2, cx, tr, ?_, h3, ⟨?_, ?_, ?_⟩, h4, by decide +kernel, hc, ht⟩
  · rw [of_decide_eq_true h1, ← of_decide_eq_true h2]
  · intro e he a ha
    rw [h7 e he] at ha
    exact absurd ha (by simp)
  · intro e he a rs ha
    rw [h7 e he] at ha
    exact absurd ha (by simp)
  · intro c ws hc
    rw [h6] at hc
    exact absurd hc (by simp)

/-- A completion word of queue 0 that waits for record 8, in a package without warps. -/
def atLateWord : State :=
  { atQueue [] with
    warps := []
    cpls := [{ ten := 0, queue := 0, index := 0, va := 0x8008, status := 12, result := 3, faults := [someRef] }] }
theorem witness_ControlPages_completion : (Again.upTo 0 8).covers someRef = true ∧ (queueAt atLateWord 0 0).any (fun x => decide (x.unloads = []))
      = true ∧ (tenAt atLateWord 0).any (fun tn =>
      let u := { replayCasks (replayLanterns (replayKilns atLateWord (Again.upTo 0 8).covers) (Again.upTo 0 8).covers) (Again.upTo 0 8).covers
        with cpls := [] }
      okAnd (storeNow u (queueReq u 0 0 (tenAsid tn) .store) 0x8008 (leBytes 4 12 ++ leBytes 4 3)) fun _ => true) = true := by
  decide +kernel

/-- Tenancy 0 whose fault ring of 16 records has given out 20 and holds the last 10. -/
def ringTenancy : Tenancy := { placedTenancy with fault := { placedTenancy.fault with prod := 20, cons := 10 } }
def atRing : State := { at0 0 with tenancies := [(0, ringTenancy)] }
theorem witness_ControlPages_ring : tenAt atRing 0 = some ringTenancy ∧ (ringOf ringTenancy .fault).waiting = []
    ∧ ((ringOf ringTenancy .fault).prod - 4).toNat ≤ 2 ^ (ringOf ringTenancy .fault).log
    ∧ 2 ^ (ringOf ringTenancy .fault).log < ((ringOf ringTenancy .fault).prod - 3).toNat
    ∧ 2 ^ (ringOf ringTenancy .fault).log < ((ringOf ringTenancy .fault).prod - 21).toNat := by decide +kernel

/-! Witnesses: packets. -/

/-- Taken, decided. -/
def takes (kd : PacketKind) (s : State) (n q i : Nat) (b : List Byte) : Bool :=
  (headOf s n q).any (fun x => decide (x.2 = b ∧ x.1.rd = i ∧ x.1.unloads = [] ∧ (kd.service = true → x.1.spec.service = true)))
    && decide (packetKind b = kd) && packetSound kd b
theorem taken_of {kd : PacketKind} {s : State} {n q i : Nat} {b : List Byte} (h : takes kd s n q i b = true) :
    Taken kd s n q i b (takePacket s n q) := by
  simp only [takes, Bool.and_eq_true] at h
  obtain ⟨⟨h1, h2⟩, h3⟩ := h
  obtain ⟨x, hx, hq⟩ := any_some h1
  obtain ⟨e, h5, h6, h7⟩ := of_decide_eq_true hq
  exact ⟨⟨x.1, by rw [hx, ← e], h5, h6, h7⟩, of_decide_eq_true h2, h3, rfl⟩

/-- What a packet taken from queue 0 reads lies in the slice of a core whose clock is stopped. -/
def sleeps (s : State) (asid va n : Nat) : Bool :=
  asleep (takePacket s 0 0) (slicesOf (takePacket s 0 0) (queueReq (takePacket s 0 0) 0 0 asid .load) (BitVec.ofNat 64 va) n)

/-- Packets: a LAUNCH of two workgroups of kernel 5 of handle 1 with 4 bytes of arguments. -/
def launchPacket : List Byte :=
  [0, 3, 0, 0, 0, 0, 0, 0] ++ leBytes 4 1 ++ leBytes 4 5 ++ leBytes 4 2 ++ leBytes 4 1 ++ leBytes 4 1 ++ leBytes 2 0 ++ leBytes 2 4
    ++ leBytes 8 0x9000 ++ leBytes 8 0x100000 ++ leBytes 4 4096 ++ leBytes 4 2048 ++ leBytes 8 0x8000
def someHandle : Handle := { ten := 0, cb := 0x1000, size := 4096, t1 := false, kernels := [(5, someKernel)], binds := [], refs := [0] }
def atLaunchPacket : State := { atQueue launchPacket with handles := [(1, someHandle)] }
def launchPk : Pk := { ten := 0, q := 0, i := 0, cpl := cplOf launchPacket, b := launchPacket }
theorem witness_Packets : Taken .launch atLaunchPacket 0 0 0 launchPacket (takePacket atLaunchPacket 0 0)
    ∧ tget (takePacket atLaunchPacket 0 0).handles (field launchPacket 8 4) = some someHandle ∧ holdsRef someHandle 0 0 = true
    ∧ tget someHandle.kernels (field launchPacket 12 4) = some someKernel
    ∧ launchSound (takePacket atLaunchPacket 0 0) (launchOf launchPk someHandle someKernel) (field launchPacket 30 2) = true
    ∧ couldHold someKernel = true ∧ (tenAt (takePacket atLaunchPacket 0 0) 0).any (fun t => decide (t.coreSet ≠ [])) = true
    ∧ okAnd (readRange (takePacket atLaunchPacket 0 0) (queueReq (takePacket atLaunchPacket 0 0) 0 0 (field launchPacket 28 2) .load)
        (BitVec.ofNat 64 (field launchPacket 32 8)) (field launchPacket 30 2))
        (fun x => decide (eligible x.2 { launchOf launchPk someHandle someKernel with args := x.1 } ≠ [])) = true
    ∧ sleeps atLaunchPacket (field launchPacket 28 2) (field launchPacket 32 8) (field launchPacket 30 2) = false :=
  ⟨taken_of (by decide +kernel), by decide +kernel, by decide +kernel, by decide +kernel, by decide +kernel, by decide +kernel,
    by decide +kernel, by decide +kernel, by decide +kernel⟩

/-- Packets: a LOAD of a code object with one T3 image and one binding entry. -/
def codeObject : List Byte :=
  leBytes 4 0x4F435954 ++ leBytes 4 1 ++ leBytes 4 64 ++ leBytes 4 0 ++ leBytes 4 0 ++ leBytes 4 80 ++ leBytes 4 1 ++ leBytes 4 96
    ++ leBytes 4 2 ++ leBytes 28 0
    ++ (leBytes 4 3 ++ leBytes 4 255 ++ leBytes 4 112 ++ leBytes 4 32)
    ++ (leBytes 4 0 ++ leBytes 4 0 ++ leBytes 8 16)
    ++ [97, 0] ++ leBytes 14 0 ++ leBytes 32 0
def loadPacket : List Byte :=
  leBytes 8 1 ++ leBytes 8 0x9000 ++ leBytes 8 144 ++ leBytes 4 0 ++ leBytes 28 0 ++ leBytes 8 0
def atLoadPacket : State := withOperand (atQueue loadPacket) codeObject
theorem witness_Packets_load : Taken .load atLoadPacket 0 0 0 loadPacket (takePacket atLoadPacket 0 0) ∧ field loadPacket 24 4 = 0
    ∧ (tenAt (takePacket atLoadPacket 0 0) 0).any (fun t => decide (tenAsid t = 0)) = true
    ∧ okAnd (readRange (takePacket atLoadPacket 0 0) (queueReq (takePacket atLoadPacket 0 0) 0 0 0 .load)
        (BitVec.ofNat 64 (field loadPacket 8 8)) (field loadPacket 16 8)) (fun x =>
      okAnd (loadObject x.1 (BitVec.ofNat 64 (field loadPacket 8 8)) 0) fun h =>
        decide (h.binds = [16]) && (tenAt x.2 0).any (fun t => decide (tenAsid t = 0))
          && okAnd (writeRanges (queueReq x.2 0 0 0 .store)
            (h.binds.map fun o => (h.cb + BitVec.ofNat 64 o, List.replicate 16 (0xFF : Byte))) x.2) fun _ => true) = true
    ∧ sleeps atLoadPacket 0 (field loadPacket 8 8) (field loadPacket 16 8) = false :=
  ⟨taken_of (by decide +kernel), by decide +kernel, by decide +kernel, by decide +kernel, by decide +kernel⟩

/-- Packets: a LOAD of a code object in the slice of a core whose clock is stopped. -/
def coldLoad : List Byte := leBytes 8 1 ++ leBytes 8 0x7F0000100000 ++ leBytes 8 144 ++ leBytes 40 0
def atColdLoad : State :=
  { gatedOne (atQueue coldLoad) with tenancies := [(0, { placedTenancy with coreSet := [0, 1], queues := [(0, someQueue)] })] }
theorem witness_Packets_cold : Taken .load atColdLoad 0 0 0 coldLoad (takePacket atColdLoad 0 0) ∧ field coldLoad 24 4 = 0
    ∧ okAnd (readRange (takePacket atColdLoad 0 0) (queueReq (takePacket atColdLoad 0 0) 0 0 0 .load)
        (BitVec.ofNat 64 (field coldLoad 8 8)) (field coldLoad 16 8)) (fun _ => true) = true
    ∧ sleeps atColdLoad 0 (field coldLoad 8 8) (field coldLoad 16 8) = true :=
  ⟨taken_of (by decide +kernel), by decide +kernel, by decide +kernel, by decide +kernel⟩

/-- Packets: a LOAD of handle 1, and an UNLOAD of it. -/
def loadAgainPacket : List Byte := leBytes 8 1 ++ leBytes 16 0 ++ leBytes 4 1 ++ leBytes 28 0 ++ leBytes 8 0
def unloadPacket : List Byte := leBytes 8 2 ++ leBytes 4 1 ++ leBytes 44 0 ++ leBytes 8 0
def atUnloadPacket (b : List Byte) : State := { atQueue b with handles := [(1, someHandle)] }
theorem witness_Packets_again : Taken .load (atUnloadPacket loadAgainPacket) 0 0 0 loadAgainPacket
      (takePacket (atUnloadPacket loadAgainPacket) 0 0) ∧ field loadAgainPacket 24 4 = 1
    ∧ tget (takePacket (atUnloadPacket loadAgainPacket) 0 0).handles 1 = some someHandle ∧ someHandle.ten = 0 :=
  ⟨taken_of (by decide +kernel), by decide +kernel, by decide +kernel, by decide +kernel⟩
theorem witness_Packets_unload : Taken .unload (atUnloadPacket unloadPacket) 0 0 0 unloadPacket (takePacket (atUnloadPacket unloadPacket) 0 0)
    ∧ tget (takePacket (atUnloadPacket unloadPacket) 0 0).handles (field unloadPacket 8 4) = some someHandle ∧ holdsRef someHandle 0 0 = true
    ∧ launchBefore (takePacket (atUnloadPacket unloadPacket) 0 0) 0 0 0 = false ∧ cplOf unloadPacket = 0 :=
  ⟨taken_of (by decide +kernel), by decide +kernel, by decide +kernel, by decide +kernel, by decide +kernel⟩

/-- Packets: an UNLOAD by a queue that holds no reference, and by one whose only reference an UNLOAD before it gives up. -/
def waitingQueue : Queue := { someQueue with unloads := [(5, 1, 0)] }
def atNoRef : State := { atQueue unloadPacket with handles := [(1, { someHandle with refs := [] })] }
def atLastRef : State :=
  { atUnloadPacket unloadPacket with tenancies := [(0, { placedTenancy with queues := [(0, waitingQueue)] })] }
theorem witness_Packets_noRef : headOf atNoRef 0 0 = some (someQueue, unloadPacket) ∧ headOf atLastRef 0 0 = some (waitingQueue, unloadPacket)
    ∧ packetKind unloadPacket = .unload ∧ packetSound .unload unloadPacket = true ∧ field unloadPacket 8 4 = 1
    ∧ tget atNoRef.handles 1 = some { someHandle with refs := [] } ∧ tget atLastRef.handles 1 = some someHandle
    ∧ ({ someHandle with refs := [] } : Handle).refs.count (0 * 16 + 0) ≤ (someQueue.unloads.filter fun e => decide (e.2.1 = 1)).length
    ∧ someHandle.refs.count (0 * 16 + 0) ≤ (waitingQueue.unloads.filter fun e => decide (e.2.1 = 1)).length := by decide +kernel

/-- Packets: a PREEMPT of workgroup 0 of handle 1, and the save of a drained one. -/
def preemptPacket : List Byte := leBytes 8 3 ++ leBytes 4 1 ++ leBytes 4 0 ++ leBytes 8 0x100000 ++ leBytes 8 0x100000 ++ leBytes 24 0 ++ leBytes 8 0
def atPreemptPacket : State := { atQueue preemptPacket with launches := [(0, { someLaunch with queue := 5, next := 2 })] }
theorem witness_Packets_preempt : Taken .preempt atPreemptPacket 0 0 0 preemptPacket (takePacket atPreemptPacket 0 0)
    ∧ findWg (takePacket atPreemptPacket 0 0) 0 (field preemptPacket 8 4) (field preemptPacket 12 4) = some 0
    ∧ (wgAt (takePacket atPreemptPacket 0 0) 0).isSome = true :=
  ⟨taken_of (by decide +kernel), by decide +kernel, by decide +kernel⟩
def somePreemption : Preemption := { wg := 0, ten := 0, queue := none, index := 0, cpl := 0, area := 0, size := 0, faults := [] }
def atSave : State := { atG 0 fun g => { g with draining := true } with preempts := [somePreemption] }
theorem witness_Packets_save : atSave.preempts.find? (fun x => decide (x.wg = somePreemption.wg)) = some somePreemption
    ∧ (atSave.preempts.all fun x => decide (x.queue = none)) = true ∧ saveReady atSave somePreemption = true
    ∧ (wgAt atSave 0).any (fun g => decide ((coreAt atSave g.core).brewWait = [])) = true := by decide +kernel

/-- Packets: the save of a workgroup that a packet of queue 0 asks for. The length of its record is a free value (entry 16), so the bytes
stored are not shown here. -/
def packetPreemption : Preemption := { somePreemption with queue := some 0, area := 0x100000, size := 0x100000 }
def atPacketSave : State := { atQueue [] with wgs := atSave.wgs, preempts := [packetPreemption] }
theorem witness_Packets_save_packet :
    atPacketSave.preempts.find? (fun x => decide (x.wg = packetPreemption.wg) && x.queue.isSome) = some packetPreemption
    ∧ saveReady atPacketSave packetPreemption = true ∧ (tenAt atPacketSave packetPreemption.ten).isSome = true
    ∧ (wgAt atPacketSave packetPreemption.wg).any (fun g => decide ((coreAt atPacketSave g.core).brewWait = [])) = true := by decide +kernel

/-- Packets: a RESUME of the record at 0x8000, a SIGNAL, a BARRIER, and a completion word. -/
def resumePacket : List Byte := leBytes 8 4 ++ leBytes 8 0x8000 ++ leBytes 40 0 ++ leBytes 8 0
/-- The saved workgroup 9, with the one warp of its launch. -/
def warpContext : Context :=
  { someContext with
    waiting := false, warps := [(0, (placedWarp 9 1 0).saved)], wg := { someContext.wg with warps := [(0, 0)], draining := true } }
def atResumePacket : State := { atQueue resumePacket with ctxs := [warpContext] }
theorem witness_Packets_resume : Taken .resume atResumePacket 0 0 0 resumePacket (takePacket atResumePacket 0 0)
    ∧ (takePacket atResumePacket 0 0).ctxs.find? (fun x => decide (x.ten = 0) && !x.waiting && decide (x.va.toNat = field resumePacket 8 8))
      = some warpContext
    ∧ restoreCore (takePacket atResumePacket 0 0) warpContext = some 0 ∧ Returns (takePacket atResumePacket 0 0) warpContext 0 [1] := by
  refine ⟨taken_of (by decide +kernel), by decide +kernel, by decide +kernel, ?_⟩
  have hc : warpContext.covered = fun _ => false := by
    funext f
    rfl
  refine ⟨by decide +kernel, by decide +kernel, by decide +kernel, by unfold MemInv; decide +kernel, underKey_none (by decide +kernel) _ _,
    by decide +kernel, by decide +kernel, by decide +kernel, by decide +kernel, ?_, ?_, ?_, by decide +kernel⟩
  · decide +kernel
  · intro e _ p _ a rs _
    rw [hc]
    simp
  · intro e _
    rw [hc]
    refine ⟨?_, fun _ _ rs _ => by simp, fun _ _ _ rs _ => by simp⟩
    have : ∀ o ∈ e.2.ops, o.awaits (fun _ => false) = false := by
      have h : ∀ e ∈ (takePacket atResumePacket 0 0).warps, e.2.ops = [] := by decide +kernel
      rw [h e ‹_›]
      simp
    exact this
def signalPacket : List Byte := leBytes 8 5 ++ leBytes 8 0x9000 ++ leBytes 8 7 ++ leBytes 32 0 ++ leBytes 8 0
theorem witness_Packets_signal : Taken .signal (atQueue signalPacket) 0 0 0 signalPacket (takePacket (atQueue signalPacket) 0 0)
    ∧ (tenAt (takePacket (atQueue signalPacket) 0 0) 0).any (fun t => decide (tenAsid t = 0)) = true ∧ field signalPacket 8 8 % 8 = 0
    ∧ okAnd (writeRange (takePacket (atQueue signalPacket) 0 0) (queueReq (takePacket (atQueue signalPacket) 0 0) 0 0 0 .store)
        (BitVec.ofNat 64 (field signalPacket 8 8)) ((signalPacket.drop 16).take 8)) (fun _ => true) = true :=
  ⟨taken_of (by decide +kernel), by decide +kernel, by decide +kernel, by decide +kernel⟩
def barrierPacket : List Byte := leBytes 64 6
theorem witness_Packets_barrier : Taken .barrier (atQueue barrierPacket) 0 0 0 barrierPacket (takePacket (atQueue barrierPacket) 0 0)
    ∧ queueAt (atQueue barrierPacket) 0 0 = some someQueue ∧ someQueue.live = [] :=
  ⟨taken_of (by decide +kernel), by decide +kernel, by decide +kernel⟩
def someCompletion : Completion := { ten := 0, queue := 0, index := 0, va := 0x8008, status := 12, result := 3, faults := [] }
/-- Packets: a completion word that cannot be stored, its page not mapped. -/
theorem witness_Packets_late : (tenAt (atQueue []) 0).any (fun t => decide (tenAsid t = 0)) = true ∧ someQueue.unloads = []
    ∧ (2 ^ 40 : DWord) ≠ 0 ∧ (2 ^ 40 : DWord).toNat % 8 = 0
    ∧ (match storeNow (atQueue []) (queueReq (atQueue []) 0 0 0 .store) (2 ^ 40) (leBytes 4 0 ++ leBytes 4 0) with
      | .error (.faults fs) => decide (fs.length = 1)
      | _ => false) = true := by decide +kernel
theorem witness_Packets_completion : (tenAt (atQueue []) 0).any (fun t => decide (tenAsid t = 0)) = true ∧ someCompletion.va ≠ 0
    ∧ someCompletion.va.toNat % 8 = 0
    ∧ okAnd (storeNow (atQueue []) (queueReq (atQueue []) 0 0 0 .store) someCompletion.va
        (leBytes 4 someCompletion.status ++ leBytes 4 someCompletion.result.toNat)) (fun _ => true) = true := by decide +kernel

/-! Witnesses: service packets. -/

/-- A trap-ring frame of warp 0: PC 0x1004, NPC 0x1008, every lane, S0 and S1 3 and 4. -/
def ringFrame : List Byte :=
  leBytes 8 0 ++ leBytes 8 0x1004 ++ leBytes 8 0x1008 ++ leBytes 16 0 ++ leBytes 8 (2 ^ 64 - 1) ++ leBytes 4 3 ++ leBytes 4 4 ++ leBytes 8 0
def atTrapPacket (b : List Byte) : State :=
  updWarp (atQueue b) 0 fun w => { w with park := some (.trapRing 7), parkSplit := 0, frame := ringFrame }

/-- ServicePackets: a TRAPRES at NPC, and a KILL, of the warp on record 7. -/
def trapresPacket : List Byte := leBytes 8 7 ++ leBytes 8 0 ++ leBytes 4 0 ++ leBytes 4 7 ++ [0] ++ leBytes 39 0
def killPacket : List Byte := leBytes 8 7 ++ leBytes 8 1 ++ leBytes 4 0 ++ leBytes 4 7 ++ leBytes 40 0
theorem witness_ServicePackets : Taken .trapres (atTrapPacket trapresPacket) 0 0 0 trapresPacket (takePacket (atTrapPacket trapresPacket) 0 0)
    ∧ (parkedOnTrap (takePacket (atTrapPacket trapresPacket) 0 0) 0 (field trapresPacket 16 4) (BitVec.ofNat 32 (field trapresPacket 20 4))).any
        (fun x => decide (x.1 = 0 ∧ warpAt (takePacket (atTrapPacket trapresPacket) 0 0) 0 = some x.2 ∧ x.2.s.length = 64
          ∧ BitVec.ofNat 64 (field x.2.frame 40 8) &&& ~~~(otherLanes x.2 x.2.parkSplit) &&& ~~~x.2.exited ≠ 0)
          && (tget x.2.splits x.2.parkSplit).isSome && (wgAt (takePacket (atTrapPacket trapresPacket) 0 0) x.2.wg).isSome) = true
    ∧ cplOf trapresPacket = 0 ∧ running (takePacket (atTrapPacket trapresPacket) 0 0) (coreOfSlot 0) = true :=
  ⟨taken_of (by decide +kernel), by decide +kernel, by decide +kernel, by decide +kernel⟩
theorem witness_ServicePackets_kill : Taken .kill (atTrapPacket killPacket) 0 0 0 killPacket (takePacket (atTrapPacket killPacket) 0 0)
    ∧ (parkedOnTrap (takePacket (atTrapPacket killPacket) 0 0) 0 (field killPacket 16 4) (BitVec.ofNat 32 (field killPacket 20 4))).any
        (fun x => (wgAt (takePacket (atTrapPacket killPacket) 0 0) x.2.wg).isSome
          && running (takePacket (atTrapPacket killPacket) 0 0) (coreOfSlot x.1)) = true
    ∧ tableWf (takePacket (atTrapPacket killPacket) 0 0).warps = true ∧ cplOf killPacket = 0 :=
  ⟨taken_of (by decide +kernel), by decide +kernel, by decide +kernel, by decide +kernel⟩

/-- ServicePackets: a descriptor for cask 3 with the largest spill ring. -/
def caskPacket : List Byte := leBytes 8 7 ++ leBytes 8 2 ++ leBytes 4 3 ++ leBytes 4 0 ++ leBytes 8 0x9000 ++ leBytes 32 0
def caskDescriptor : List Byte := leBytes 8 0x40000 ++ leBytes 4 (2 ^ 20) ++ leBytes 2 0 ++ [3, 0]
def atCaskPacket : State := withOperand (atQueue caskPacket) caskDescriptor
theorem witness_ServicePackets_cask : Taken .cask atCaskPacket 0 0 0 caskPacket (takePacket atCaskPacket 0 0) ∧ field caskPacket 16 4 = 3
    ∧ (tenAt (takePacket atCaskPacket 0 0) 0).any (fun t => decide (tenAsid t = 0 ∧ 3 / 4 ∈ t.coreSet)) = true ∧ cplOf caskPacket = 0
    ∧ running (takePacket atCaskPacket 0 0) (3 / 4) = true ∧ sleeps atCaskPacket 0 (field caskPacket 24 8) 16 = false
    ∧ ∃ d u1, readRange (takePacket atCaskPacket 0 0) (queueReq (takePacket atCaskPacket 0 0) 0 0 0 .load)
        (BitVec.ofNat 64 (field caskPacket 24 8)) 16 = .ok (d, u1) ∧ caskSound d = true ∧ (caskAt u1 3).recs = []
        ∧ (caskAt u1 3).spilled = 0 ∧ caskQuiet u1 3 := by
  refine ⟨taken_of (by decide +kernel), by decide +kernel, by decide +kernel, by decide +kernel, by decide +kernel, by decide +kernel, ?_⟩
  obtain ⟨x, h, q⟩ := okAnd_ok (e := readRange (takePacket atCaskPacket 0 0) (queueReq (takePacket atCaskPacket 0 0) 0 0 0 .load)
      (BitVec.ofNat 64 (field caskPacket 24 8)) 16)
    (q := fun x => decide (caskSound x.1 = true ∧ (caskAt x.2 3).recs = [] ∧ (caskAt x.2 3).spilled = 0)
      && x.2.warps.all fun e => match e.2.park with
        | some (.cask d _) => decide (d ≠ 3)
        | _ => true) (by decide +kernel)
  rw [Bool.and_eq_true] at q
  obtain ⟨a, b, c⟩ := of_decide_eq_true q.1
  exact ⟨x.1, x.2, h, a, b, c, caskQuiet_of q.2⟩

/-- ServicePackets: a MIGRATE of the placed page. -/
def migratePacket : List Byte := leBytes 8 7 ++ leBytes 8 3 ++ leBytes 8 0x9000 ++ leBytes 40 0
def migrateCommand : List Byte :=
  leBytes 8 0 ++ leBytes 8 0x5000 ++ leBytes 8 placedLeaf.toNat ++ leBytes 8 (placedLeaf.toNat + 2 ^ 42) ++ leBytes 8 3
def atMigratePacket : State := withOperand (atQueue migratePacket) migrateCommand
theorem witness_ServicePackets_migrate : Taken .migrate atMigratePacket 0 0 0 migratePacket (takePacket atMigratePacket 0 0)
    ∧ (tenAt (takePacket atMigratePacket 0 0) 0).any (fun t => decide (tenAsid t = 0)) = true
    ∧ okAnd (readRange (takePacket atMigratePacket 0 0) (queueReq (takePacket atMigratePacket 0 0) 0 0 0 .load)
        (BitVec.ofNat 64 (field migratePacket 16 8)) 40) (fun x =>
      migrateSound x.1 && decide ((descriptor x.2 (field x.1 0 2)).ten = 0) && memWf x.2.mem
        && (leafOf x.2 (field x.1 0 2) (field x.1 8 8)).any fun l =>
          decide (l.pte = BitVec.ofNat 64 (field x.1 16 8) &&& ~~~(0x900 : DWord))) = true
    ∧ sleeps atMigratePacket 0 (field migratePacket 16 8) 40 = false :=
  ⟨taken_of (by decide +kernel), by decide +kernel, by decide +kernel, by decide +kernel⟩

/-- A migration whose entry lies at 0x9000, and the entry it finds there. Its page has 16 bytes, fewer than any page, so that the test
stays small. -/
def someMigration : Migration :=
  { ten := 0, queue := 0, index := 0, cpl := 0, asid := 0, va := 0x5000, expected := 0x40000000DF, newPte := 0x50000000DF, scope := 0
    pteLoc := hbmLoc (2 ^ 30 + 0x9000), log := 4 }
def atMigration (e : Nat) : State := { withOperand (at0 0) (leBytes 8 e) with migs := [(4, someMigration)] }

/-- ServicePackets: its copy, with the entry as marked and with another. -/
theorem witness_ServicePackets_copy : Copies (atMigration 0x40000008DF) 4 someMigration (someMigration.frame 0x50000000DF)
    ∧ BitVec.ofNat 64 (memNat (atMigration 0x40000008DF).mem someMigration.pteLoc 8)
      = (someMigration.expected &&& ~~~(0x900 : DWord)) ||| 0x800 :=
  ⟨⟨by decide +kernel, by decide +kernel, rfl, by unfold MemInv; decide +kernel, by decide +kernel, by
    rw [show pageKeyOf (atMigration 0x40000008DF) someMigration.asid someMigration.newPte = none by decide +kernel]
    exact underKey_none (by decide +kernel) _ _, by decide +kernel⟩, by decide +kernel⟩
theorem witness_ServicePackets_changed : Copies (atMigration 0x40000000DF) 4 someMigration (someMigration.frame 0x50000000DF)
    ∧ BitVec.ofNat 64 (memNat (atMigration 0x40000000DF).mem someMigration.pteLoc 8)
      ≠ (someMigration.expected &&& ~~~(0x900 : DWord)) ||| 0x800 :=
  ⟨⟨by decide +kernel, by decide +kernel, rfl, by unfold MemInv; decide +kernel, by decide +kernel, by
    rw [show pageKeyOf (atMigration 0x40000000DF) someMigration.asid someMigration.newPte = none by decide +kernel]
    exact underKey_none (by decide +kernel) _ _, by decide +kernel⟩, by decide +kernel⟩

/-- ServicePackets: an INVAL of a range, and a TENCFG of TVB alone. -/
def invalPacket : List Byte := leBytes 8 7 ++ leBytes 8 4 ++ leBytes 8 0 ++ leBytes 8 0x1000 ++ leBytes 8 4096 ++ leBytes 24 0
theorem witness_ServicePackets_inval : Taken .inval (atQueue invalPacket) 0 0 0 invalPacket (takePacket (atQueue invalPacket) 0 0)
    ∧ cplOf invalPacket = 0 :=
  ⟨taken_of (by decide +kernel), by decide +kernel⟩
def tencfgPacket : List Byte := leBytes 8 7 ++ leBytes 8 5 ++ leBytes 8 0x9000 ++ leBytes 2 0 ++ leBytes 38 0
/-- TVB and the three rings of tenancy 0: 16 fault records at 0x2000, no trap ring, 32 notification records at 0x4010. -/
def tencfgRecord (fl : Byte) : List Byte :=
  leBytes 8 0x7000 ++ leBytes 8 0x2000 ++ leBytes 8 0 ++ leBytes 8 0x4010 ++ [4, 0, 5, fl] ++ leBytes 2 0 ++ leBytes 26 0
/-- Pages of the placed address space are pinned; `n` fault records stand unconsumed. -/
def atTencfgPacket (fl : Byte) (n : Word) : State :=
  let s := withOperand (atQueue tencfgPacket) (tencfgRecord fl)
  { s with
    mem := memWrite s.mem (hbmLoc 0x101000) (leBytes 8 (placedLeaf.toNat + 0x100))
    cores := [(0, { placedCore with tlb := [] })]
    tenancies := [(0, { placedTenancy with queues := [(0, someQueue)], fault := { placedRing 0x2000 with prod := n } })] }
/-- RingFits, decided. -/
theorem ringFits_of {u : State} {n ra fl bit : Nat} {d : List Byte} {off log size : Nat}
    (h : (!fl.testBit bit || ringSound u n ra (field d off 8) (field d log 1) size) = true) : RingFits u n ra fl bit d off log size := by
  intro hb
  simpa [hb] using h
/-- The premises of a TENCFG with flags `fl` that takes the tenancy `tn`. -/
def tencfgOk (fl : Nat) (s : State) (q : Tenancy → Bool) : Bool :=
  okAnd (readRange (takePacket s 0 0) (queueReq (takePacket s 0 0) 0 0 (field tencfgPacket 24 2) .load)
      (BitVec.ofNat 64 (field tencfgPacket 16 8)) 64) fun x =>
    (tenAt x.2 0).any (fun tn => q tn && decide (2 ≤ fl → field x.1 36 2 ∈ tn.asids))
      && decide (fl = field x.1 35 1 ∧ zeroField x.1 38 26 = true ∧ field x.1 0 8 % 64 = 0)
      && (!fl.testBit 1 || ringSound x.2 0 (field x.1 36 2) (field x.1 8 8) (field x.1 32 1) 32)
      && (!fl.testBit 2 || ringSound x.2 0 (field x.1 36 2) (field x.1 16 8) (field x.1 33 1) 64)
      && (!fl.testBit 3 || ringSound x.2 0 (field x.1 36 2) (field x.1 24 8) (field x.1 34 1) 16)
def Configures (fl : Nat) (s : State) (q : Tenancy → Bool) : Prop :=
  Taken .tencfg s 0 0 0 tencfgPacket (takePacket s 0 0) ∧ cplOf tencfgPacket = 0
    ∧ sleeps s (field tencfgPacket 24 2) (field tencfgPacket 16 8) 64 = false
    ∧ ∃ d u1 tn, readRange (takePacket s 0 0) (queueReq (takePacket s 0 0) 0 0 (field tencfgPacket 24 2) .load)
        (BitVec.ofNat 64 (field tencfgPacket 16 8)) 64 = .ok (d, u1) ∧ tenAt u1 0 = some tn ∧ q tn = true ∧ fl = field d 35 1
      ∧ zeroField d 38 26 = true ∧ field d 0 8 % 64 = 0 ∧ (2 ≤ fl → field d 36 2 ∈ tn.asids)
      ∧ RingFits u1 0 (field d 36 2) fl 1 d 8 32 32 ∧ RingFits u1 0 (field d 36 2) fl 2 d 16 33 64
      ∧ RingFits u1 0 (field d 36 2) fl 3 d 24 34 16
theorem configures_of {fl : Nat} {s : State} {q : Tenancy → Bool} (h1 : takes .tencfg s 0 0 0 tencfgPacket = true)
    (h : tencfgOk fl s q = true) (ha : sleeps s (field tencfgPacket 24 2) (field tencfgPacket 16 8) 64 = false) : Configures fl s q := by
  obtain ⟨x, hx, h⟩ := okAnd_ok h
  simp only [Bool.and_eq_true] at h
  obtain ⟨⟨⟨⟨h2, h3⟩, h4⟩, h5⟩, h6⟩ := h
  obtain ⟨tn, ht, h2⟩ := any_some h2
  rw [Bool.and_eq_true] at h2
  obtain ⟨a, b, c⟩ := of_decide_eq_true h3
  exact ⟨taken_of h1, by decide +kernel, ha, x.1, x.2, tn, hx, ht, h2.1, a, b, c, of_decide_eq_true h2.2, ringFits_of h4, ringFits_of h5,
    ringFits_of h6⟩

/-- ServicePackets: TVB alone; TVB and every ring; and a fault ring that holds a record. -/
theorem witness_ServicePackets_tencfg : Configures 1 (atTencfgPacket 1 0) fun tn => decide (tn.fault.prod = tn.fault.cons) :=
  configures_of (by decide +kernel) (by decide +kernel) (by decide +kernel)
theorem witness_ServicePackets_rings : Configures 15 (atTencfgPacket 15 0) fun tn =>
    decide ((tn.fault.prod = tn.fault.cons ∧ tn.fault.waiting = []) ∧ (tn.trap.prod = tn.trap.cons ∧ tn.trap.waiting = [])
      ∧ tn.notif.prod = tn.notif.cons ∧ tn.notif.waiting = []) :=
  configures_of (by decide +kernel) (by decide +kernel) (by decide +kernel)
theorem witness_ServicePackets_busy : Configures 2 (atTencfgPacket 2 7) fun tn => decide (tn.fault.prod ≠ tn.fault.cons) :=
  configures_of (by decide +kernel) (by decide +kernel) (by decide +kernel)

/-! Witnesses: tenancies and outside accesses. -/

/-- Tenancies: a tenancy 63 with two queues and the cores 191 and 5, the join of core 191, a reset of a tenancy with a launch, one
that waits for a gated core, a frame, and key slot 511. -/
def someSpec : TenancySpec :=
  { id := 63, coreSet := [191, 5], asids := [4095], keys := [511]
    queues := [{ id := 0, inHost := true, base := 0, log := 16, priority := 3, service := false },
      { id := 15, inHost := false, base := 0, log := 6, priority := 0, service := true }] }
theorem witness_Tenancies : specSound someSpec = true ∧ tenAt (at0 0) someSpec.id = none ∧ someSpec.coreSet.Nodup
    ∧ ∀ c ∈ someSpec.coreSet, c < 192 ∧ coreBusy (at0 0) c = false := by decide +kernel
theorem witness_Tenancies_join : (tenAt (at0 0) 0).any (fun t => decide (191 ∉ t.coreSet)) = true ∧ coreBusy (at0 0) 191 = false := by
  decide +kernel
theorem witness_Tenancies_reset : (tenAt atLaunch 0).any (fun tn => tn.coreSet.all fun c => running atLaunch c) = true
    ∧ atLaunch.launches = [(7, someLaunch)] ∧ someLaunch.ten = 0 ∧ (warpAt atLaunch 0).any (fun w => decide (w.ten = 0)) = true := by
  decide +kernel
theorem witness_Tenancies_gated : (tenAt atGatedLaunch 0).any (fun tn => decide (2 ∈ tn.coreSet)) = true
    ∧ running atGatedLaunch 2 = false := by decide +kernel
theorem witness_Tenancies_key : 511 < 512 := by decide
theorem witness_Tenancies_frame : tget (at0 0).frameOwner (frameKey .hbm 3) ≠ some 5 := by decide +kernel

/-- OutsideAccesses: an access beyond what is up and one at an HBM frame; a store, an atomic and a reduction of another package. -/
def cxlRead (sp : HostSpace) (a n : Nat) : CxlAccess := { write := false, space := sp, addr := a, len := n, data := [] }
theorem witness_OutsideAccesses : spaceUp State.reset (cxlRead .hbm 0x5000 8).space (cxlRead .hbm 0x5000 8).addr (cxlRead .hbm 0x5000 8).len
      = false
    ∧ spaceUp (at0 0) (cxlRead .hbm 0x5000 8).space (cxlRead .hbm 0x5000 8).addr (cxlRead .hbm 0x5000 8).len = true
    ∧ spaceUp State.reset (cxlRead .host 0x5000 8).space (cxlRead .host 0x5000 8).addr (cxlRead .host 0x5000 8).len = true
    ∧ Unmarked (at0 0) (spaceLoc .hbm 0x5000) 8 := by
  refine ⟨by decide +kernel, by decide +kernel, by decide +kernel, ?_⟩
  unfold Unmarked
  decide +kernel

/-- The last of 8 bytes of HBM at 0x5000 is uncorrectable. -/
def atMarked : State := { at0 0 with poison := [frameLoc .hbm 0x5007] }
theorem witness_OutsideAccesses_marked : spaceUp atMarked .hbm 0x5000 8 = true ∧ ¬ Unmarked atMarked (spaceLoc .hbm 0x5000) 8
    ∧ frameUp atMarked .hbm 0x5004 4 = true ∧ ¬ Unmarked atMarked (frameLoc .hbm 0x5004) 4 := by
  unfold Unmarked
  decide +kernel
theorem witness_OutsideAccesses_write : spaceUp (at0 0) .host 0x5000 4 = true ∧ MemInv (at0 0)
    ∧ UnderKey (at0 0) none (spaceLoc .host 0x5000) 4 :=
  ⟨by decide +kernel, by unfold MemInv; decide +kernel, underKey_none (by decide +kernel) _ _⟩

/-- Key slot 511 is tenancy 3's. -/
def atKeySlot : State := { at0 0 with keySlots := [(511, { ten := 3, gen := 2 })] }
theorem witness_OutsideAccesses_keys : homeKey atKeySlot 3 (some 511) = some (some (511, 2)) ∧ homeKey atKeySlot 4 (some 511) = none
    ∧ homeKey atKeySlot 3 (some 510) = none := by decide +kernel
theorem witness_OutsideAccesses_remote : homeKey (at0 0) 3 none = some none ∧ (at0 0).level = 2 ∧ frameUp (at0 0) .t2 0x5000 4 = true
    ∧ MemInv (at0 0) ∧ UnderKey (at0 0) none (frameLoc .hbm 0x5000) 4 ∧ UnderKey (at0 0) none (frameLoc .t2 0x5000) 4
    ∧ Unmarked (at0 0) (frameLoc .hbm 0x5000) 4 :=
  ⟨by decide +kernel, by decide +kernel, by decide +kernel, by unfold MemInv; decide +kernel, underKey_none (by decide +kernel) _ _,
    underKey_none (by decide +kernel) _ _, by unfold Unmarked; decide +kernel⟩

/-! Witnesses: the machine as a whole. -/

/-- EncodingsAgree. -/
theorem witness_EncodingsAgree : (Instr.qpush 4 0).wellFormed = true ∧ encodeWord (.qpush 4 0) ≠ none := by decide +kernel

/-- A step goes on. -/
def goesOn (s : State) : Bool :=
  match step s with
  | .next _ => true
  | _ => false

/-- The next action is the issue of split 0 of slot 0. -/
def issuesFirst (s : State) : Bool := decide (nextAction s = .choice (.issue 0 0))

/-- The bytes are read as the instruction, with nothing left. -/
def readsAs (b : List Byte) (i : Instr) : Bool :=
  match decode b with
  | .ok (x, []) => decide (x = i)
  | _ => false

/-- StepRunsTheWord: a word that the instruction buffer holds. -/
def atHeld : State := atW 0 fun w => w.updSplit 0 fun sp => { sp with clause := sp.clause.map fun cl => { cl with held := [0x19004103] } }
theorem witness_StepRunsTheWord_held : issuesFirst atHeld = true ∧ ∃ cx, focus { atHeld with cur := some (0, 0) } = some cx
    ∧ (heldWords cx.sp = [0x19004103] ∧ readsAs (bytesOfWord 0x19004103) (.pand 1 2 3) = true) :=
  ⟨by decide +kernel, focus_any (by decide +kernel)⟩

/-- StepRunsTheWord: a word fetched, a clause start, and an event of the environment. -/
theorem witness_StepRunsTheWord : ∃ cx, focus { at0 0x19004103 with cur := some (0, 0) } = some cx
    ∧ (issuesFirst (at0 0x19004103) = true ∧ cx.sp.clause ≠ none ∧ heldWords cx.sp = []
      ∧ okAnd (fetchWord { at0 0x19004103 with cur := some (0, 0) } cx cx.sp.pc)
          (fun r => readsAs (bytesOfWord r.1) (.pand 1 2 3)) = true) :=
  focus_any (by decide +kernel)
theorem witness_StepRunsTheWord_fetch : ∃ cx, focus (at0 0x19004103) = some cx
    ∧ (okAnd (fetchWord (at0 0x19004103) cx cx.sp.pc) (fun r => decide (r.1 = 0x19004103)) = true
      ∧ okAnd (xlateAll (at0 0x19004103) (cx.req .fetch .fetch) cx.sp.pc 4) (fun r => decide (r.map (fun e => (e.1, e.2.1)) = [(0, 4)])) = true) :=
  focus_any (by decide +kernel)
theorem witness_StepRunsTheWord_start : issuesFirst (atStart 0x14004103 0xFFF id) = true
    ∧ ∃ cx, focus { atStart 0x14004103 0xFFF id with cur := some (0, 0) } = some cx ∧ cx.sp.clause = none :=
  ⟨by decide +kernel, focus_any (by decide +kernel)⟩
theorem witness_StepRunsTheWord_input : ({ at0 0 with inputs := [(1, .droopEvent 5)] } : State).inputs = [(1, .droopEvent 5)]
    ∧ 1 ≤ ({ at0 0 with inputs := [(1, .droopEvent 5)] } : State).now := by decide +kernel

/-- MemoryForm: a step that issues a word, and the step after reset. -/
theorem witness_MemoryForm : MemInv (at0 0x19004103) ∧ goesOn (at0 0x19004103) = true :=
  ⟨by unfold MemInv; decide +kernel, by decide +kernel⟩
theorem witness_MemoryForm_reset : MemInv State.reset ∧ goesOn State.reset = true := ⟨by unfold MemInv; decide +kernel, by decide +kernel⟩

/-- GuardedOff: a branch and a load under guard P1, which is zero. -/
theorem witness_GuardedOff : encodeWord (.br 0 4) = some 0x82000004 ∧ ∃ cx, focus (atW 0x82000004 fun w => { w with mode := 0x4800 }) = some cx
    ∧ cx.sp.mask &&& guardMask (atW 0x82000004 fun w => { w with mode := 0x4800 }) cx.k cx.w = 0 :=
  ⟨by decide +kernel, focus_any (by decide +kernel)⟩

/-- ImmediateWords: SMOVI, SMOVHI, SADDI and SANDI. -/
theorem witness_ImmediateWords : ∃ cx, focus (at0 0) = some cx ∧ (eff (at0 0) cx ≠ 0 ∧ 1 ≤ wordsLeft cx.sp
    ∧ (immediateOf (at0 0) cx (.smovi 4 0x8000)).isSome = true ∧ (immediateOf (at0 0) cx (.smovhi 4 0xFFFF)).isSome = true
    ∧ (immediateOf (at0 0) cx (.saddi 4 0xFFFF)).isSome = true ∧ (immediateOf (at0 0) cx (.sandi 4 0xFFFF)).isSome = true) :=
  focus_any (by decide +kernel)

/-- StagePredicates: iteration warps 2 and 3 of a brew of three under SP0, SP1 of iteration warp 0, and SP7 outside a brew. -/
theorem witness_StagePredicates : ∃ cx, focus (atIter 0 2 0xC000) = some cx
    ∧ (cx.w.iter = some 2 ∧ brewOf (atIter 0 2 0xC000) cx.k = some someBrew
      ∧ cx.w.mode.extractLsb' 11 5 = 0b11000#5 + BitVec.ofNat 5 0 ∧ (2 : Int) - 0 ≤ (someBrew.n : Int) - 1) :=
  focus_any (by decide +kernel)
theorem witness_StagePredicates_beyond : ∃ cx, focus (atIter 0 3 0xC000) = some cx
    ∧ (cx.w.iter = some 3 ∧ brewOf (atIter 0 3 0xC000) cx.k = some someBrew
      ∧ cx.w.mode.extractLsb' 11 5 = 0b11000#5 + BitVec.ofNat 5 0 ∧ ¬ ((3 : Int) - 0 ≤ (someBrew.n : Int) - 1)) :=
  focus_any (by decide +kernel)
theorem witness_StagePredicates_before : ∃ cx, focus (atIter 0 0 0xC800) = some cx
    ∧ (cx.w.iter = some 0 ∧ brewOf (atIter 0 0 0xC800) cx.k = some someBrew
      ∧ cx.w.mode.extractLsb' 11 5 = 0b11000#5 + BitVec.ofNat 5 1 ∧ ¬ (0 ≤ (0 : Int) - 1)) :=
  focus_any (by decide +kernel)
theorem witness_StagePredicates_outside : ∃ cx, focus (atW 0 fun w => { w with mode := 0xF800 }) = some cx
    ∧ (cx.w.iter = none ∧ cx.w.mode.extractLsb' 11 5 = 0b11000#5 + BitVec.ofNat 5 7) :=
  focus_any (by decide +kernel)

/-! Well-formedness: for every check an instruction that it refuses, and one it lets pass. -/

theorem test_wf_vdst : (Instr.vadd 121 0 0).wellFormed = false ∧ (Instr.vadd 120 0 0).wellFormed = true := by decide
theorem test_wf_vsrc : (Instr.vadd 0 124 0).wellFormed = false ∧ (Instr.vadd 0 126 0).wellFormed = false
    ∧ (Instr.vadd 0 123 127).wellFormed = true := by decide
theorem test_wf_vdstLong : (Instr.vldW 112 0 0).wellFormed = false ∧ (Instr.vldW 111 0 0).wellFormed = true := by decide
theorem test_wf_staticRun : (Instr.vldQ 77 0 0).wellFormed = false ∧ (Instr.vldQ 76 0 0).wellFormed = true := by decide
theorem test_wf_predCode : (Instr.pand 8 0 0).wellFormed = false ∧ (Instr.pand 7 7 7).wellFormed = true := by decide
theorem test_wf_scalCode : (Instr.sadd 64 0 0).wellFormed = false ∧ (Instr.sadd 63 63 63).wellFormed = true := by decide
theorem test_wf_pairCode : (Instr.vldW 0 0 3).wellFormed = false ∧ (Instr.vldW 0 0 62).wellFormed = true := by decide
theorem test_wf_headCode : (Instr.hadd 16 0 0).wellFormed = false ∧ (Instr.hadd 15 15 15).wellFormed = true := by decide
theorem test_wf_zeroCode : (Instr.hneg 0 0 1).wellFormed = false ∧ (Instr.hneg 0 0 0).wellFormed = true := by decide
theorem test_wf_typeCode : (Instr.vcvt 0 0 9).wellFormed = false ∧ (Instr.vcvt 0 0 8).wellFormed = true := by decide
theorem test_wf_distance : (Instr.vshup 0 0 7).wellFormed = false ∧ (Instr.vshup 0 0 6).wellFormed = true := by decide
theorem test_wf_catZero : (Instr.br 1 0).wellFormed = false ∧ (Instr.br 0 0).wellFormed = true := by decide
theorem test_wf_catNext : (Instr.qtry 63 0).wellFormed = false ∧ (Instr.qtry 62 0).wellFormed = true := by decide
theorem test_wf_catEven : (Instr.kld 5 0).wellFormed = false ∧ (Instr.kld 62 0).wellFormed = true := by decide
theorem test_wf_catEven2 : (Instr.cut 62 0).wellFormed = false ∧ (Instr.cut 60 0).wellFormed = true := by decide
theorem test_wf_catPred : (Instr.brany 8 0).wellFormed = false ∧ (Instr.brany 7 0).wellFormed = true := by decide
theorem test_wf_immZero : (Instr.qpush 0 1).wellFormed = false ∧ (Instr.qpush 0 0).wellFormed = true := by decide
theorem test_wf_immBelow : (Instr.sbal 0 16).wellFormed = false ∧ (Instr.sbal 0 15).wellFormed = true
    ∧ (Instr.bara 0 0x800).wellFormed = false ∧ (Instr.bara 0 0x7FF).wellFormed = true := by decide
theorem test_wf_mode : (Instr.mode 0 0x3800).wellFormed = false ∧ (Instr.mode 0 0x0480).wellFormed = false
    ∧ (Instr.mode 0 0x0050).wellFormed = false ∧ (Instr.mode 0 0x0001).wellFormed = false ∧ (Instr.mode 0 0xFC4C).wellFormed = true := by decide
theorem test_wf_pset : (Instr.pset 0 0x81).wellFormed = false ∧ (Instr.pset 0 0xC0).wellFormed = false ∧ (Instr.pset 0 1).wellFormed = false
    ∧ (Instr.pset 0 0x100).wellFormed = false ∧ (Instr.pset 0 0xBE).wellFormed = true := by decide
theorem test_wf_base : (Instr.sld 0 0x0400).wellFormed = false ∧ (Instr.sld 0 0xF800).wellFormed = true := by decide
theorem test_wf_vreg : (Instr.vrget 0 0xA000).wellFormed = false ∧ (Instr.vrget 0 0x9E00).wellFormed = true := by decide
theorem test_wf_blocks : (Instr.claim 0 0).wellFormed = false ∧ (Instr.claim 0 11).wellFormed = false ∧ (Instr.claim 0 10).wellFormed = true := by
  decide
theorem test_wf_enter : (Instr.enter 0 4).wellFormed = false ∧ (Instr.enter 0 8).wellFormed = true := by decide
theorem test_wf_status : (Instr.swr 0 0x33).wellFormed = false ∧ (Instr.swr 0 0x32).wellFormed = true
    ∧ (Instr.srd 5 2).wellFormed = false ∧ (Instr.srd 4 2).wellFormed = true ∧ (Instr.srd 5 3).wellFormed = true := by decide
theorem test_wf_unassigned : (Instr.unassignedOpcode 0).wellFormed = false ∧ (Instr.unassignedOpcode 0x19800000).wellFormed = true
    ∧ (Instr.undefinedClassH 0xBFFFFFFF).wellFormed = false ∧ (Instr.undefinedClassH 0xC0000000).wellFormed = true := by decide

/-! Results: the manual's examples, and corners worked out by hand from its rules. -/

/-- R289's example: FMA keeps 2^−24, where VMUL and VADD give 0. -/
theorem test_fma : mapElems3 .f32 (fmaElem fF32 (fmodeOf 0x100) false) 0x3F800800 0x3F800800 0xBF801000 = 0x33800000
    ∧ mapElems2 .f32 (arithElem .f32 (fmodeOf 0x100) .add) (mapElems2 .f32 (arithElem .f32 (fmodeOf 0x100) .mul) 0x3F800800 0x3F800800)
      0xBF801000 = 0 := by decide +kernel

/-- R304's example. -/
theorem test_imad : mapElems3 .i16x2 (imadElem .i16x2 true) 0x70000002 0x00020003 0x00010001 = 0x7FFF0007
    ∧ mapElems3 .i16x2 (imadElem .i16x2 false) 0x70000002 0x00020003 0x00010001 = 0xE0010007
    ∧ mapElems3 .i32 (imadElem .i32 false) 0x7FFFFFFF 2 3 = 1 := by decide +kernel

/-- R112's example: 1 + 2^−24 under RNE and RUP, and a saturated product. -/
theorem test_rounding : arithElem .f32 { rm := .rne, sat := false, dnz := false } .add 0x3F800000 0x33800000 = 0x3F800000
    ∧ arithElem .f32 { rm := .rup, sat := false, dnz := false } .add 0x3F800000 0x33800000 = 0x3F800001
    ∧ arithElem .f32 { rm := .rne, sat := true, dnz := false } .mul 0x7F7FFFFF 0x40000000 = 0x7F7FFFFF
    ∧ arithElem .f32 { rm := .rne, sat := true, dnz := false } .mul 0x7F800000 0x40000000 = 0x7F800000 := by decide +kernel

/-- R120's examples: −2.5 under RNE and RNA, +∞, and −1.0 in N8. -/
theorem test_cvt : cvtWord .f32 .i32 { rm := .rne, sat := false, dnz := false } 0xC0200000 = 0xFFFFFFFE
    ∧ cvtWord .f32 .i32 { rm := .rna, sat := false, dnz := false } 0xC0200000 = 0xFFFFFFFD
    ∧ cvtWord .f32 .i32 { rm := .rne, sat := false, dnz := false } 0x7F800000 = 0x7FFFFFFF
    ∧ cvtWord .f32 .n8x4 { rm := .rne, sat := false, dnz := false } 0xBF800000 = 0 := by decide +kernel

/-- R128's example: a window of 2^27, −2^27 and C. -/
theorem test_window : windowSum [.fin false 1 27, .fin true 1 27, .fin false 1 (-1)] = 0
    ∧ windowSum [.fin false 1 27, .fin true 1 27, .fin true 3 (-1)] = 0xBF800000
    ∧ windowSum [.fin false 1 27, .fin true 1 27, .fin false 3 0] = 0x40400000 := by decide +kernel

/-- The payload of the last result on its way in the warp of slot 0 after a step, when it is a word. -/
def lastWord (s : State) : Option Word :=
  match step s with
  | .next t => ((warpAt t 0).bind fun w => w.pend.getLast?).bind fun r => match r.payload with
      | .word x => some x
      | _ => none
  | _ => none

/-- The PC of split 0 in slot 0 after a step. -/
def pcAfter (s : State) : Option DWord :=
  match step s with
  | .next t => ((warpAt t 0).bind fun w => tget w.splits 0).map fun sp => sp.pc
  | _ => none

/-- SADD wraps; SSRA of a negative number by 31; SMIN of signed words (R336, R339, R340). -/
theorem test_sadd : lastWord (atW 0x14004103 (setS [(2, 0xFFFFFFFF), (3, 3)])) = some 2 := by decide +kernel
theorem test_words : encodeWord (.ssra 1 2 3) ≠ none
    ∧ lastWord (atW ((encodeWord (.ssra 1 2 3)).getD 0).toNat (setS [(2, 0x80000000), (3, 31)])) = some 0xFFFFFFFF
    ∧ lastWord (atW ((encodeWord (.smin 1 2 3)).getD 0).toNat (setS [(2, 0x80000000), (3, 1)])) = some 0x80000000 := by decide +kernel

/-- BR goes to its own address plus its offset; BRZ is taken on 0 alone (R267, R272). -/
theorem test_br : pcAfter (at0 0x82000004) = some (0x1004 + 16) ∧ pcAfter (at0 0x8200FFFF) = some (0x1004 - 4) := by decide +kernel
theorem test_brz : pcAfter (at0 ((encodeWord (.brz 4 4)).getD 0).toNat) = some (0x1004 + 16)
    ∧ pcAfter (atW ((encodeWord (.brz 4 4)).getD 0).toNat (setS [(4, 1)])) = some 0x1008 := by decide +kernel

/-- The word placed before the step is the one it runs (entry 21). -/
theorem test_withFetchWord : issuesFirst (at0 0x14004103) = true
    ∧ decodeTableWord 32 0x14004103 = some (.sadd 1 2 3) := by decide +kernel

end Sys2Proof.Tests
end

section
/-! PROOFS. A word with no active lane is a no-operation (R26, R41, R56): its slot is used, its split goes on after the word and its
literals, and nothing else happens. -/

namespace Sys2Proof.Machine

/-! What a word leaves that only uses its slot. -/

theorem spendSlot_frame (rule : IssueRule) (s : State) (cx : Cx) : SlotFrame s (spendSlot rule s cx) := by
  cases rule with
  | vector wide => exact (bookPasses_frame _ _ _).trans (updWarp_frame _ _ _)
  | scalar => exact useScalar_frame _ _
  | always => exact useScalar_frame _ _

theorem spendSlot_others (rule : IssueRule) (s : State) (cx : Cx) : OthersSame s (spendSlot rule s cx) cx.k := by
  cases rule with
  | vector wide => exact OthersSame.updWarp _ _ _
  | scalar => exact .of_warps _ rfl
  | always => exact .of_warps _ rfl

/-- The use of a slot keeps a word on its way; of its warp it may empty the latches of the word's split (R35). -/
theorem OnWay.spendSlot {s t : State} {cx : Cx} {w : Warp} (h : OnWay s cx t w) (rule : IssueRule) :
    ∃ w', OnWay s cx (Machine.spendSlot rule t cx) w' ∧ w' = { w with splits := w'.splits } := by
  cases rule with
  | vector wide =>
    have booked (ps : List Pass) : OnWay s cx (bookPasses t cx.k ps) w := h.of_warps rfl rfl
    exact ⟨_, (booked _).updWarp (fun w => w.updSplit cx.j fun sp => { sp with latches := noLatches }) (latches_core w cx.j noLatches),
      Warp.updSplit_rest ..⟩
  | scalar => exact ⟨w, h.of_warps rfl rfl, rfl⟩
  | always => exact ⟨w, h.of_warps rfl rfl, rfl⟩

/-- THE NO-OPERATION (R26, R41, R56): the word's slot is used, and its split goes on after the word and those of its literals that the
clause holds. -/
def skipped (rule : IssueRule) (i : Instr) (s : State) (cx : Cx) : State :=
  finishNext (spendSlot rule (unpark s cx) cx) cx (min (litCount i) (wordsLeft cx.sp - 1)) .seq

/-- A skipped word is done, and only the scheduling of its quadrant has changed. -/
theorem skipped_completes (rule : IssueRule) (i : Instr) {s : State} {cx : Cx} (hf : focus s = some cx) :
    ∃ w', Completes s (skipped rule i s cx) cx (nextPc cx (min (litCount i) (wordsLeft cx.sp - 1))) w' ∧ SameWarp cx.j cx.w w'
      ∧ w'.pend = cx.w.pend ∧ SlotFrame s (skipped rule i s cx) := by
  obtain ⟨w1, h1, e1⟩ := (onWay_unpark hf).spendSlot rule
  have others : OthersSame s (spendSlot rule (unpark s cx) cx) cx.k :=
    (OthersSame.updWarp s cx.k _).trans (spendSlot_others rule (unpark s cx) cx)
  have frame : SlotFrame s (skipped rule i s cx) :=
    ((updWarp_frame s cx.k _).trans (spendSlot_frame rule (unpark s cx) cx)).trans (finishNext_frame _ _ _ _)
  obtain ⟨w2, h2, e2⟩ := h1.completes others (min (litCount i) (wordsLeft cx.sp - 1))
  refine ⟨w2, h2, ?_, ?_, frame⟩
  · unfold SameWarp
    rw [e2, e1]
    rfl
  · rw [e2, e1]
    rfl

/-! Every word but MODE and TRET is skipped when its effective mask is empty. -/

/-- THE FORM OF A WORD that its guard binds: without a lane it is skipped, and with some it acts. The beginning of `runWord`. -/
def guarded (rule : IssueRule) (i : Instr) (s : State) (act : Cx → Host.Outcome State Fault Refusal) :
    Host.Outcome State Fault Refusal :=
  match focus s with
  | none => .next s
  | some cx => if wordLanes rule s cx = 0 then .next (skipped rule i s cx) else act cx

/-- A word whose rule lets its guard bind it is skipped when no lane is active. -/
theorem guarded_of_inactive {rule : IssueRule} {i : Instr} {s : State} {cx : Cx} {act : Cx → Host.Outcome State Fault Refusal}
    (hr : rule ≠ .always) (hf : focus s = some cx) (he : eff s cx = 0) : guarded rule i s act = .next (skipped rule i s cx) := by
  simp [guarded, wordLanes, hf, hr, he]

theorem unassignedRule_ne_always (u : Word) : unassignedRule u ≠ .always := by
  simp only [unassignedRule]
  split <;> nofun

/-- The meaning of every word but MODE and TRET has the form: each is an issue by `runWord` in the vector or the scalar slot. -/
theorem exec_eq_guarded {i : Instr} {w : Word} (hw : encodeWord i = some w) (hm : ∀ x imm, i ≠ .mode x imm)
    (ht : ∀ x imm, i ≠ .tret x imm) (s : State) : ∃ rule act, exec i s = guarded rule i s act ∧ rule ≠ .always := by
  cases i
  case mode x imm => exact absurd rfl (hm x imm)
  case tret x imm => exact absurd rfl (ht x imm)
  case unassignedOpcode u => exact ⟨unassignedRule u, _, rfl, unassignedRule_ne_always u⟩
  -- an event has no word
  all_goals cases hw
  -- a word of the vector or of the scalar slot
  all_goals exact ⟨_, _, rfl, nofun⟩

/-- Settles O58: such a word is skipped, whatever its meaning would do. -/
theorem guardedOff : Obligations.GuardedOff := by
  unfold Obligations.GuardedOff
  intro i w s cx hw hm ht hf he
  obtain ⟨rule, act, hx, hr⟩ := exec_eq_guarded hw hm ht s
  obtain ⟨w', hc, hs, hp, hframe⟩ := skipped_completes rule i hf
  exact ⟨skipped rule i s cx, w', hx.trans (guarded_of_inactive hr hf he), hc, hs, hp, hframe⟩

end Sys2Proof.Machine
end

section
/-! PROOFS. SMOVI, SMOVHI, SADDI and SANDI (R338): each is a scalar word whose value is that of the table. -/

namespace Sys2Proof.Machine

/-- A SCALAR WORD WITHOUT LITERALS AND WITH ONE RESULT IN A REGISTER (R50): it completes, and the value its meaning makes is visible
2 cycles after issue; nothing is attached to a flag. -/
theorem scalarOut_completes {i : Instr} {s : State} {cx : Cx} (h : Ready i s cx) (hn : litCount i = 0) (d : Nat)
    (f : State → Cx → Word) :
    ∃ t w', scalarOut i d s f = .next t ∧ Completes s t cx (cx.sp.pc + 4) w'
      ∧ Results cx.w w' (.s d) (.word (f (useScalar (unpark s cx) cx.k) cx)) (eff s cx) (s.now + 2)
      ∧ w'.ops = cx.base.ops ∧ SameWarp cx.j cx.w w' ∧ SlotFrame s t := by
  obtain ⟨t, w', hx, hc, hw, hr, hf⟩ := runWord_result h hn (d := .s d) (m := eff s cx) nofun nofun
    (body := fun cx _ s => .ok (emit s cx.k cx.j (.s d) (.word (f s cx)) (eff s cx) 2, .seq)) (by rw [eff_slot])
  have ops : w'.ops = cx.base.ops := by
    rw [hw]
    rfl
  exact ⟨t, w', hx, hc, hr, ops, hw, hf⟩

/-! The words of the table. -/

/-- A half above the low half of a word, as the table writes it. -/
theorem append_low_eq_ofNat (imm : Half) (x : Word) : imm ++ x.setWidth 16 = BitVec.ofNat 32 (imm.toNat * 2 ^ 16 + x.toNat % 2 ^ 16) := by
  apply BitVec.eq_of_toNat_eq
  have := imm.isLt
  rw [Laws.append_toNat, BitVec.toNat_setWidth, BitVec.toNat_ofNat]
  omega

/-- The sum of two words, as the table writes it. -/
theorem add_eq_ofNat (x y : Word) : x + y = BitVec.ofNat 32 ((x.toNat + y.toNat) % 2 ^ 32) := by
  apply BitVec.eq_of_toNat_eq
  rw [BitVec.toNat_add, BitVec.toNat_ofNat, Nat.mod_mod]

/-- Each immediate word has no field to refuse and no literal, and is a scalar word that makes the value of the table. -/
theorem immediateOf_exec {i : Instr} {s : State} {cx : Cx} {d : Nat} {x : Word} (hi : immediateOf s cx i = some (d, x)) :
    legal i = true ∧ litCount i = 0 ∧ ∃ f, exec i s = scalarOut i d s f ∧ f (useScalar (unpark s cx) cx.k) cx = x := by
  unfold immediateOf at hi
  split at hi
  case h_1 r imm =>
    cases hi
    exact ⟨rfl, rfl, fun _ _ => simm imm, rfl, rfl⟩
  case h_2 r imm =>
    cases hi
    refine ⟨rfl, rfl, fun s cx => imm ++ (readS s cx.w r.toNat).setWidth 16, rfl, ?_⟩
    simpa only [readS_slot] using append_low_eq_ofNat imm _
  case h_3 r imm =>
    cases hi
    refine ⟨rfl, rfl, fun s cx => readS s cx.w r.toNat + simm imm, rfl, ?_⟩
    simpa only [readS_slot, simm] using add_eq_ofNat _ _
  case h_4 r imm =>
    cases hi
    refine ⟨rfl, rfl, fun s cx => readS s cx.w r.toNat &&& simm imm, rfl, ?_⟩
    simp only [readS_slot, simm]
  case h_5 => cases hi

/-- The opcodes of the table are those the words are encoded with. -/
theorem decodeWord_immediate (x : BitVec 6) (imm : Half) :
    decodeWord (wordS 0x00 x imm) = .smovi x imm ∧ decodeWord (wordS 0x01 x imm) = .smovhi x imm
      ∧ decodeWord (wordS 0x02 x imm) = .saddi x imm ∧ decodeWord (wordS 0x03 x imm) = .sandi x imm :=
  ⟨Laws.Roundtrip.smovi x imm rfl _ rfl, Laws.Roundtrip.smovhi x imm rfl _ rfl, Laws.Roundtrip.saddi x imm rfl _ rfl,
    Laws.Roundtrip.sandi x imm rfl _ rfl⟩

/-- Settles O59: a word of the table is a scalar word that makes its value there, and its opcode decodes to it. -/
theorem immediateWords : Obligations.ImmediateWords := by
  unfold Obligations.ImmediateWords
  refine ⟨fun i s cx d x hi focus active room => ?_, decodeWord_immediate⟩
  obtain ⟨legal, lits, f, hx, rfl⟩ := immediateOf_exec hi
  rw [hx]
  exact scalarOut_completes ⟨focus, active, legal, room⟩ lits d f

end Sys2Proof.Machine
end
